-- ==== Sys2Proof/Word.lean ====
section
/-!
DEFINITION. The words of the DQ-6400 and their plainest arithmetic (R2, R3): bytes, instruction words, 64-bit
register words, the 128-bit granule of the queues (R30), and slices written as the manual writes them.
-/

namespace Sys2Proof

/-- A byte of memory. -/
abbrev Byte := BitVec 8

/-- A 64-bit scalar register, address or record field (R46). -/
abbrev Word := BitVec 64

/-- A 32-bit instruction word (R100). -/
abbrev IWord := BitVec 32

/-- The granule of 128 bits that queues and lanes move (R30). -/
abbrev Granule := BitVec 128

/-- A five-bit register field (R101, R102). -/
abbrev RegNo := BitVec 5

/-- The mask operand of a vector or tile word: `none` when me = 0, the mask register number when me = 1 (R103). -/
abbrev MaskOp := Option (BitVec 2)

end Sys2Proof
end

