-- ==== Sys2Proof/Config.lean ====
section
/-!
DEFINITION. What the manual leaves to the implementation or to the outside world, as constants without a body:
nothing can be proved about their values.
-/

namespace Sys2Proof.Config

/-- R324, R325: whether the RSA-3072 and SLH-DSA-SHA2-192s signatures of a firmware image verify for its digest D against the key
digests fused into the I/O die. The manual names the algorithms and not the fused keys (log entry 20). -/
opaque signaturesVerify : List Byte → List Byte → List Byte → Bool

/-- R326: the identity key's signature of a measurement, and the certificate chain of that key, which the manual names and does
not give (log entry 20). -/
opaque identitySign : List Byte → List Byte
opaque identityChain : List Byte

/-- R326: the policy that firmware has set, as the bytes that are measured: firmware's own words, the fabric timeout, the
migration policy, the replica retries and the watchdog limits, in a form that the manual does not give (log entry 20). -/
opaque policyForm : List Word → List (Nat × Nat) → List Byte

/-- R312, R314: the version, the length in 64-byte units and the BAR 0 offset of entry `k` of the capability list, of
which the manual gives neither (log entry 44). -/
opaque capVersion : Nat → BitVec 8
opaque capLength : Nat → BitVec 8
opaque capBody0 : Nat → BitVec 32

/-- R311, R314: byte `o` of the register block of entry `k`, whose layout the manual does not give, from what the block holds
(log entry 44). -/
opaque blockByte : Nat → List Word → Nat → Byte

/-- A value that the manual leaves open, drawn fresh at each use from a counter of the state (log entry 21). -/
opaque freeWord : Nat → Word

end Sys2Proof.Config
end

