-- ==== Sys2Proof/Syntax.lean ====
section
/-!
DEFINITION. The instructions and events of the DQ-6400: one constructor per row of the opcode table.

The first 70 are the events of the table that no word encodes: the transitions of the reference machine (R85-R99),
of the engines, of the sequencer, of the dispatchers and of the module. Their arguments are what the rules leave to
the outside world or to the order of agents (which pending unit goes next, what the host writes).
The rest are the 320 opcode points of R107, with the operand fields of their encodings (R101, R102); a mask operand
is `some mk` when the me bit is 1 and `none` when it is 0 (R103).
-/

namespace Sys2Proof

/-- One constructor per row of the opcode table. -/
inductive Instr where
  /-- R90. A pending load takes its value from the store buffer or the home. -/
  | loadPerform (k : Nat)
  /-- R90. The head store-buffer entry is performed at its home. -/
  | storeDrain
  /-- R90. An AMO reads, modifies and writes its location at the home in one transition. -/
  | amoPerform (k : Nat)
  /-- R91. A pending vector element operation is performed. -/
  | vOperationPerform (k : Nat)
  /-- R93. Both threads' fence.all complete once drains are done. -/
  | fenceAllComplete
  /-- R77. The cluster control core completes a marked granule and counts subn. -/
  | subnormalAssist
  /-- R96. A thread's barrier arrival is performed after its earlier operations. -/
  | barrierArrival (x : Bool) (b : BitVec 3)
  /-- R127. A sev event is delivered after its release, setting the pending-event bit. -/
  | eventDelivery (k : Nat)
  /-- R161. Once commit reaches the reservation, A2 commits entries and may wake the watcher. -/
  | vappendCommit
  /-- R94. An engine agent begins reading its source after earlier A-thread operations and lower sequence numbers. -/
  | engineStart (t : BitVec 64)
  /-- R94. An engine read, write or push unit is performed. -/
  | engineUnit (t : BitVec 64) (n : Nat) (w : Bool) (bad : Bool)
  /-- R94. A command's token completes when all its units are performed. -/
  | engineTokenComplete (t : BitVec 64)
  /-- R287. Setting resolved or unresolvable in an absent-fault entry releases the paused command. -/
  | absentFaultResolve (u : Nat) (n : Nat) (ok : Bool)
  /-- R291. An internal error completes the served context's commands in state 2 with cause 0x13. -/
  | engineInternalError (t : BitVec 64)
  /-- R95. A twin surface's side bit flips once earlier transfers and operations are done. -/
  | pubFlip (t : BitVec 64)
  /-- R185. A tokw waiting past the context limit raises engine overdue. -/
  | tokwWatchdog
  /-- R302. The migration engine moves one 64 KiB page to a new frame. -/
  | pageMove (t : BitVec 64)
  /-- R295. A translation walk reads entries from level 3 down. -/
  | pageWalk (ctx : Nat) (die : Nat) (core : Nat) (va : BitVec 64)
  /-- R295. A walk waiting on MV walks again once it is cleared. -/
  | walkRetry
  /-- R228. On a kvpin transfer's completion the agent updates the pool entry and sets events. -/
  | kvPageInComplete (t : BitVec 64)
  /-- R226. A freed frame joins the free list when its transfer to tier 0 completes. -/
  | kvretFrameFree (t : BitVec 64)
  /-- R232. Once both threads arrive at rvchain, the sequencer checks the block and loads a frame. -/
  | chainStart
  /-- R236. Both threads' rvret complete a call with a package fence and advance the schedule. -/
  | callComplete
  /-- R237. A cask copy's token completes and the next action begins. -/
  | caskCopyComplete
  /-- R240. Matching rvabort in both threads unwind frames after their copies complete. -/
  | abortUnwind
  /-- R334. Threads waiting at different CHAIN functions trap the A-thread. -/
  | rendezvousMismatch
  /-- R44. A write of a ring tail line wakes the module dispatcher. -/
  | dispatcherWake (q : Nat)
  /-- R258. The dispatcher takes, checks and acknowledges one launch record. -/
  | launchRecord (q : Nat)
  /-- R270. A rerun record discards a pending launch's strands and expands it again. -/
  | rerun (t : BitVec 64)
  /-- R261. When its waited tokens complete a launch is expanded or cancelled. -/
  | launchEligible (t : BitVec 64)
  /-- R262. A launch token completes when its strands and their operations are done. -/
  | launchTokenComplete (t : BitVec 64)
  /-- R263. A die dispatcher places an unborn or suspended strand in a free slot. -/
  | placement (die : BitVec 2) (core : BitVec 4) (slot : BitVec 2)
  /-- R267. The dispatcher preloads code and scratchpad for the next launch of a slot. -/
  | preload (die : BitVec 2) (core : BitVec 4) (slot : BitVec 2) (half : Bool)
  /-- R41. A launch waiting for placement rises one class every 2 ms. -/
  | aging
  /-- R264. A strand's budget counter falls by one each microsecond it is active. -/
  | budgetTick
  /-- R265. gts reaching ydl pre-empts an active strand and counts an overrun. -/
  | graceWindowEnd
  /-- R266. The dispatcher resumes or suspends a yielded strand. -/
  | yieldResolve
  /-- R276. A strand is stopped, drained, recorded, copied out and suspended. -/
  | preEmption (l0 : Nat) (l1 : Nat) (l2 : Nat) (l3 : Nat)
  /-- R284. A write or atomic bound for an absent strand is performed at its shadow image. -/
  | divertedArrival (u : Nat) (kind : BitVec 2) (o : Nat) (v : BitVec 128)
  /-- R285. A suspended strand is restored, merged and made ready in its slot. -/
  | mergeOnResume (u : Nat)
  /-- R38. A machine check makes the owning strand faulted. -/
  | machineCheck (a : BitVec 64)
  /-- R99. A host CXL.cache or CXL.mem access is performed at its home. -/
  | hostAccess (w : Bool) (pa : Nat) (n : Nat) (v : BitVec 512)
  /-- R320. An access to a remote address is performed at the named module over the fabric. -/
  | remoteAccess (op : BitVec 4) (m : Nat) (pa : Nat) (n : Nat) (v : BitVec 512)
  /-- R321. An unanswered remote access fails after the fabric timeout. -/
  | fabricTimeout (k : Nat)
  /-- R315. A write of the command ring tail wakes the Cellarer. -/
  | cellarerWake
  /-- R316. Command op 1 makes a context live from its descriptor. -/
  | createContext (pa : Nat)
  /-- R316. Command op 2 discards a context's strands, commands, tokens and queues. -/
  | destroyContext (ctx : Nat)
  /-- R316. Command op 3 registers a launch queue. -/
  | registerLaunchQueue (q : Nat) (pa : Nat)
  /-- R316. Command op 4 removes a launch queue, dropping untaken records. -/
  | unregisterLaunchQueue (q : Nat)
  /-- R316. Command op 5 invalidates translations as tlbi does. -/
  | invalidate (va : BitVec 64) (w : BitVec 64)
  /-- R316. Command op 6 maps HBM into the CXL.mem window. -/
  | mapWindow (o : Nat) (n : Nat) (b : Nat)
  /-- R325. Command op 7 verifies and installs a firmware image. -/
  | loadFirmware (pa : Nat) (n : Nat)
  /-- R316. Command op 8 discards or restarts a faulted strand. -/
  | strandDisposition (ctx : Nat) (die : Nat) (core : Nat) (slot : Nat) (d : Nat)
  /-- R318. A write to a module control block register. -/
  | moduleControlWrite (o : Nat) (n : Nat) (v : BitVec 64)
  /-- R327. Cold reset clears all state including firmware. -/
  | coldReset (g : BitVec 64)
  /-- R327. Function-level reset destroys every context and drops registered rings. -/
  | functionLevelReset
  /-- R329. Input power above 3,000 W halves tile issue until below 2,800 W. -/
  | powerClamp (p : Nat)
  /-- R329. A hot die lowers the clock by 100 MHz every 10 ms. -/
  | thermalThrottle (hot : Bool)
  /-- R329. A die at 120 °C raises machine check everywhere and stops the module. -/
  | thermalShutdown (die : Nat)
  /-- R330. A sensor crossing a threshold raises a PLDM event. -/
  | sensorEvent (id : Nat) (v : Nat)
  /-- R326. The module answers an SPDM request with its measurements. -/
  | spdmRequest (m : Nat)
  /-- R326. The Cellarer serves a PLDM monitoring or inventory request. -/
  | pldmRequest (id : Nat)
  /-- R211. A flash erase block is erased and its counter incremented. -/
  | flashErase (stack : Nat) (b : Nat)
  /-- R109. A word whose major, function or reserved fields name no instruction raises illegal-instruction precisely when executed. -/
  | illegalInstruction (w : BitVec 32)
  /-- R186. The context's fault handler resolves a paused engine unit's fault, so the unit is retried, or declares it unresolvable, so the command completes in state 2. -/
  | engineFaultResolution (t : BitVec 64) (ok : Bool)
  /-- R291. Firmware answers a faulted-strand report directly with discard or restart. -/
  | firmwareDisposition (u : Nat) (d : Nat)
  /-- R290. Firmware sets a context's engine watchdog limit, the fabric timeout, or the class or budget of an overrunning launch. -/
  | firmwarePolicyChange (kind : Nat) (a : Nat) (v : Nat)
  /-- R322. The Cellarer slews gts to stay within 20 ns of the domain's module 0. -/
  | gtsSlewing (g : BitVec 64)
  /-- R314. The Reed fabric comes up or goes down, changing the fabric-up bit of its capability. -/
  | fabricLinkChange (up : Bool)
  /-- R311. The host link trains, or trains down to a narrower width or lower rate. -/
  | hostLinkTraining (width : Nat) (speed : Nat)
  /-- R114. rd := a + b modulo 2^64. -/
  | add (d : BitVec 5) (a : BitVec 5) (b : BitVec 5)
  /-- R114. rd := a - b modulo 2^64. -/
  | sub (d : BitVec 5) (a : BitVec 5) (b : BitVec 5)
  /-- R114. rd := a AND b. -/
  | and (d : BitVec 5) (a : BitVec 5) (b : BitVec 5)
  /-- R114. rd := a OR b. -/
  | or (d : BitVec 5) (a : BitVec 5) (b : BitVec 5)
  /-- R114. rd := a XOR b. -/
  | xor (d : BitVec 5) (a : BitVec 5) (b : BitVec 5)
  /-- R114. rd := a AND NOT b. -/
  | andn (d : BitVec 5) (a : BitVec 5) (b : BitVec 5)
  /-- R114. rd := a shifted left by b<5:0>. -/
  | sll (d : BitVec 5) (a : BitVec 5) (b : BitVec 5)
  /-- R114. rd := a shifted logically right by b<5:0>. -/
  | srl (d : BitVec 5) (a : BitVec 5) (b : BitVec 5)
  /-- R114. rd := a shifted arithmetically right by b<5:0>. -/
  | sra (d : BitVec 5) (a : BitVec 5) (b : BitVec 5)
  /-- R114. rd := a rotated left by b<5:0>. -/
  | rol (d : BitVec 5) (a : BitVec 5) (b : BitVec 5)
  /-- R114. rd := a rotated right by b<5:0>. -/
  | ror (d : BitVec 5) (a : BitVec 5) (b : BitVec 5)
  /-- R114. rd := 1 if a < b signed, else 0. -/
  | slt (d : BitVec 5) (a : BitVec 5) (b : BitVec 5)
  /-- R114. rd := 1 if a < b unsigned, else 0. -/
  | sltn (d : BitVec 5) (a : BitVec 5) (b : BitVec 5)
  /-- R114. rd := signed lesser of a and b. -/
  | min (d : BitVec 5) (a : BitVec 5) (b : BitVec 5)
  /-- R114. rd := signed greater of a and b. -/
  | max (d : BitVec 5) (a : BitVec 5) (b : BitVec 5)
  /-- R114. rd := unsigned lesser of a and b. -/
  | minn (d : BitVec 5) (a : BitVec 5) (b : BitVec 5)
  /-- R114. rd := unsigned greater of a and b. -/
  | maxn (d : BitVec 5) (a : BitVec 5) (b : BitVec 5)
  /-- R114. rd := low 64 bits of a × b. -/
  | mul (d : BitVec 5) (a : BitVec 5) (b : BitVec 5)
  /-- R114. rd := high 64 bits of the signed product. -/
  | mulh (d : BitVec 5) (a : BitVec 5) (b : BitVec 5)
  /-- R114. rd := high 64 bits of the unsigned product. -/
  | mulhn (d : BitVec 5) (a : BitVec 5) (b : BitVec 5)
  /-- R114. rd := signed quotient toward zero, saturating, never trapping. -/
  | div (d : BitVec 5) (a : BitVec 5) (b : BitVec 5)
  /-- R114. rd := unsigned quotient, saturating on zero divisor. -/
  | divn (d : BitVec 5) (a : BitVec 5) (b : BitVec 5)
  /-- R114. rd := signed remainder with the sign of a. -/
  | rem (d : BitVec 5) (a : BitVec 5) (b : BitVec 5)
  /-- R114. rd := unsigned remainder. -/
  | remn (d : BitVec 5) (a : BitVec 5) (b : BitVec 5)
  /-- R114. rd := count of leading zeros of a. -/
  | clz (d : BitVec 5) (a : BitVec 5)
  /-- R114. rd := count of trailing zeros of a. -/
  | ctz (d : BitVec 5) (a : BitVec 5)
  /-- R114. rd := count of one bits of a. -/
  | popc (d : BitVec 5) (a : BitVec 5)
  /-- R114. rd := sign extension of a<7:0>. -/
  | sextB (d : BitVec 5) (a : BitVec 5)
  /-- R114. rd := sign extension of a<15:0>. -/
  | sextH (d : BitVec 5) (a : BitVec 5)
  /-- R114. rd := sign extension of a<31:0>. -/
  | sextW (d : BitVec 5) (a : BitVec 5)
  /-- R114. rd := zero extension of a<31:0>. -/
  | zextW (d : BitVec 5) (a : BitVec 5)
  /-- R114. rd := a shifted left by the immediate sh. -/
  | slli (d : BitVec 5) (a : BitVec 5) (s : BitVec 6)
  /-- R114. rd := a shifted logically right by sh. -/
  | srli (d : BitVec 5) (a : BitVec 5) (s : BitVec 6)
  /-- R114. rd := a shifted arithmetically right by sh. -/
  | srai (d : BitVec 5) (a : BitVec 5) (s : BitVec 6)
  /-- R115. rd := a + sign-extended imm16. -/
  | addi (d : BitVec 5) (a : BitVec 5) (i : BitVec 16)
  /-- R115. rd := a AND sign-extended imm16. -/
  | andi (d : BitVec 5) (a : BitVec 5) (i : BitVec 16)
  /-- R115. rd := a OR sign-extended imm16. -/
  | ori (d : BitVec 5) (a : BitVec 5) (i : BitVec 16)
  /-- R115. rd := a XOR sign-extended imm16. -/
  | xori (d : BitVec 5) (a : BitVec 5) (i : BitVec 16)
  /-- R115. rd := 1 if a < imm signed. -/
  | slti (d : BitVec 5) (a : BitVec 5) (i : BitVec 16)
  /-- R115. rd := 1 if a < imm unsigned. -/
  | sltni (d : BitVec 5) (a : BitVec 5) (i : BitVec 16)
  /-- R115. rd := sign-extended imm21 shifted left 16. -/
  | immh (d : BitVec 5) (i : BitVec 21)
  /-- R115. rd := PC + (sign-extended imm21 << 16). -/
  | apc (d : BitVec 5) (i : BitVec 21)
  /-- R116. A-thread load of one byte, sign-extended. -/
  | ldb (d : BitVec 5) (a : BitVec 5) (o : BitVec 13)
  /-- R116. A-thread load of one byte, zero-extended. -/
  | ldbn (d : BitVec 5) (a : BitVec 5) (o : BitVec 13)
  /-- R116. A-thread load of two bytes, sign-extended. -/
  | ldh (d : BitVec 5) (a : BitVec 5) (o : BitVec 13)
  /-- R116. A-thread load of two bytes, zero-extended. -/
  | ldhn (d : BitVec 5) (a : BitVec 5) (o : BitVec 13)
  /-- R116. A-thread load of four bytes, sign-extended. -/
  | ldw (d : BitVec 5) (a : BitVec 5) (o : BitVec 13)
  /-- R116. A-thread load of four bytes, zero-extended. -/
  | ldwn (d : BitVec 5) (a : BitVec 5) (o : BitVec 13)
  /-- R116. A-thread load of eight bytes. -/
  | ldd (d : BitVec 5) (a : BitVec 5) (o : BitVec 13)
  /-- R116. A-thread store of one byte into the store buffer. -/
  | stb (s : BitVec 5) (a : BitVec 5) (o : BitVec 13)
  /-- R116. A-thread store of two bytes. -/
  | sth (s : BitVec 5) (a : BitVec 5) (o : BitVec 13)
  /-- R116. A-thread store of four bytes. -/
  | stw (s : BitVec 5) (a : BitVec 5) (o : BitVec 13)
  /-- R116. A-thread store of eight bytes. -/
  | std (s : BitVec 5) (a : BitVec 5) (o : BitVec 13)
  /-- R117. Atomic add at the home, old value to rd. -/
  | amoAdd (d : BitVec 5) (a : BitVec 5) (b : BitVec 5) (o : BitVec 2) (s : BitVec 2) (w : Bool)
  /-- R117. Atomic AND at the home. -/
  | amoAnd (d : BitVec 5) (a : BitVec 5) (b : BitVec 5) (o : BitVec 2) (s : BitVec 2) (w : Bool)
  /-- R117. Atomic OR at the home. -/
  | amoOr (d : BitVec 5) (a : BitVec 5) (b : BitVec 5) (o : BitVec 2) (s : BitVec 2) (w : Bool)
  /-- R117. Atomic XOR at the home. -/
  | amoXor (d : BitVec 5) (a : BitVec 5) (b : BitVec 5) (o : BitVec 2) (s : BitVec 2) (w : Bool)
  /-- R117. Atomic signed minimum. -/
  | amoMin (d : BitVec 5) (a : BitVec 5) (b : BitVec 5) (o : BitVec 2) (s : BitVec 2) (w : Bool)
  /-- R117. Atomic signed maximum. -/
  | amoMax (d : BitVec 5) (a : BitVec 5) (b : BitVec 5) (o : BitVec 2) (s : BitVec 2) (w : Bool)
  /-- R117. Atomic unsigned minimum. -/
  | amoMinn (d : BitVec 5) (a : BitVec 5) (b : BitVec 5) (o : BitVec 2) (s : BitVec 2) (w : Bool)
  /-- R117. Atomic unsigned maximum. -/
  | amoMaxn (d : BitVec 5) (a : BitVec 5) (b : BitVec 5) (o : BitVec 2) (s : BitVec 2) (w : Bool)
  /-- R117. Atomic swap. -/
  | amoSwap (d : BitVec 5) (a : BitVec 5) (b : BitVec 5) (o : BitVec 2) (s : BitVec 2) (w : Bool)
  /-- R117. Atomic compare-and-swap against rd. -/
  | amoCas (d : BitVec 5) (a : BitVec 5) (b : BitVec 5) (o : BitVec 2) (s : BitVec 2) (w : Bool)
  /-- R117. Load with acquire order at the given scope. -/
  | ldAcq (d : BitVec 5) (a : BitVec 5) (s : BitVec 2) (w : Bool)
  /-- R117. Store with release order, draining under the release rule. -/
  | stRel (a : BitVec 5) (b : BitVec 5) (s : BitVec 2) (w : Bool)
  /-- R118. Scalar FP32 addition. -/
  | fadd (d : BitVec 5) (a : BitVec 5) (b : BitVec 5)
  /-- R118. Scalar FP32 subtraction. -/
  | fsub (d : BitVec 5) (a : BitVec 5) (b : BitVec 5)
  /-- R118. Scalar FP32 multiplication. -/
  | fmul (d : BitVec 5) (a : BitVec 5) (b : BitVec 5)
  /-- R118. Scalar FP32 division. -/
  | fdiv (d : BitVec 5) (a : BitVec 5) (b : BitVec 5)
  /-- R118. Scalar FP32 square root. -/
  | fsqrt (d : BitVec 5) (a : BitVec 5)
  /-- R118. Scalar FP32 minimum. -/
  | fmin (d : BitVec 5) (a : BitVec 5) (b : BitVec 5)
  /-- R118. Scalar FP32 maximum. -/
  | fmax (d : BitVec 5) (a : BitVec 5) (b : BitVec 5)
  /-- R118. Fused a × b + rd, one rounding. -/
  | fmac (d : BitVec 5) (a : BitVec 5) (b : BitVec 5)
  /-- R118. FP32 to signed 64-bit integer. -/
  | fcvtfi (d : BitVec 5) (a : BitVec 5)
  /-- R118. Signed 64-bit integer to FP32. -/
  | fcvtif (d : BitVec 5) (a : BitVec 5)
  /-- R118. FP32 equality test. -/
  | feq (d : BitVec 5) (a : BitVec 5) (b : BitVec 5)
  /-- R118. FP32 less-than test. -/
  | flt (d : BitVec 5) (a : BitVec 5) (b : BitVec 5)
  /-- R118. FP32 less-or-equal test. -/
  | fle (d : BitVec 5) (a : BitVec 5) (b : BitVec 5)
  /-- R118. Classify an FP32 value. -/
  | fkind (d : BitVec 5) (a : BitVec 5)
  /-- R118. Round FP32 to BF16. -/
  | fcvtbf (d : BitVec 5) (a : BitVec 5)
  /-- R118. Widen BF16 bits to FP32 exactly. -/
  | fmvbf (d : BitVec 5) (a : BitVec 5)
  /-- R119. Branch if a = b. -/
  | beq (a : BitVec 5) (b : BitVec 5) (o : BitVec 16)
  /-- R119. Branch if a ≠ b. -/
  | bne (a : BitVec 5) (b : BitVec 5) (o : BitVec 16)
  /-- R119. Branch if a < b signed. -/
  | blt (a : BitVec 5) (b : BitVec 5) (o : BitVec 16)
  /-- R119. Branch if a ≥ b signed. -/
  | bge (a : BitVec 5) (b : BitVec 5) (o : BitVec 16)
  /-- R119. Branch if a < b unsigned. -/
  | bltn (a : BitVec 5) (b : BitVec 5) (o : BitVec 16)
  /-- R119. Branch if a ≥ b unsigned. -/
  | bgen (a : BitVec 5) (b : BitVec 5) (o : BitVec 16)
  /-- R119. Jump and link, PC-relative. -/
  | jal (d : BitVec 5) (o : BitVec 21)
  /-- R119. Jump and link to register plus offset. -/
  | jalr (d : BitVec 5) (a : BitVec 5) (i : BitVec 16)
  /-- R120. Start a temporal loop level with lc := 0. -/
  | loopSet (l : BitVec 3)
  /-- R120. Increment lc and branch while below lt. -/
  | loopEnd (l : BitVec 3) (o : BitVec 16)
  /-- R120. Read a loop index into rd. -/
  | loopIdx (l : BitVec 3) (d : BitVec 5)
  /-- R120. Set lc to lt − 1 and branch. -/
  | loopBrk (l : BitVec 3) (o : BitVec 16)
  /-- R121. Push a granule onto a queue, carrying any pending fence token. -/
  | qpush (a : BitVec 5) (q : BitVec 5)
  /-- R121. Pop the head of a queue into rd. -/
  | qpop (d : BitVec 5) (q : BitVec 5)
  /-- R121. Read the head of a queue without popping. -/
  | qpeek (d : BitVec 5) (q : BitVec 5)
  /-- R121. Read closed and empty state of a queue. -/
  | qtest (d : BitVec 5) (q : BitVec 5)
  /-- R121. Set the closed flag of a queue. -/
  | qclose (q : BitVec 5)
  /-- R121. Push one bit onto bq. -/
  | bpush (a : BitVec 5)
  /-- R121. Pop bq and branch if the bit is 1. -/
  | qbr (o : BitVec 20)
  /-- R122. Stream scratchpad granules into a queue. -/
  | sprd (d : BitVec 5) (a : BitVec 5) (q : BitVec 5)
  /-- R122. Stream queue granules into the scratchpad. -/
  | spwr (d : BitVec 5) (a : BitVec 5) (q : BitVec 5)
  /-- R121. Discard every entry of a queue and reopen it. -/
  | qflush (q : BitVec 5)
  /-- R121. Read the number of entries of a queue. -/
  | qdepth (d : BitVec 5) (q : BitVec 5)
  /-- R123. Read a CSR. -/
  | csrr (d : BitVec 5) (c : BitVec 12)
  /-- R123. Swap a CSR with a register. -/
  | csrw (d : BitVec 5) (a : BitVec 5) (c : BitVec 12)
  /-- R123. Set CSR bits, returning the old value. -/
  | csrs (d : BitVec 5) (a : BitVec 5) (c : BitVec 12)
  /-- R123. Clear CSR bits, returning the old value. -/
  | csrc (d : BitVec 5) (a : BitVec 5) (c : BitVec 12)
  /-- R93. Create a token covering earlier A-thread operations, carried on the next queue entries. -/
  | fenceAv (s : BitVec 2)
  /-- R93. Create a token covering earlier V operations, carried to the A-thread. -/
  | fenceVa (s : BitVec 2)
  /-- R93. Order later V operations after earlier ones. -/
  | fenceVV (s : BitVec 2)
  /-- R93. Two-thread fence waiting for the other thread and all drains. -/
  | fenceAll (s : BitVec 2)
  /-- R125. Arrive at a barrier phase. -/
  | barArv (b : BitVec 5) (s : BitVec 2)
  /-- R125. Wait for the phase of the thread's latest arrival. -/
  | barWt (b : BitVec 5) (s : BitVec 2)
  /-- R125. Arrive at a barrier and wait. -/
  | barSync (b : BitVec 5) (s : BitVec 2)
  /-- R126. Move the strand to yielded once the other thread stops. -/
  | yield
  /-- R127. Wait for and clear the pending-event bit. -/
  | wfe
  /-- R127. Send an event to a named strand slot with release. -/
  | sev (a : BitVec 5) (s : BitVec 2)
  /-- R128. Raise cause 0x0B after retiring. -/
  | trap (a : BitVec 5)
  /-- R128. Raise service call 0x0C after retiring. -/
  | svc (a : BitVec 5)
  /-- R129. Return from S-mode handler, restoring vector state when vvalid. -/
  | tret
  /-- R130. Stop the thread, close its pushed queues, retire the strand when both halted. -/
  | halt
  /-- R128. Raise debug break 0x0D without retiring. -/
  | dbrk
  /-- R131. Invalidate translations and wait until no TLB holds a match. -/
  | tlbi (a : BitVec 5) (b : BitVec 5)
  /-- R132. Save selected vector and tile state to a save area. -/
  | vsave (a : BitVec 5) (b : BitVec 5)
  /-- R132. Restore selected vector and tile state from a save area. -/
  | vrest (a : BitVec 5) (b : BitVec 5)
  /-- R133. Wait for an event, a pre-emption request or a machine check. -/
  | wfi
  /-- R188. Engine copy between generic memory ranges, twin sides or tiers. -/
  | cpy (d : BitVec 5) (p : BitVec 5) (s : BitVec 2) (t : Bool) (k : Bool)
  /-- R188. Engine copy into a queue of the issuing strand. -/
  | cpyq (d : BitVec 5) (p : BitVec 5) (s : BitVec 2)
  /-- R188. Engine copy with a scratchpad side. -/
  | cpys (d : BitVec 5) (p : BitVec 5) (s : BitVec 2)
  /-- R193. Gather indexed elements through the Gleaners into a twin surface or queue. -/
  | gath (d : BitVec 5) (p : BitVec 5) (s : BitVec 2) (q : Bool) (i : Bool)
  /-- R194. Scatter-add values into a table as atomics. -/
  | scad (d : BitVec 5) (p : BitVec 5) (s : BitVec 2) (v : Bool) (i : Bool)
  /-- R196. Join a collective of a group of members. -/
  | coll (d : BitVec 5) (p : BitVec 5) (s : BitVec 2)
  /-- R197. Request a side flip of a twin surface after its earlier transfers. -/
  | pub (d : BitVec 5) (p : BitVec 5) (s : BitVec 2)
  /-- R185. Wait for a token and return its status. -/
  | tokw (d : BitVec 5) (p : BitVec 5)
  /-- R185. Return a token's status without waiting. -/
  | toks (d : BitVec 5) (p : BitVec 5)
  /-- R198. Migrate pages of the context to chosen frames. -/
  | mig (d : BitVec 5) (p : BitVec 5)
  /-- R222. Make a child map sharing the parent's pages. -/
  | kvfork (d : BitVec 5) (p : BitVec 5) (n : BitVec 5) (s : BitVec 2)
  /-- R223. Reserve positions at the end of a map, copying a shared tail. -/
  | kvapp (d : BitVec 5) (p : BitVec 5) (n : BitVec 5) (s : BitVec 2)
  /-- R225. Set the current span tag of a map. -/
  | kvtag (d : BitVec 5) (p : BitVec 5) (n : BitVec 5) (s : BitVec 2)
  /-- R226. Retire the pages of a span. -/
  | kvret (d : BitVec 5) (p : BitVec 5) (n : BitVec 5) (s : BitVec 2)
  /-- R227. Answer a residency query over a map. -/
  | kvres (d : BitVec 5) (p : BitVec 5) (n : BitVec 5) (s : BitVec 2)
  /-- R228. Pin, unpin or move the frame of a map entry to a tier. -/
  | kvpin (d : BitVec 5) (p : BitVec 5) (n : BitVec 5) (s : BitVec 2) (ev : Bool) (un : Bool) (pin : Bool)
  /-- R229. Translate a position to page, status and slot. -/
  | kvlook (d : BitVec 5) (p : BitVec 5) (n : BitVec 5) (s : BitVec 2)
  /-- R232. Rendezvous both threads and start a chain-reversal frame. -/
  | rvchain (p : BitVec 5)
  /-- R236. End a step or adjoint routine and wait for the partner. -/
  | rvret
  /-- R239. Read chain progress. -/
  | rvq (d : BitVec 5)
  /-- R240. Rendezvous to unwind chain frames. -/
  | rvabort (n : BitVec 5)
  /-- R134. Set vtype from a register and vl from a requested length. -/
  | vcfg (d : BitVec 5) (a : BitVec 5) (b : BitVec 5)
  /-- R134. Set vtype from an immediate and vl from a requested length. -/
  | vcfgi (d : BitVec 5) (a : BitVec 5) (t : BitVec 10)
  /-- R135. Change the vector register count, invalidating every register. -/
  | vreconf (c : BitVec 2)
  /-- R142. Unit-stride vector load, fault-only-first. -/
  | vle (k : Bool) (d : BitVec 5) (x : BitVec 5) (mask : Option (BitVec 2))
  /-- R142. Strided vector load. -/
  | vlse (k : Bool) (d : BitVec 5) (x : BitVec 5) (s : BitVec 5) (mask : Option (BitVec 2))
  /-- R142. Segment vector load of f fields. -/
  | vlseg (k : Bool) (d : BitVec 5) (x : BitVec 5) (f : BitVec 3) (mask : Option (BitVec 2))
  /-- R142. Indexed vector load. -/
  | vlx (k : Bool) (d : BitVec 5) (x : BitVec 5) (i : BitVec 5) (mask : Option (BitVec 2))
  /-- R142. Sub-byte strip vector load at a bit offset. -/
  | vlb (k : Bool) (d : BitVec 5) (x : BitVec 5) (o : BitVec 5) (mask : Option (BitVec 2))
  /-- R148. Stream keys or values of a sequence map, skipping holes and tier misses. -/
  | vlkv (k : Bool) (d : BitVec 5) (x : BitVec 5) (p : BitVec 5)
  /-- R143. Load block scales into a scale register. -/
  | vlsc (k : Bool) (d : BitVec 5) (x : BitVec 5)
  /-- R142. Unit-stride vector store. -/
  | vse (k : Bool) (v : BitVec 5) (x : BitVec 5) (c : Bool) (mask : Option (BitVec 2))
  /-- R142. Strided vector store. -/
  | vsse (k : Bool) (v : BitVec 5) (x : BitVec 5) (s : BitVec 5) (c : Bool) (mask : Option (BitVec 2))
  /-- R142. Segment vector store. -/
  | vsseg (k : Bool) (v : BitVec 5) (x : BitVec 5) (f : BitVec 3) (c : Bool) (mask : Option (BitVec 2))
  /-- R142. Indexed vector store. -/
  | vsx (k : Bool) (v : BitVec 5) (x : BitVec 5) (i : BitVec 5) (c : Bool) (mask : Option (BitVec 2))
  /-- R142. Ordered indexed vector store without slip. -/
  | vsxo (k : Bool) (v : BitVec 5) (x : BitVec 5) (i : BitVec 5) (c : Bool) (mask : Option (BitVec 2))
  /-- R142. Sub-byte strip vector store. -/
  | vsb (k : Bool) (v : BitVec 5) (x : BitVec 5) (o : BitVec 5) (c : Bool) (mask : Option (BitVec 2))
  /-- R143. Store block scales from a scale register. -/
  | vssc (k : Bool) (v : BitVec 5) (x : BitVec 5)
  /-- R144. Load from each lane's lane-store slice. -/
  | vlld (k : Bool) (d : BitVec 5) (x : BitVec 5) (i : BitVec 5) (mask : Option (BitVec 2))
  /-- R144. Store to each lane's lane-store slice. -/
  | vlst (k : Bool) (v : BitVec 5) (x : BitVec 5) (i : BitVec 5) (c : Bool) (mask : Option (BitVec 2))
  /-- R144. Add into lane-store slice, returning old values. -/
  | vlla (k : Bool) (d : BitVec 5) (x : BitVec 5) (i : BitVec 5) (mask : Option (BitVec 2))
  /-- R152. Vector integer add. -/
  | vaddVV (k : Bool) (d : BitVec 5) (s : BitVec 5) (t : BitVec 5) (a : Bool) (b : Bool) (mask : Option (BitVec 2))
  /-- R152. Vector integer subtract. -/
  | vsubVV (k : Bool) (d : BitVec 5) (s : BitVec 5) (t : BitVec 5) (a : Bool) (b : Bool) (mask : Option (BitVec 2))
  /-- R152. Vector integer multiply, low half. -/
  | vmulVV (k : Bool) (d : BitVec 5) (s : BitVec 5) (t : BitVec 5) (a : Bool) (b : Bool) (mask : Option (BitVec 2))
  /-- R152. Vector signed multiply, high half. -/
  | vmulh (k : Bool) (d : BitVec 5) (s : BitVec 5) (t : BitVec 5) (a : Bool) (b : Bool) (mask : Option (BitVec 2))
  /-- R152. Vector unsigned multiply, high half. -/
  | vmulhn (k : Bool) (d : BitVec 5) (s : BitVec 5) (t : BitVec 5) (a : Bool) (b : Bool) (mask : Option (BitVec 2))
  /-- R152. Vector signed divide, saturating. -/
  | vdiv (k : Bool) (d : BitVec 5) (s : BitVec 5) (t : BitVec 5) (a : Bool) (b : Bool) (mask : Option (BitVec 2))
  /-- R152. Vector unsigned divide. -/
  | vdivn (k : Bool) (d : BitVec 5) (s : BitVec 5) (t : BitVec 5) (a : Bool) (b : Bool) (mask : Option (BitVec 2))
  /-- R152. Vector signed remainder. -/
  | vrem (k : Bool) (d : BitVec 5) (s : BitVec 5) (t : BitVec 5) (a : Bool) (b : Bool) (mask : Option (BitVec 2))
  /-- R152. Vector unsigned remainder. -/
  | vremn (k : Bool) (d : BitVec 5) (s : BitVec 5) (t : BitVec 5) (a : Bool) (b : Bool) (mask : Option (BitVec 2))
  /-- R152. Vector bitwise AND. -/
  | vandVV (k : Bool) (d : BitVec 5) (s : BitVec 5) (t : BitVec 5) (a : Bool) (b : Bool) (mask : Option (BitVec 2))
  /-- R152. Vector bitwise OR. -/
  | vorVV (k : Bool) (d : BitVec 5) (s : BitVec 5) (t : BitVec 5) (a : Bool) (b : Bool) (mask : Option (BitVec 2))
  /-- R152. Vector bitwise XOR. -/
  | vxorVV (k : Bool) (d : BitVec 5) (s : BitVec 5) (t : BitVec 5) (a : Bool) (b : Bool) (mask : Option (BitVec 2))
  /-- R152. Vector shift left. -/
  | vsllVV (k : Bool) (d : BitVec 5) (s : BitVec 5) (t : BitVec 5) (a : Bool) (b : Bool) (mask : Option (BitVec 2))
  /-- R152. Vector logical shift right. -/
  | vsrlVV (k : Bool) (d : BitVec 5) (s : BitVec 5) (t : BitVec 5) (a : Bool) (b : Bool) (mask : Option (BitVec 2))
  /-- R152. Vector arithmetic shift right. -/
  | vsraVV (k : Bool) (d : BitVec 5) (s : BitVec 5) (t : BitVec 5) (a : Bool) (b : Bool) (mask : Option (BitVec 2))
  /-- R152. Vector signed minimum. -/
  | vminVV (k : Bool) (d : BitVec 5) (s : BitVec 5) (t : BitVec 5) (a : Bool) (b : Bool) (mask : Option (BitVec 2))
  /-- R152. Vector signed maximum. -/
  | vmaxVV (k : Bool) (d : BitVec 5) (s : BitVec 5) (t : BitVec 5) (a : Bool) (b : Bool) (mask : Option (BitVec 2))
  /-- R152. Vector unsigned minimum. -/
  | vminn (k : Bool) (d : BitVec 5) (s : BitVec 5) (t : BitVec 5) (a : Bool) (b : Bool) (mask : Option (BitVec 2))
  /-- R152. Vector unsigned maximum. -/
  | vmaxn (k : Bool) (d : BitVec 5) (s : BitVec 5) (t : BitVec 5) (a : Bool) (b : Bool) (mask : Option (BitVec 2))
  /-- R152. Vector integer multiply-accumulate. -/
  | vmaccVV (k : Bool) (d : BitVec 5) (s : BitVec 5) (t : BitVec 5) (a : Bool) (b : Bool) (mask : Option (BitVec 2))
  /-- R152. Vector widening integer add. -/
  | vwadd (k : Bool) (d : BitVec 5) (s : BitVec 5) (t : BitVec 5) (a : Bool) (b : Bool) (mask : Option (BitVec 2))
  /-- R152. Vector widening integer multiply. -/
  | vwmul (k : Bool) (d : BitVec 5) (s : BitVec 5) (t : BitVec 5) (a : Bool) (b : Bool) (mask : Option (BitVec 2))
  /-- R152. Vector widening multiply-accumulate. -/
  | vwmacc (k : Bool) (d : BitVec 5) (s : BitVec 5) (t : BitVec 5) (a : Bool) (b : Bool) (mask : Option (BitVec 2))
  /-- R152. Vector narrowing saturating shift right. -/
  | vnsra (k : Bool) (d : BitVec 5) (s : BitVec 5) (t : BitVec 5) (a : Bool) (b : Bool) (mask : Option (BitVec 2))
  /-- R152. Vector saturating add. -/
  | vsadd (k : Bool) (d : BitVec 5) (s : BitVec 5) (t : BitVec 5) (a : Bool) (b : Bool) (mask : Option (BitVec 2))
  /-- R152. Vector saturating subtract. -/
  | vssub (k : Bool) (d : BitVec 5) (s : BitVec 5) (t : BitVec 5) (a : Bool) (b : Bool) (mask : Option (BitVec 2))
  /-- R152. Vector add with scalar operand. -/
  | vaddVX (k : Bool) (d : BitVec 5) (x : BitVec 5) (t : BitVec 5) (b : Bool) (mask : Option (BitVec 2))
  /-- R152. Vector subtract scalar. -/
  | vsubVX (k : Bool) (d : BitVec 5) (x : BitVec 5) (t : BitVec 5) (b : Bool) (mask : Option (BitVec 2))
  /-- R152. Vector multiply by scalar. -/
  | vmulVX (k : Bool) (d : BitVec 5) (x : BitVec 5) (t : BitVec 5) (b : Bool) (mask : Option (BitVec 2))
  /-- R152. Vector AND scalar. -/
  | vandVX (k : Bool) (d : BitVec 5) (x : BitVec 5) (t : BitVec 5) (b : Bool) (mask : Option (BitVec 2))
  /-- R152. Vector OR scalar. -/
  | vorVX (k : Bool) (d : BitVec 5) (x : BitVec 5) (t : BitVec 5) (b : Bool) (mask : Option (BitVec 2))
  /-- R152. Vector XOR scalar. -/
  | vxorVX (k : Bool) (d : BitVec 5) (x : BitVec 5) (t : BitVec 5) (b : Bool) (mask : Option (BitVec 2))
  /-- R152. Vector shift left by scalar. -/
  | vsllVX (k : Bool) (d : BitVec 5) (x : BitVec 5) (t : BitVec 5) (b : Bool) (mask : Option (BitVec 2))
  /-- R152. Vector logical shift right by scalar. -/
  | vsrlVX (k : Bool) (d : BitVec 5) (x : BitVec 5) (t : BitVec 5) (b : Bool) (mask : Option (BitVec 2))
  /-- R152. Vector arithmetic shift right by scalar. -/
  | vsraVX (k : Bool) (d : BitVec 5) (x : BitVec 5) (t : BitVec 5) (b : Bool) (mask : Option (BitVec 2))
  /-- R152. Vector signed minimum with scalar. -/
  | vminVX (k : Bool) (d : BitVec 5) (x : BitVec 5) (t : BitVec 5) (b : Bool) (mask : Option (BitVec 2))
  /-- R152. Vector signed maximum with scalar. -/
  | vmaxVX (k : Bool) (d : BitVec 5) (x : BitVec 5) (t : BitVec 5) (b : Bool) (mask : Option (BitVec 2))
  /-- R152. Vector multiply-accumulate with scalar. -/
  | vmaccVX (k : Bool) (d : BitVec 5) (x : BitVec 5) (t : BitVec 5) (b : Bool) (mask : Option (BitVec 2))
  /-- R152. Vector add immediate. -/
  | vaddVI (k : Bool) (d : BitVec 5) (i : BitVec 5) (t : BitVec 5) (b : Bool) (mask : Option (BitVec 2))
  /-- R152. Vector AND immediate. -/
  | vandVI (k : Bool) (d : BitVec 5) (i : BitVec 5) (t : BitVec 5) (b : Bool) (mask : Option (BitVec 2))
  /-- R152. Vector OR immediate. -/
  | vorVI (k : Bool) (d : BitVec 5) (i : BitVec 5) (t : BitVec 5) (b : Bool) (mask : Option (BitVec 2))
  /-- R152. Vector XOR immediate. -/
  | vxorVI (k : Bool) (d : BitVec 5) (i : BitVec 5) (t : BitVec 5) (b : Bool) (mask : Option (BitVec 2))
  /-- R152. Vector shift left by immediate. -/
  | vsllVI (k : Bool) (d : BitVec 5) (i : BitVec 5) (t : BitVec 5) (b : Bool) (mask : Option (BitVec 2))
  /-- R152. Vector logical shift right by immediate. -/
  | vsrlVI (k : Bool) (d : BitVec 5) (i : BitVec 5) (t : BitVec 5) (b : Bool) (mask : Option (BitVec 2))
  /-- R152. Vector arithmetic shift right by immediate. -/
  | vsraVI (k : Bool) (d : BitVec 5) (i : BitVec 5) (t : BitVec 5) (b : Bool) (mask : Option (BitVec 2))
  /-- R153. Vector FP add. -/
  | vfaddVV (k : Bool) (d : BitVec 5) (s : BitVec 5) (t : BitVec 5) (a : Bool) (b : Bool) (mask : Option (BitVec 2))
  /-- R153. Vector FP subtract. -/
  | vfsubVV (k : Bool) (d : BitVec 5) (s : BitVec 5) (t : BitVec 5) (a : Bool) (b : Bool) (mask : Option (BitVec 2))
  /-- R153. Vector FP multiply. -/
  | vfmulVV (k : Bool) (d : BitVec 5) (s : BitVec 5) (t : BitVec 5) (a : Bool) (b : Bool) (mask : Option (BitVec 2))
  /-- R153. Vector FP divide. -/
  | vfdiv (k : Bool) (d : BitVec 5) (s : BitVec 5) (t : BitVec 5) (a : Bool) (b : Bool) (mask : Option (BitVec 2))
  /-- R153. Vector FP square root. -/
  | vfsqrt (k : Bool) (d : BitVec 5) (t : BitVec 5) (b : Bool) (mask : Option (BitVec 2))
  /-- R153. Vector FP minimum. -/
  | vfminVV (k : Bool) (d : BitVec 5) (s : BitVec 5) (t : BitVec 5) (a : Bool) (b : Bool) (mask : Option (BitVec 2))
  /-- R153. Vector FP maximum. -/
  | vfmaxVV (k : Bool) (d : BitVec 5) (s : BitVec 5) (t : BitVec 5) (a : Bool) (b : Bool) (mask : Option (BitVec 2))
  /-- R153. Vector fused multiply-add into vd. -/
  | vfmaccVV (k : Bool) (d : BitVec 5) (s : BitVec 5) (t : BitVec 5) (a : Bool) (b : Bool) (mask : Option (BitVec 2))
  /-- R153. Vector fused multiply-subtract from vd. -/
  | vfsubm (k : Bool) (d : BitVec 5) (s : BitVec 5) (t : BitVec 5) (a : Bool) (b : Bool) (mask : Option (BitVec 2))
  /-- R153. Vector widening FP add to FP32. -/
  | vfwadd (k : Bool) (d : BitVec 5) (s : BitVec 5) (t : BitVec 5) (a : Bool) (b : Bool) (mask : Option (BitVec 2))
  /-- R153. Vector widening FP multiply to FP32. -/
  | vfwmul (k : Bool) (d : BitVec 5) (s : BitVec 5) (t : BitVec 5) (a : Bool) (b : Bool) (mask : Option (BitVec 2))
  /-- R153. Vector widening FP multiply-accumulate into FP32. -/
  | vfwmacc (k : Bool) (d : BitVec 5) (s : BitVec 5) (t : BitVec 5) (a : Bool) (b : Bool) (mask : Option (BitVec 2))
  /-- R83. Vector 2^x. -/
  | vfexp (k : Bool) (d : BitVec 5) (t : BitVec 5) (b : Bool) (mask : Option (BitVec 2))
  /-- R83. Vector log2 x. -/
  | vflog (k : Bool) (d : BitVec 5) (t : BitVec 5) (b : Bool) (mask : Option (BitVec 2))
  /-- R83. Vector reciprocal. -/
  | vfrec (k : Bool) (d : BitVec 5) (t : BitVec 5) (b : Bool) (mask : Option (BitVec 2))
  /-- R83. Vector reciprocal square root. -/
  | vfrsq (k : Bool) (d : BitVec 5) (t : BitVec 5) (b : Bool) (mask : Option (BitVec 2))
  /-- R153. Vector copy-sign bit move. -/
  | vfcsgn (k : Bool) (d : BitVec 5) (s : BitVec 5) (t : BitVec 5) (a : Bool) (b : Bool) (mask : Option (BitVec 2))
  /-- R153. Vector FP classification. -/
  | vfkind (k : Bool) (d : BitVec 5) (t : BitVec 5) (b : Bool) (mask : Option (BitVec 2))
  /-- R153. Vector FP add scalar. -/
  | vfaddVX (k : Bool) (d : BitVec 5) (x : BitVec 5) (t : BitVec 5) (b : Bool) (mask : Option (BitVec 2))
  /-- R153. Vector FP subtract scalar. -/
  | vfsubVX (k : Bool) (d : BitVec 5) (x : BitVec 5) (t : BitVec 5) (b : Bool) (mask : Option (BitVec 2))
  /-- R153. Vector FP multiply by scalar. -/
  | vfmulVX (k : Bool) (d : BitVec 5) (x : BitVec 5) (t : BitVec 5) (b : Bool) (mask : Option (BitVec 2))
  /-- R153. Vector fused multiply-add with scalar. -/
  | vfmaccVX (k : Bool) (d : BitVec 5) (x : BitVec 5) (t : BitVec 5) (b : Bool) (mask : Option (BitVec 2))
  /-- R153. Vector FP minimum with scalar. -/
  | vfminVX (k : Bool) (d : BitVec 5) (x : BitVec 5) (t : BitVec 5) (b : Bool) (mask : Option (BitVec 2))
  /-- R153. Vector FP maximum with scalar. -/
  | vfmaxVX (k : Bool) (d : BitVec 5) (x : BitVec 5) (t : BitVec 5) (b : Bool) (mask : Option (BitVec 2))
  /-- R155. Exact widening FP conversion. -/
  | vfcvtW (k : Bool) (d : BitVec 5) (y : BitVec 5) (t : BitVec 5) (b : Bool) (mask : Option (BitVec 2))
  /-- R155. Rounding narrowing FP conversion. -/
  | vfcvtN (k : Bool) (d : BitVec 5) (y : BitVec 5) (t : BitVec 5) (b : Bool) (mask : Option (BitVec 2))
  /-- R155. FP to integer conversion. -/
  | vfcvtFi (k : Bool) (d : BitVec 5) (y : BitVec 5) (t : BitVec 5) (b : Bool) (mask : Option (BitVec 2))
  /-- R155. Integer to FP conversion. -/
  | vfcvtIf (k : Bool) (d : BitVec 5) (y : BitVec 5) (t : BitVec 5) (b : Bool) (mask : Option (BitVec 2))
  /-- R155. Integer to integer conversion in the direction bit d selects. -/
  | vcvtI (k : Bool) (d : BitVec 5) (y : BitVec 5) (t : BitVec 5) (r : Bool) (b : Bool) (mask : Option (BitVec 2))
  /-- R156. Block-scaled quantisation writing E8M0 scales. -/
  | vcvtq (k : Bool) (d : BitVec 5) (y : BitVec 5) (t : BitVec 5) (b : Bool) (mask : Option (BitVec 2))
  /-- R156. Block-scaled dequantisation. -/
  | vdeq (k : Bool) (d : BitVec 5) (y : BitVec 5) (t : BitVec 5) (b : Bool) (mask : Option (BitVec 2))
  /-- R157. Integer sum reduction. -/
  | vredsum (k : Bool) (d : BitVec 5) (s : BitVec 5) (t : BitVec 5) (a : Bool) (b : Bool) (mask : Option (BitVec 2))
  /-- R157. Signed max reduction. -/
  | vredmax (k : Bool) (d : BitVec 5) (s : BitVec 5) (t : BitVec 5) (a : Bool) (b : Bool) (mask : Option (BitVec 2))
  /-- R157. Signed min reduction. -/
  | vredmin (k : Bool) (d : BitVec 5) (s : BitVec 5) (t : BitVec 5) (a : Bool) (b : Bool) (mask : Option (BitVec 2))
  /-- R157. Unsigned max reduction. -/
  | vredmaxn (k : Bool) (d : BitVec 5) (s : BitVec 5) (t : BitVec 5) (a : Bool) (b : Bool) (mask : Option (BitVec 2))
  /-- R157. Unsigned min reduction. -/
  | vredminn (k : Bool) (d : BitVec 5) (s : BitVec 5) (t : BitVec 5) (a : Bool) (b : Bool) (mask : Option (BitVec 2))
  /-- R157. AND reduction. -/
  | vredand (k : Bool) (d : BitVec 5) (s : BitVec 5) (t : BitVec 5) (a : Bool) (b : Bool) (mask : Option (BitVec 2))
  /-- R157. OR reduction. -/
  | vredor (k : Bool) (d : BitVec 5) (s : BitVec 5) (t : BitVec 5) (a : Bool) (b : Bool) (mask : Option (BitVec 2))
  /-- R82. FP tree sum reduction. -/
  | vfredsum (k : Bool) (d : BitVec 5) (s : BitVec 5) (t : BitVec 5) (a : Bool) (b : Bool) (mask : Option (BitVec 2))
  /-- R81. FP ordered sum reduction. -/
  | vfredosum (k : Bool) (d : BitVec 5) (s : BitVec 5) (t : BitVec 5) (a : Bool) (b : Bool) (mask : Option (BitVec 2))
  /-- R157. FP max reduction. -/
  | vfredmax (k : Bool) (d : BitVec 5) (s : BitVec 5) (t : BitVec 5) (a : Bool) (b : Bool) (mask : Option (BitVec 2))
  /-- R157. FP min reduction. -/
  | vfredmin (k : Bool) (d : BitVec 5) (s : BitVec 5) (t : BitVec 5) (a : Bool) (b : Bool) (mask : Option (BitVec 2))
  /-- R82. Widening FP tree sum reduction. -/
  | vfwredsum (k : Bool) (d : BitVec 5) (s : BitVec 5) (t : BitVec 5) (a : Bool) (b : Bool) (mask : Option (BitVec 2))
  /-- R81. Widening FP ordered sum reduction. -/
  | vfwredosum (k : Bool) (d : BitVec 5) (s : BitVec 5) (t : BitVec 5) (a : Bool) (b : Bool) (mask : Option (BitVec 2))
  /-- R158. Slide elements up by a scalar offset. -/
  | vslup (k : Bool) (d : BitVec 5) (x : BitVec 5) (t : BitVec 5) (b : Bool) (mask : Option (BitVec 2))
  /-- R158. Slide elements down by a scalar offset. -/
  | vsldn (k : Bool) (d : BitVec 5) (x : BitVec 5) (t : BitVec 5) (b : Bool) (mask : Option (BitVec 2))
  /-- R158. Slide up by one, inserting a scalar. -/
  | vsl1up (k : Bool) (d : BitVec 5) (x : BitVec 5) (t : BitVec 5) (b : Bool) (mask : Option (BitVec 2))
  /-- R158. Slide down by one, inserting a scalar. -/
  | vsl1dn (k : Bool) (d : BitVec 5) (x : BitVec 5) (t : BitVec 5) (b : Bool) (mask : Option (BitVec 2))
  /-- R158. Gather elements across lanes by index. -/
  | vpull (k : Bool) (d : BitVec 5) (s : BitVec 5) (t : BitVec 5) (a : Bool) (b : Bool) (mask : Option (BitVec 2))
  /-- R158. Scatter elements across lanes by index, highest i winning. -/
  | vpush (k : Bool) (d : BitVec 5) (s : BitVec 5) (t : BitVec 5) (a : Bool) (b : Bool) (mask : Option (BitVec 2))
  /-- R159. Compress active elements to the front. -/
  | vcomp (k : Bool) (d : BitVec 5) (t : BitVec 5) (b : Bool) (mask : Option (BitVec 2))
  /-- R161. Reserve and write active values into a work queue. -/
  | vappend (k : Bool) (d : BitVec 5) (h : BitVec 5) (t : BitVec 5) (b : Bool) (mask : Option (BitVec 2))
  /-- R158. Merge two vectors under a mask. -/
  | vmerge (k : Bool) (d : BitVec 5) (s : BitVec 5) (t : BitVec 5) (a : Bool) (b : Bool) (m : BitVec 2)
  /-- R158. Prefix count of set mask bits. -/
  | vrank (k : Bool) (d : BitVec 5) (t : BitVec 5) (mask : Option (BitVec 2))
  /-- R158. Write element indices. -/
  | vindex (k : Bool) (d : BitVec 5) (mask : Option (BitVec 2))
  /-- R163. Mask AND. -/
  | mand (k : Bool) (d : BitVec 5) (s : BitVec 5) (t : BitVec 5)
  /-- R163. Mask OR. -/
  | mor (k : Bool) (d : BitVec 5) (s : BitVec 5) (t : BitVec 5)
  /-- R163. Mask XOR. -/
  | mxor (k : Bool) (d : BitVec 5) (s : BitVec 5) (t : BitVec 5)
  /-- R163. Mask NOT. -/
  | mnot (k : Bool) (d : BitVec 5) (t : BitVec 5)
  /-- R163. Count set active mask bits into an x register. -/
  | mcount (k : Bool) (d : BitVec 5) (t : BitVec 5) (mask : Option (BitVec 2))
  /-- R163. Lowest set active mask bit into an x register. -/
  | mlow (k : Bool) (d : BitVec 5) (t : BitVec 5) (mask : Option (BitVec 2))
  /-- R163. Mask of bits before the first set bit. -/
  | mpre (k : Bool) (d : BitVec 5) (t : BitVec 5)
  /-- R163. Mask copy. -/
  | mmov (k : Bool) (d : BitVec 5) (t : BitVec 5)
  /-- R163. Set mask bits. -/
  | mset (k : Bool) (d : BitVec 5)
  /-- R163. Clear mask bits. -/
  | mclr (k : Bool) (d : BitVec 5)
  /-- R164. Vector integer equal compare to mask. -/
  | vmseqVV (k : Bool) (d : BitVec 5) (s : BitVec 5) (t : BitVec 5) (a : Bool) (b : Bool) (mask : Option (BitVec 2))
  /-- R164. Vector integer not-equal compare. -/
  | vmsneVV (k : Bool) (d : BitVec 5) (s : BitVec 5) (t : BitVec 5) (a : Bool) (b : Bool) (mask : Option (BitVec 2))
  /-- R164. Vector signed less-than compare. -/
  | vmsltVV (k : Bool) (d : BitVec 5) (s : BitVec 5) (t : BitVec 5) (a : Bool) (b : Bool) (mask : Option (BitVec 2))
  /-- R164. Vector signed less-or-equal compare. -/
  | vmsleVV (k : Bool) (d : BitVec 5) (s : BitVec 5) (t : BitVec 5) (a : Bool) (b : Bool) (mask : Option (BitVec 2))
  /-- R164. Vector unsigned less-than compare. -/
  | vmsltnVV (k : Bool) (d : BitVec 5) (s : BitVec 5) (t : BitVec 5) (a : Bool) (b : Bool) (mask : Option (BitVec 2))
  /-- R164. Vector FP equal compare. -/
  | vmfeqVV (k : Bool) (d : BitVec 5) (s : BitVec 5) (t : BitVec 5) (a : Bool) (b : Bool) (mask : Option (BitVec 2))
  /-- R164. Vector FP less-than compare. -/
  | vmfltVV (k : Bool) (d : BitVec 5) (s : BitVec 5) (t : BitVec 5) (a : Bool) (b : Bool) (mask : Option (BitVec 2))
  /-- R164. Vector FP less-or-equal compare. -/
  | vmfle (k : Bool) (d : BitVec 5) (s : BitVec 5) (t : BitVec 5) (a : Bool) (b : Bool) (mask : Option (BitVec 2))
  /-- R164. Vector FP not-equal compare. -/
  | vmfne (k : Bool) (d : BitVec 5) (s : BitVec 5) (t : BitVec 5) (a : Bool) (b : Bool) (mask : Option (BitVec 2))
  /-- R164. Compare equal with scalar. -/
  | vmseqVX (k : Bool) (d : BitVec 5) (x : BitVec 5) (t : BitVec 5) (b : Bool) (mask : Option (BitVec 2))
  /-- R164. Compare not-equal with scalar. -/
  | vmsneVX (k : Bool) (d : BitVec 5) (x : BitVec 5) (t : BitVec 5) (b : Bool) (mask : Option (BitVec 2))
  /-- R164. Signed less-than with scalar. -/
  | vmsltVX (k : Bool) (d : BitVec 5) (x : BitVec 5) (t : BitVec 5) (b : Bool) (mask : Option (BitVec 2))
  /-- R164. Signed less-or-equal with scalar. -/
  | vmsleVX (k : Bool) (d : BitVec 5) (x : BitVec 5) (t : BitVec 5) (b : Bool) (mask : Option (BitVec 2))
  /-- R164. Signed greater-than with scalar. -/
  | vmsgt (k : Bool) (d : BitVec 5) (x : BitVec 5) (t : BitVec 5) (b : Bool) (mask : Option (BitVec 2))
  /-- R164. Unsigned less-than with scalar. -/
  | vmsltnVX (k : Bool) (d : BitVec 5) (x : BitVec 5) (t : BitVec 5) (b : Bool) (mask : Option (BitVec 2))
  /-- R164. FP equal with scalar. -/
  | vmfeqVX (k : Bool) (d : BitVec 5) (x : BitVec 5) (t : BitVec 5) (b : Bool) (mask : Option (BitVec 2))
  /-- R164. FP less-than with scalar. -/
  | vmfltVX (k : Bool) (d : BitVec 5) (x : BitVec 5) (t : BitVec 5) (b : Bool) (mask : Option (BitVec 2))
  /-- R164. FP greater-than with scalar. -/
  | vmfgt (k : Bool) (d : BitVec 5) (x : BitVec 5) (t : BitVec 5) (b : Bool) (mask : Option (BitVec 2))
  /-- R165. Vector copy. -/
  | vmv (k : Bool) (d : BitVec 5) (t : BitVec 5) (b : Bool) (mask : Option (BitVec 2))
  /-- R165. Move element 0 to an x register. -/
  | vmvxs (k : Bool) (d : BitVec 5) (t : BitVec 5) (b : Bool)
  /-- R165. Move an x register to element 0. -/
  | vmvsx (k : Bool) (d : BitVec 5) (x : BitVec 5)
  /-- R165. Broadcast an x register to active elements. -/
  | vbcast (k : Bool) (d : BitVec 5) (x : BitVec 5) (mask : Option (BitVec 2))
  /-- R166. Fill a vector group from an A-to-X queue. -/
  | vqpop (k : Bool) (d : BitVec 5) (q : BitVec 3)
  /-- R166. Send a vector group to an X-to-A queue. -/
  | vqpush (k : Bool) (q : BitVec 2) (t : BitVec 5) (b : Bool)
  /-- R167. Read noise residues into a register. -/
  | vnsrd (k : Bool) (d : BitVec 5)
  /-- R167. Write noise residues from a register. -/
  | vnswr (k : Bool) (t : BitVec 5) (b : Bool)
  /-- R178. SGD-with-momentum update of a split master weight. -/
  | vupdSgdm (k : Bool) (d : BitVec 5) (s : BitVec 5) (t : BitVec 5) (a : Bool) (b : Bool) (mask : Option (BitVec 2))
  /-- R178. AdamW update of a split master weight and moments. -/
  | vupdAdamw (k : Bool) (d : BitVec 5) (s : BitVec 5) (t : BitVec 5) (a : Bool) (b : Bool) (mask : Option (BitVec 2))
  /-- R179. Split FP32 values into BF16 and extension planes. -/
  | vsplit (k : Bool) (d : BitVec 5) (t : BitVec 5) (b : Bool) (mask : Option (BitVec 2))
  /-- R179. Join planes into FP32 values. -/
  | vjoin (k : Bool) (d : BitVec 5) (t : BitVec 5) (b : Bool) (mask : Option (BitVec 2))
  /-- R172. Outer-product accumulate into an FP32 tile, rescaling first. -/
  | tcross (k : Bool) (t : BitVec 3) (s : BitVec 5) (u : BitVec 5) (l : BitVec 2) (a : Bool) (b : Bool) (mask : Option (BitVec 2))
  /-- R172. Negated outer-product accumulate. -/
  | tcrossm (k : Bool) (t : BitVec 3) (s : BitVec 5) (u : BitVec 5) (l : BitVec 2) (a : Bool) (b : Bool) (mask : Option (BitVec 2))
  /-- R172. Integer outer-product accumulate into INT32 tile. -/
  | tcrossI (k : Bool) (t : BitVec 3) (s : BitVec 5) (u : BitVec 5) (l : BitVec 2) (a : Bool) (b : Bool) (mask : Option (BitVec 2))
  /-- R174. Block-scaled outer-product accumulate. -/
  | tcrossS (k : Bool) (t : BitVec 3) (s : BitVec 5) (u : BitVec 5) (a : Bool) (b : Bool) (mask : Option (BitVec 2))
  /-- R175. Zero a tile and set its format and sexp. -/
  | tzero (k : Bool) (t : BitVec 3)
  /-- R175. Move a vector into tile rows. -/
  | tmvrow (k : Bool) (t : BitVec 3) (x : BitVec 5) (v : BitVec 5) (b : Bool) (mask : Option (BitVec 2))
  /-- R175. Move a vector into tile columns. -/
  | tmvcol (k : Bool) (t : BitVec 3) (x : BitVec 5) (v : BitVec 5) (b : Bool) (mask : Option (BitVec 2))
  /-- R175. Read tile rows into a vector. -/
  | trdrow (k : Bool) (t : BitVec 3) (x : BitVec 5) (v : BitVec 5) (mask : Option (BitVec 2))
  /-- R175. Read tile columns into a vector. -/
  | trdcol (k : Bool) (t : BitVec 3) (x : BitVec 5) (v : BitVec 5) (mask : Option (BitVec 2))
  /-- R176. Set a tile's format and sexp without changing cells. -/
  | tcfg (k : Bool) (t : BitVec 3) (x : BitVec 5)
  /-- R176. Rescale a tile to a given sexp. -/
  | tscale (k : Bool) (t : BitVec 3) (x : BitVec 5)
  /-- R176. Read a tile header into an x register. -/
  | tstat (k : Bool) (t : BitVec 3) (x : BitVec 5)
deriving DecidableEq, Repr

end Sys2Proof
end

