-- ==== Sys2Proof/WellFormed.lean ====
section
/-!
DEFINITION. The well-formed instructions: the operand values for which a word is an instruction at check 1 of R110.
`numbersOk` holds the numbers whose failure is sub-code 0 (a LOOP level above 5, an unlisted CSR number), `fieldsOk`
the values that a rule reserves (sub-code 1).
-/

namespace Sys2Proof

/-- The CSR numbers that R58 lists. -/
def csrListed (c : BitVec 12) : Bool :=
  let n := c.toNat
  n ≤ 0x00D || (0x010 ≤ n && n ≤ 0x01D) || (0x020 ≤ n && n ≤ 0x022) || (0x030 ≤ n && n ≤ 0x033) ||
  (0x040 ≤ n && n ≤ 0x043) || (0x050 ≤ n && n ≤ 0x060) || n == 0x070 || n == 0x080 || n == 0x081

/-- R109, first and second case: the LOOP level is 0-5 and the CSR number is listed by R58. -/
def Instr.numbersOk : Instr → Bool
  | .loopSet l | .loopEnd l _ | .loopIdx l _ | .loopBrk l _ => l.toNat ≤ 5
  | .csrr _ c | .csrw _ _ c | .csrs _ _ c | .csrc _ _ c => csrListed c
  | _ => true

/-- R125: a barrier is 0-7 and its scope is `die` or `pkg`. -/
def barrierOk (b : BitVec 5) (sc : BitVec 2) : Bool := b.toNat ≤ 7 && (sc == 1#2 || sc == 2#2)

/-- R180: `coll` and `pub` take scope `pkg` or `dom`. -/
def wideScopeOk (sc : BitVec 2) : Bool := sc == 2#2 || sc == 3#2

/-- R221: a SPAN word takes scope `die` or `pkg`. -/
def spanScopeOk (sc : BitVec 2) : Bool := sc == 1#2 || sc == 2#2

/-- R102, R104, R169: a queue-named operand field of a TCROSS word has bits 4:3 zero and no chain bit, and the two
operands never name one queue. -/
def tcrossOk (vs1 vs2 : BitVec 5) (sel : BitVec 2) (c1 c2 : Bool) : Bool :=
  (!sel.getLsbD 0 || (vs1.toNat < 8 && !c1)) && (!sel.getLsbD 1 || (vs2.toNat < 8 && !c2)) &&
  !(sel == 3#2 && vs1.extractLsb' 0 3 == vs2.extractLsb' 0 3)

/-- R109, third case: no operand holds a value that R102, R104, R125, R142, R169, R180 or R221 reserves. -/
def Instr.fieldsOk : Instr → Bool
  | .barArv b s | .barWt b s | .barSync b s => barrierOk b s
  | .coll _ _ s | .pub _ _ s => wideScopeOk s
  | .kvfork _ _ _ s | .kvapp _ _ _ s | .kvtag _ _ _ s | .kvret _ _ _ s | .kvres _ _ _ s | .kvpin _ _ _ s _ _ _ | .kvlook _ _ _ s =>
    spanScopeOk s
  | .vlseg _ _ _ f _ | .vsseg _ _ _ f _ _ => f != 0#3
  | .tcross _ _ s u l a b _ | .tcrossm _ _ s u l a b _ | .tcrossI _ _ s u l a b _ => tcrossOk s u l a b
  | _ => true

/-- A well-formed instruction: one that the encoding admits (R109). -/
def Instr.wellFormed (i : Instr) : Bool := i.numbersOk && i.fieldsOk

end Sys2Proof
end

