-- ==== Sys2Proof/Decode.lean ====
section
/-!
DEFINITION. Decoding an instruction word (R100-R109) and the encoder, both written from the layouts of R101 and R102
and the function numbers of R107. Decoding is total: a word that names no instruction is refused by the reason that
R110 records, sub-code 0 (undefined) or 1 (reserved field).
-/

namespace Sys2Proof

/-- Why a word is no instruction (R109, R110 check 1). -/
inductive DecodeError where
  /-- Sub-code 0: the major, function number, `sz` code, LOOP level or CSR number is unassigned. -/
  | undefined
  /-- Sub-code 1: a reserved field is non-zero, or an order or scope is reserved. -/
  | reserved
  /-- Check 3: `bpush` names another queue than `bq` (R108). -/
  | queue
  /-- Check 8: a VC word with K = 1 (R42 rule 3, R104). -/
  | convoy
deriving DecidableEq, Repr

/-- Layout S3 (R101). -/
def packS3 (maj : BitVec 6) (rd ra rb : BitVec 5) (fn : BitVec 6) (md : BitVec 5) : IWord :=
  maj ++ rd ++ ra ++ rb ++ fn ++ md

/-- Layouts SI and SB (R101); SB has ra and rb in the places of rd and ra. -/
def packSI (maj : BitVec 6) (rd ra : BitVec 5) (imm : BitVec 16) : IWord := maj ++ rd ++ ra ++ imm

/-- Layouts SU and SJ (R101). -/
def packSU (maj : BitVec 6) (rd : BitVec 5) (imm : BitVec 21) : IWord := maj ++ rd ++ imm

/-- Layout SM (R101). -/
def packSM (maj : BitVec 6) (rd ra : BitVec 5) (sz : BitVec 3) (off : BitVec 13) : IWord :=
  maj ++ rd ++ ra ++ sz ++ off

/-- Layout SL (R101). -/
def packSL (maj : BitVec 6) (fn : BitVec 2) (lv : BitVec 3) (rd : BitVec 5) (off : BitVec 16) : IWord :=
  maj ++ fn ++ lv ++ rd ++ off

/-- Layout CSR (R101). -/
def packCS (maj : BitVec 6) (rd ra : BitVec 5) (op z : BitVec 2) (num : BitVec 12) : IWord :=
  maj ++ rd ++ ra ++ op ++ z ++ num

/-- Layout E (R101). -/
def packE (maj : BitVec 6) (ad ap an : BitVec 5) (fn : BitVec 6) (scope : BitVec 2) (flags : BitVec 3) : IWord :=
  maj ++ ad ++ ap ++ an ++ fn ++ scope ++ flags

/-- Layouts V and VM (R102); VM has xa in vs1, aux in vs2 and dc in c1. -/
def packV (maj : BitVec 6) (k : BitVec 1) (vd vs1 vs2 : BitVec 5) (c1 c2 me : BitVec 1) (mk : BitVec 2)
    (fn : BitVec 5) : IWord :=
  maj ++ k ++ vd ++ vs1 ++ vs2 ++ c1 ++ c2 ++ me ++ mk ++ fn

/-- Layout VC (R102). -/
def packVC (maj : BitVec 6) (k : BitVec 1) (rd ra : BitVec 5) (vt : BitVec 10) (fn : BitVec 5) : IWord :=
  maj ++ k ++ rd ++ ra ++ vt ++ fn

/-- Layout T (R102). -/
def packTT (maj : BitVec 6) (k : BitVec 1) (td : BitVec 3) (vs1 vs2 : BitVec 5) (sel : BitVec 2)
    (c1 c2 me : BitVec 1) (mk : BitVec 2) (fn : BitVec 5) : IWord :=
  maj ++ k ++ td ++ vs1 ++ vs2 ++ sel ++ c1 ++ c2 ++ me ++ mk ++ fn

/-- The me bit of a mask operand (R103). -/
def maskMe : MaskOp → BitVec 1
  | none => 0#1
  | some _ => 1#1

/-- The mk field of a mask operand, 0b00 when me = 0 (R103). -/
def maskMk : MaskOp → BitVec 2
  | none => 0#2
  | some m => m

/-- The mask operand that bits 7:5 of a vector or tile word hold (R102, R103). -/
def maskOf (w : IWord) : MaskOp :=
  if w.getLsbD 7 then some (w.extractLsb' 5 2) else none

/-- R103: mk is 0b00 when me is 0. -/
def maskWordOk (w : IWord) : Bool := w.getLsbD 7 || w.extractLsb' 5 2 == 0#2

/-- Whether the reserved fields are as they must be, for the words of major 0x01 (R107). -/
def fields01 (w : BitVec 32) : Option Bool :=
  match (w.extractLsb' 5 6).toNat with
  | 0 => some (w.extractLsb' 0 5 == 0#5)
  | 1 => some (w.extractLsb' 0 5 == 0#5)
  | 2 => some (w.extractLsb' 0 5 == 0#5)
  | 3 => some (w.extractLsb' 0 5 == 0#5)
  | 4 => some (w.extractLsb' 0 5 == 0#5)
  | 5 => some (w.extractLsb' 0 5 == 0#5)
  | 6 => some (w.extractLsb' 0 5 == 0#5)
  | 7 => some (w.extractLsb' 0 5 == 0#5)
  | 8 => some (w.extractLsb' 0 5 == 0#5)
  | 9 => some (w.extractLsb' 0 5 == 0#5)
  | 10 => some (w.extractLsb' 0 5 == 0#5)
  | 11 => some (w.extractLsb' 0 5 == 0#5)
  | 12 => some (w.extractLsb' 0 5 == 0#5)
  | 13 => some (w.extractLsb' 0 5 == 0#5)
  | 14 => some (w.extractLsb' 0 5 == 0#5)
  | 15 => some (w.extractLsb' 0 5 == 0#5)
  | 16 => some (w.extractLsb' 0 5 == 0#5)
  | 17 => some (w.extractLsb' 0 5 == 0#5)
  | 18 => some (w.extractLsb' 0 5 == 0#5)
  | 19 => some (w.extractLsb' 0 5 == 0#5)
  | 20 => some (w.extractLsb' 0 5 == 0#5)
  | 21 => some (w.extractLsb' 0 5 == 0#5)
  | 22 => some (w.extractLsb' 0 5 == 0#5)
  | 23 => some (w.extractLsb' 0 5 == 0#5)
  | 24 => some (w.extractLsb' 11 5 == 0#5 && w.extractLsb' 0 5 == 0#5)
  | 25 => some (w.extractLsb' 11 5 == 0#5 && w.extractLsb' 0 5 == 0#5)
  | 26 => some (w.extractLsb' 11 5 == 0#5 && w.extractLsb' 0 5 == 0#5)
  | 27 => some (w.extractLsb' 11 5 == 0#5 && w.extractLsb' 0 5 == 0#5)
  | 28 => some (w.extractLsb' 11 5 == 0#5 && w.extractLsb' 0 5 == 0#5)
  | 29 => some (w.extractLsb' 11 5 == 0#5 && w.extractLsb' 0 5 == 0#5)
  | 30 => some (w.extractLsb' 11 5 == 0#5 && w.extractLsb' 0 5 == 0#5)
  | 31 => some (w.extractLsb' 1 4 == 0#4)
  | 32 => some (w.extractLsb' 1 4 == 0#4)
  | 33 => some (w.extractLsb' 1 4 == 0#4)
  | _ => none

/-- Whether the reserved fields are as they must be, for the words of major 0x0A (R107). -/
def fields0A (w : BitVec 32) : Option Bool :=
  match (w.extractLsb' 13 3).toNat with
  | 0 => some true
  | 1 => some true
  | 2 => some true
  | 3 => some true
  | 4 => some true
  | 5 => some true
  | 6 => some true
  | _ => none

/-- Whether the reserved fields are as they must be, for the words of major 0x0B (R107). -/
def fields0B (w : BitVec 32) : Option Bool :=
  match (w.extractLsb' 13 3).toNat with
  | 0 => some true
  | 1 => some true
  | 2 => some true
  | 3 => some true
  | _ => none

/-- Whether the reserved fields are as they must be, for the words of major 0x0C (R107). -/
def fields0C (w : BitVec 32) : Option Bool :=
  match (w.extractLsb' 5 6).toNat with
  | 0 => some true
  | 1 => some true
  | 2 => some true
  | 3 => some true
  | 4 => some true
  | 5 => some true
  | 6 => some true
  | 7 => some true
  | 8 => some true
  | 9 => some true
  | 10 => some (w.extractLsb' 11 5 == 0#5 && w.extractLsb' 3 2 == 1#2)
  | 11 => some (w.extractLsb' 21 5 == 0#5 && w.extractLsb' 3 2 == 2#2)
  | _ => none

/-- Whether the reserved fields are as they must be, for the words of major 0x0D (R107). -/
def fields0D (w : BitVec 32) : Option Bool :=
  match (w.extractLsb' 5 6).toNat with
  | 0 => some (w.extractLsb' 0 5 == 0#5)
  | 1 => some (w.extractLsb' 0 5 == 0#5)
  | 2 => some (w.extractLsb' 0 5 == 0#5)
  | 3 => some (w.extractLsb' 0 5 == 0#5)
  | 4 => some (w.extractLsb' 11 5 == 0#5 && w.extractLsb' 0 5 == 0#5)
  | 5 => some (w.extractLsb' 0 5 == 0#5)
  | 6 => some (w.extractLsb' 0 5 == 0#5)
  | 7 => some (w.extractLsb' 0 5 == 0#5)
  | 8 => some (w.extractLsb' 11 5 == 0#5 && w.extractLsb' 0 5 == 0#5)
  | 9 => some (w.extractLsb' 11 5 == 0#5 && w.extractLsb' 0 5 == 0#5)
  | 10 => some (w.extractLsb' 0 5 == 0#5)
  | 11 => some (w.extractLsb' 0 5 == 0#5)
  | 12 => some (w.extractLsb' 0 5 == 0#5)
  | 13 => some (w.extractLsb' 11 5 == 0#5 && w.extractLsb' 0 5 == 0#5)
  | 14 => some (w.extractLsb' 11 5 == 0#5 && w.extractLsb' 0 5 == 0#5)
  | 15 => some (w.extractLsb' 11 5 == 0#5 && w.extractLsb' 0 5 == 0#5)
  | _ => none

/-- Whether the reserved fields are as they must be, for the words of major 0x16 (R107). -/
def fields16 (w : BitVec 32) : Option Bool :=
  match (w.extractLsb' 24 2).toNat with
  | 0 => if (w.extractLsb' 21 3).toNat ≤ 5 then some (w.extractLsb' 0 21 == 0#21) else none
  | 1 => if (w.extractLsb' 21 3).toNat ≤ 5 then some (w.extractLsb' 16 5 == 0#5) else none
  | 2 => if (w.extractLsb' 21 3).toNat ≤ 5 then some (w.extractLsb' 0 16 == 0#16) else none
  | 3 => if (w.extractLsb' 21 3).toNat ≤ 5 then some (w.extractLsb' 16 5 == 0#5) else none
  | _ => none

/-- Whether the reserved fields are as they must be, for the words of major 0x17 (R107). -/
def fields17 (w : BitVec 32) : Option Bool :=
  match (w.extractLsb' 5 6).toNat with
  | 0 => some (w.extractLsb' 21 5 == 0#5 && w.extractLsb' 0 5 == 0#5)
  | 1 => some (w.extractLsb' 16 5 == 0#5 && w.extractLsb' 0 5 == 0#5)
  | 2 => some (w.extractLsb' 16 5 == 0#5 && w.extractLsb' 0 5 == 0#5)
  | 3 => some (w.extractLsb' 16 5 == 0#5 && w.extractLsb' 0 5 == 0#5)
  | 4 => some (w.extractLsb' 16 10 == 0#10 && w.extractLsb' 0 5 == 0#5)
  | 5 => some (w.extractLsb' 21 5 == 0#5 && w.extractLsb' 0 5 == 0#5)
  | 6 => some true
  | 7 => some (w.extractLsb' 0 5 == 0#5)
  | 8 => some (w.extractLsb' 0 5 == 0#5)
  | 9 => some (w.extractLsb' 16 10 == 0#10 && w.extractLsb' 0 5 == 0#5)
  | 10 => some (w.extractLsb' 16 5 == 0#5 && w.extractLsb' 0 5 == 0#5)
  | _ => none

/-- Whether the reserved fields are as they must be, for the words of major 0x18 (R107). -/
def fields18 (w : BitVec 32) : Option Bool :=
  match (w.extractLsb' 14 2).toNat with
  | 0 => if csrListed (w.extractLsb' 0 12) then some (w.extractLsb' 16 5 == 0#5 && w.extractLsb' 12 2 == 0#2) else none
  | 1 => if csrListed (w.extractLsb' 0 12) then some (w.extractLsb' 12 2 == 0#2) else none
  | 2 => if csrListed (w.extractLsb' 0 12) then some (w.extractLsb' 12 2 == 0#2) else none
  | 3 => if csrListed (w.extractLsb' 0 12) then some (w.extractLsb' 12 2 == 0#2) else none
  | _ => none

/-- Whether the reserved fields are as they must be, for the words of major 0x19 (R107). -/
def fields19 (w : BitVec 32) : Option Bool :=
  match (w.extractLsb' 5 6).toNat with
  | 0 => some (w.extractLsb' 11 15 == 0#15 && w.extractLsb' 3 2 == 0#2 && w.extractLsb' 0 1 == 0#1)
  | 1 => some (w.extractLsb' 11 15 == 0#15 && w.extractLsb' 3 2 == 0#2 && w.extractLsb' 0 1 == 0#1)
  | 2 => some (w.extractLsb' 11 15 == 0#15 && w.extractLsb' 3 2 == 0#2 && w.extractLsb' 0 1 == 0#1)
  | 3 => some (w.extractLsb' 11 15 == 0#15 && w.extractLsb' 3 2 == 0#2 && w.extractLsb' 0 1 == 0#1)
  | 4 => some (w.extractLsb' 16 10 == 0#10 && w.extractLsb' 3 2 == 0#2 && w.extractLsb' 0 1 == 0#1 && barrierOk (w.extractLsb' 11 5) (w.extractLsb' 1 2))
  | 5 => some (w.extractLsb' 16 10 == 0#10 && w.extractLsb' 3 2 == 0#2 && w.extractLsb' 0 1 == 0#1 && barrierOk (w.extractLsb' 11 5) (w.extractLsb' 1 2))
  | 6 => some (w.extractLsb' 16 10 == 0#10 && w.extractLsb' 3 2 == 0#2 && w.extractLsb' 0 1 == 0#1 && barrierOk (w.extractLsb' 11 5) (w.extractLsb' 1 2))
  | 7 => some (w.extractLsb' 11 15 == 0#15 && w.extractLsb' 0 5 == 0#5)
  | 8 => some (w.extractLsb' 11 15 == 0#15 && w.extractLsb' 0 5 == 0#5)
  | 9 => some (w.extractLsb' 21 5 == 0#5 && w.extractLsb' 11 5 == 0#5 && w.extractLsb' 3 2 == 0#2 && w.extractLsb' 0 1 == 0#1)
  | _ => none

/-- Whether the reserved fields are as they must be, for the words of major 0x1A (R107). -/
def fields1A (w : BitVec 32) : Option Bool :=
  match (w.extractLsb' 5 6).toNat with
  | 0 => some (w.extractLsb' 21 5 == 0#5 && w.extractLsb' 11 5 == 0#5 && w.extractLsb' 0 5 == 0#5)
  | 1 => some (w.extractLsb' 21 5 == 0#5 && w.extractLsb' 11 5 == 0#5 && w.extractLsb' 0 5 == 0#5)
  | 2 => some (w.extractLsb' 11 15 == 0#15 && w.extractLsb' 0 5 == 0#5)
  | 3 => some (w.extractLsb' 11 15 == 0#15 && w.extractLsb' 0 5 == 0#5)
  | 4 => some (w.extractLsb' 11 15 == 0#15 && w.extractLsb' 0 5 == 0#5)
  | 5 => some (w.extractLsb' 21 5 == 0#5 && w.extractLsb' 0 5 == 0#5)
  | 6 => some (w.extractLsb' 21 5 == 0#5 && w.extractLsb' 0 5 == 0#5)
  | 7 => some (w.extractLsb' 21 5 == 0#5 && w.extractLsb' 0 5 == 0#5)
  | 8 => some (w.extractLsb' 11 15 == 0#15 && w.extractLsb' 0 5 == 0#5)
  | _ => none

/-- Whether the reserved fields are as they must be, for the words of major 0x1B (R107). -/
def fields1B (w : BitVec 32) : Option Bool :=
  match (w.extractLsb' 5 6).toNat with
  | 0 => some (w.extractLsb' 11 5 == 0#5 && w.extractLsb' 2 1 == 0#1)
  | 1 => some (w.extractLsb' 11 5 == 0#5 && w.extractLsb' 0 3 == 0#3)
  | 2 => some (w.extractLsb' 11 5 == 0#5 && w.extractLsb' 0 3 == 0#3)
  | 3 => some (w.extractLsb' 11 5 == 0#5 && w.extractLsb' 2 1 == 0#1)
  | 4 => some (w.extractLsb' 11 5 == 0#5 && w.extractLsb' 2 1 == 0#1)
  | 5 => some (w.extractLsb' 11 5 == 0#5 && w.extractLsb' 0 3 == 0#3 && wideScopeOk (w.extractLsb' 3 2))
  | 6 => some (w.extractLsb' 11 5 == 0#5 && w.extractLsb' 0 3 == 0#3 && wideScopeOk (w.extractLsb' 3 2))
  | 7 => some (w.extractLsb' 11 5 == 0#5 && w.extractLsb' 0 5 == 0#5)
  | 8 => some (w.extractLsb' 11 5 == 0#5 && w.extractLsb' 0 5 == 0#5)
  | 9 => some (w.extractLsb' 11 5 == 0#5 && w.extractLsb' 0 5 == 0#5)
  | _ => none

/-- Whether the reserved fields are as they must be, for the words of major 0x1C (R107). -/
def fields1C (w : BitVec 32) : Option Bool :=
  match (w.extractLsb' 5 6).toNat with
  | 0 => some (w.extractLsb' 0 3 == 0#3 && spanScopeOk (w.extractLsb' 3 2))
  | 1 => some (w.extractLsb' 0 3 == 0#3 && spanScopeOk (w.extractLsb' 3 2))
  | 2 => some (w.extractLsb' 0 3 == 0#3 && spanScopeOk (w.extractLsb' 3 2))
  | 3 => some (w.extractLsb' 0 3 == 0#3 && spanScopeOk (w.extractLsb' 3 2))
  | 4 => some (w.extractLsb' 0 3 == 0#3 && spanScopeOk (w.extractLsb' 3 2))
  | 5 => some (spanScopeOk (w.extractLsb' 3 2))
  | 6 => some (w.extractLsb' 0 3 == 0#3 && spanScopeOk (w.extractLsb' 3 2))
  | _ => none

/-- Whether the reserved fields are as they must be, for the words of major 0x1D (R107). -/
def fields1D (w : BitVec 32) : Option Bool :=
  match (w.extractLsb' 5 6).toNat with
  | 0 => some (w.extractLsb' 21 5 == 0#5 && w.extractLsb' 11 5 == 0#5 && w.extractLsb' 0 5 == 0#5)
  | 1 => some (w.extractLsb' 11 15 == 0#15 && w.extractLsb' 0 5 == 0#5)
  | 2 => some (w.extractLsb' 11 10 == 0#10 && w.extractLsb' 0 5 == 0#5)
  | 3 => some (w.extractLsb' 16 10 == 0#10 && w.extractLsb' 0 5 == 0#5)
  | _ => none

/-- Whether the reserved fields are as they must be, for the words of major 0x20 (R107). -/
def fields20 (w : BitVec 32) : Option Bool :=
  match (w.extractLsb' 0 5).toNat with
  | 0 => some (w.extractLsb' 5 5 == 0#5)
  | 1 => some true
  | 2 => some (w.extractLsb' 12 13 == 0#13 && w.extractLsb' 5 5 == 0#5)
  | _ => none

/-- Whether the reserved fields are as they must be, for the words of major 0x21 (R107). -/
def fields21 (w : BitVec 32) : Option Bool :=
  match (w.extractLsb' 0 5).toNat with
  | 0 => some (w.extractLsb' 8 7 == 0#7 && maskWordOk w)
  | 1 => some (w.extractLsb' 8 2 == 0#2 && maskWordOk w)
  | 2 => some (w.extractLsb' 13 2 == 0#2 && w.extractLsb' 8 2 == 0#2 && maskWordOk w && w.extractLsb' 10 3 != 0#3)
  | 3 => some (w.extractLsb' 8 2 == 0#2 && maskWordOk w)
  | 4 => some (w.extractLsb' 8 2 == 0#2 && maskWordOk w)
  | 5 => some (w.extractLsb' 5 5 == 0#5)
  | 6 => some (w.extractLsb' 5 10 == 0#10)
  | _ => none

/-- Whether the reserved fields are as they must be, for the words of major 0x22 (R107). -/
def fields22 (w : BitVec 32) : Option Bool :=
  match (w.extractLsb' 0 5).toNat with
  | 0 => some (w.extractLsb' 10 5 == 0#5 && w.extractLsb' 8 1 == 0#1 && maskWordOk w)
  | 1 => some (w.extractLsb' 8 1 == 0#1 && maskWordOk w)
  | 2 => some (w.extractLsb' 13 2 == 0#2 && w.extractLsb' 8 1 == 0#1 && maskWordOk w && w.extractLsb' 10 3 != 0#3)
  | 3 => some (w.extractLsb' 8 1 == 0#1 && maskWordOk w)
  | 4 => some (w.extractLsb' 8 1 == 0#1 && maskWordOk w)
  | 5 => some (w.extractLsb' 8 1 == 0#1 && maskWordOk w)
  | 6 => some (w.extractLsb' 5 10 == 0#10)
  | _ => none

/-- Whether the reserved fields are as they must be, for the words of major 0x23 (R107). -/
def fields23 (w : BitVec 32) : Option Bool :=
  match (w.extractLsb' 0 5).toNat with
  | 0 => some (w.extractLsb' 8 2 == 0#2 && maskWordOk w)
  | 1 => some (w.extractLsb' 8 1 == 0#1 && maskWordOk w)
  | 2 => some (w.extractLsb' 8 2 == 0#2 && maskWordOk w)
  | _ => none

/-- Whether the reserved fields are as they must be, for the words of major 0x24 (R107). -/
def fields24 (w : BitVec 32) : Option Bool :=
  match (w.extractLsb' 0 5).toNat with
  | 0 => some (maskWordOk w)
  | 1 => some (maskWordOk w)
  | 2 => some (maskWordOk w)
  | 3 => some (maskWordOk w)
  | 4 => some (maskWordOk w)
  | 5 => some (maskWordOk w)
  | 6 => some (maskWordOk w)
  | 7 => some (maskWordOk w)
  | 8 => some (maskWordOk w)
  | 9 => some (maskWordOk w)
  | 10 => some (maskWordOk w)
  | 11 => some (maskWordOk w)
  | 12 => some (maskWordOk w)
  | 13 => some (maskWordOk w)
  | 14 => some (maskWordOk w)
  | 15 => some (maskWordOk w)
  | 16 => some (maskWordOk w)
  | 17 => some (maskWordOk w)
  | 18 => some (maskWordOk w)
  | 19 => some (maskWordOk w)
  | 20 => some (maskWordOk w)
  | 21 => some (maskWordOk w)
  | 22 => some (maskWordOk w)
  | 23 => some (maskWordOk w)
  | 24 => some (maskWordOk w)
  | 25 => some (maskWordOk w)
  | _ => none

/-- Whether the reserved fields are as they must be, for the words of major 0x25 (R107). -/
def fields25 (w : BitVec 32) : Option Bool :=
  match (w.extractLsb' 0 5).toNat with
  | 0 => some (w.extractLsb' 9 1 == 0#1 && maskWordOk w)
  | 1 => some (w.extractLsb' 9 1 == 0#1 && maskWordOk w)
  | 2 => some (w.extractLsb' 9 1 == 0#1 && maskWordOk w)
  | 3 => some (w.extractLsb' 9 1 == 0#1 && maskWordOk w)
  | 4 => some (w.extractLsb' 9 1 == 0#1 && maskWordOk w)
  | 5 => some (w.extractLsb' 9 1 == 0#1 && maskWordOk w)
  | 6 => some (w.extractLsb' 9 1 == 0#1 && maskWordOk w)
  | 7 => some (w.extractLsb' 9 1 == 0#1 && maskWordOk w)
  | 8 => some (w.extractLsb' 9 1 == 0#1 && maskWordOk w)
  | 9 => some (w.extractLsb' 9 1 == 0#1 && maskWordOk w)
  | 10 => some (w.extractLsb' 9 1 == 0#1 && maskWordOk w)
  | 11 => some (w.extractLsb' 9 1 == 0#1 && maskWordOk w)
  | _ => none

/-- Whether the reserved fields are as they must be, for the words of major 0x26 (R107). -/
def fields26 (w : BitVec 32) : Option Bool :=
  match (w.extractLsb' 0 5).toNat with
  | 0 => some (w.extractLsb' 9 1 == 0#1 && maskWordOk w)
  | 1 => some (w.extractLsb' 9 1 == 0#1 && maskWordOk w)
  | 2 => some (w.extractLsb' 9 1 == 0#1 && maskWordOk w)
  | 3 => some (w.extractLsb' 9 1 == 0#1 && maskWordOk w)
  | 4 => some (w.extractLsb' 9 1 == 0#1 && maskWordOk w)
  | 5 => some (w.extractLsb' 9 1 == 0#1 && maskWordOk w)
  | 6 => some (w.extractLsb' 9 1 == 0#1 && maskWordOk w)
  | _ => none

/-- Whether the reserved fields are as they must be, for the words of major 0x27 (R107). -/
def fields27 (w : BitVec 32) : Option Bool :=
  match (w.extractLsb' 0 5).toNat with
  | 0 => some (maskWordOk w)
  | 1 => some (maskWordOk w)
  | 2 => some (maskWordOk w)
  | 3 => some (maskWordOk w)
  | 4 => some (w.extractLsb' 15 5 == 0#5 && w.extractLsb' 9 1 == 0#1 && maskWordOk w)
  | 5 => some (maskWordOk w)
  | 6 => some (maskWordOk w)
  | 7 => some (maskWordOk w)
  | 8 => some (maskWordOk w)
  | 9 => some (maskWordOk w)
  | 10 => some (maskWordOk w)
  | 11 => some (maskWordOk w)
  | 12 => some (w.extractLsb' 15 5 == 0#5 && w.extractLsb' 9 1 == 0#1 && maskWordOk w)
  | 13 => some (w.extractLsb' 15 5 == 0#5 && w.extractLsb' 9 1 == 0#1 && maskWordOk w)
  | 14 => some (w.extractLsb' 15 5 == 0#5 && w.extractLsb' 9 1 == 0#1 && maskWordOk w)
  | 15 => some (w.extractLsb' 15 5 == 0#5 && w.extractLsb' 9 1 == 0#1 && maskWordOk w)
  | 16 => some (maskWordOk w)
  | 17 => some (w.extractLsb' 15 5 == 0#5 && w.extractLsb' 9 1 == 0#1 && maskWordOk w)
  | _ => none

/-- Whether the reserved fields are as they must be, for the words of major 0x28 (R107). -/
def fields28 (w : BitVec 32) : Option Bool :=
  match (w.extractLsb' 0 5).toNat with
  | 0 => some (w.extractLsb' 9 1 == 0#1 && maskWordOk w)
  | 1 => some (w.extractLsb' 9 1 == 0#1 && maskWordOk w)
  | 2 => some (w.extractLsb' 9 1 == 0#1 && maskWordOk w)
  | 3 => some (w.extractLsb' 9 1 == 0#1 && maskWordOk w)
  | 4 => some (w.extractLsb' 9 1 == 0#1 && maskWordOk w)
  | 5 => some (w.extractLsb' 9 1 == 0#1 && maskWordOk w)
  | _ => none

/-- Whether the reserved fields are as they must be, for the words of major 0x29 (R107). -/
def fields29 (w : BitVec 32) : Option Bool :=
  match (w.extractLsb' 0 5).toNat with
  | 0 => some (w.extractLsb' 9 1 == 0#1 && maskWordOk w)
  | 1 => some (w.extractLsb' 9 1 == 0#1 && maskWordOk w)
  | 2 => some (w.extractLsb' 9 1 == 0#1 && maskWordOk w)
  | 3 => some (w.extractLsb' 9 1 == 0#1 && maskWordOk w)
  | 4 => some (maskWordOk w)
  | 5 => some (w.extractLsb' 9 1 == 0#1 && maskWordOk w)
  | 6 => some (w.extractLsb' 9 1 == 0#1 && maskWordOk w)
  | _ => none

/-- Whether the reserved fields are as they must be, for the words of major 0x2A (R107). -/
def fields2A (w : BitVec 32) : Option Bool :=
  match (w.extractLsb' 0 5).toNat with
  | 0 => some (maskWordOk w)
  | 1 => some (maskWordOk w)
  | 2 => some (maskWordOk w)
  | 3 => some (maskWordOk w)
  | 4 => some (maskWordOk w)
  | 5 => some (maskWordOk w)
  | 6 => some (maskWordOk w)
  | 7 => some (maskWordOk w)
  | 8 => some (maskWordOk w)
  | 9 => some (maskWordOk w)
  | 10 => some (maskWordOk w)
  | 11 => some (maskWordOk w)
  | 12 => some (maskWordOk w)
  | _ => none

/-- Whether the reserved fields are as they must be, for the words of major 0x2B (R107). -/
def fields2B (w : BitVec 32) : Option Bool :=
  match (w.extractLsb' 0 5).toNat with
  | 0 => some (w.extractLsb' 9 1 == 0#1 && maskWordOk w)
  | 1 => some (w.extractLsb' 9 1 == 0#1 && maskWordOk w)
  | 2 => some (w.extractLsb' 9 1 == 0#1 && maskWordOk w)
  | 3 => some (w.extractLsb' 9 1 == 0#1 && maskWordOk w)
  | 4 => some (maskWordOk w)
  | 5 => some (maskWordOk w)
  | 6 => some (w.extractLsb' 15 5 == 0#5 && w.extractLsb' 9 1 == 0#1 && maskWordOk w)
  | 7 => some (w.extractLsb' 9 1 == 0#1 && maskWordOk w)
  | 8 => some (w.extractLsb' 7 1 == 1#1)
  | 9 => some (w.extractLsb' 15 5 == 0#5 && w.extractLsb' 8 2 == 0#2 && maskWordOk w)
  | 10 => some (w.extractLsb' 8 12 == 0#12 && maskWordOk w)
  | _ => none

/-- Whether the reserved fields are as they must be, for the words of major 0x2C (R107). DEDUCED (log entry 122): the vs1 field of
`mpre` is reserved. -/
def fields2C (w : BitVec 32) : Option Bool :=
  match (w.extractLsb' 0 5).toNat with
  | 0 => some (w.extractLsb' 5 5 == 0#5)
  | 1 => some (w.extractLsb' 5 5 == 0#5)
  | 2 => some (w.extractLsb' 5 5 == 0#5)
  | 3 => some (w.extractLsb' 15 5 == 0#5 && w.extractLsb' 5 5 == 0#5)
  | 4 => some (w.extractLsb' 15 5 == 0#5 && w.extractLsb' 8 2 == 0#2 && maskWordOk w)
  | 5 => some (w.extractLsb' 15 5 == 0#5 && w.extractLsb' 8 2 == 0#2 && maskWordOk w)
  | 6 => some (w.extractLsb' 15 5 == 0#5 && w.extractLsb' 5 5 == 0#5)
  | 7 => some (w.extractLsb' 15 5 == 0#5 && w.extractLsb' 5 5 == 0#5)
  | 8 => some (w.extractLsb' 5 15 == 0#15)
  | 9 => some (w.extractLsb' 5 15 == 0#15)
  | _ => none

/-- Whether the reserved fields are as they must be, for the words of major 0x2D (R107). -/
def fields2D (w : BitVec 32) : Option Bool :=
  match (w.extractLsb' 0 5).toNat with
  | 0 => some (maskWordOk w)
  | 1 => some (maskWordOk w)
  | 2 => some (maskWordOk w)
  | 3 => some (maskWordOk w)
  | 4 => some (maskWordOk w)
  | 5 => some (maskWordOk w)
  | 6 => some (maskWordOk w)
  | 7 => some (maskWordOk w)
  | 8 => some (maskWordOk w)
  | _ => none

/-- Whether the reserved fields are as they must be, for the words of major 0x2E (R107). -/
def fields2E (w : BitVec 32) : Option Bool :=
  match (w.extractLsb' 0 5).toNat with
  | 0 => some (w.extractLsb' 9 1 == 0#1 && maskWordOk w)
  | 1 => some (w.extractLsb' 9 1 == 0#1 && maskWordOk w)
  | 2 => some (w.extractLsb' 9 1 == 0#1 && maskWordOk w)
  | 3 => some (w.extractLsb' 9 1 == 0#1 && maskWordOk w)
  | 4 => some (w.extractLsb' 9 1 == 0#1 && maskWordOk w)
  | 5 => some (w.extractLsb' 9 1 == 0#1 && maskWordOk w)
  | 6 => some (w.extractLsb' 9 1 == 0#1 && maskWordOk w)
  | 7 => some (w.extractLsb' 9 1 == 0#1 && maskWordOk w)
  | 8 => some (w.extractLsb' 9 1 == 0#1 && maskWordOk w)
  | _ => none

/-- Whether the reserved fields are as they must be, for the words of major 0x2F (R107). -/
def fields2F (w : BitVec 32) : Option Bool :=
  match (w.extractLsb' 0 5).toNat with
  | 0 => some (w.extractLsb' 15 5 == 0#5 && w.extractLsb' 9 1 == 0#1 && maskWordOk w)
  | 1 => some (w.extractLsb' 15 5 == 0#5 && w.extractLsb' 9 1 == 0#1 && w.extractLsb' 5 3 == 0#3)
  | 2 => some (w.extractLsb' 5 10 == 0#10)
  | 3 => some (w.extractLsb' 8 7 == 0#7 && maskWordOk w)
  | 4 => some (w.extractLsb' 18 2 == 0#2 && w.extractLsb' 5 10 == 0#10)
  | 5 => some (w.extractLsb' 17 8 == 0#8 && w.extractLsb' 9 1 == 0#1 && w.extractLsb' 5 3 == 0#3)
  | 6 => some (w.extractLsb' 5 15 == 0#15)
  | 7 => some (w.extractLsb' 15 10 == 0#10 && w.extractLsb' 9 1 == 0#1 && w.extractLsb' 5 3 == 0#3)
  | _ => none

/-- Whether the reserved fields are as they must be, for the words of major 0x30 (R107). -/
def fields30 (w : BitVec 32) : Option Bool :=
  match (w.extractLsb' 0 5).toNat with
  | 0 => some (maskWordOk w)
  | 1 => some (maskWordOk w)
  | 2 => some (w.extractLsb' 15 5 == 0#5 && w.extractLsb' 9 1 == 0#1 && maskWordOk w)
  | 3 => some (w.extractLsb' 15 5 == 0#5 && w.extractLsb' 9 1 == 0#1 && maskWordOk w)
  | _ => none

/-- Whether the reserved fields are as they must be, for the words of major 0x31 (R107). -/
def fields31 (w : BitVec 32) : Option Bool :=
  match (w.extractLsb' 0 5).toNat with
  | 0 => some (maskWordOk w && tcrossOk (w.extractLsb' 17 5) (w.extractLsb' 12 5) (w.extractLsb' 10 2) (w.getLsbD 9) (w.getLsbD 8))
  | 1 => some (maskWordOk w && tcrossOk (w.extractLsb' 17 5) (w.extractLsb' 12 5) (w.extractLsb' 10 2) (w.getLsbD 9) (w.getLsbD 8))
  | 2 => some (maskWordOk w && tcrossOk (w.extractLsb' 17 5) (w.extractLsb' 12 5) (w.extractLsb' 10 2) (w.getLsbD 9) (w.getLsbD 8))
  | 3 => some (w.extractLsb' 10 2 == 0#2 && maskWordOk w)
  | _ => none

/-- Whether the reserved fields are as they must be, for the words of major 0x32 (R107). -/
def fields32 (w : BitVec 32) : Option Bool :=
  match (w.extractLsb' 0 5).toNat with
  | 0 => some (w.extractLsb' 5 17 == 0#17)
  | 1 => some (w.extractLsb' 9 3 == 0#3 && maskWordOk w)
  | 2 => some (w.extractLsb' 9 3 == 0#3 && maskWordOk w)
  | 3 => some (w.extractLsb' 8 4 == 0#4 && maskWordOk w)
  | 4 => some (w.extractLsb' 8 4 == 0#4 && maskWordOk w)
  | _ => none

/-- Whether the reserved fields are as they must be, for the words of major 0x33 (R107). -/
def fields33 (w : BitVec 32) : Option Bool :=
  match (w.extractLsb' 0 5).toNat with
  | 0 => some (w.extractLsb' 5 12 == 0#12)
  | 1 => some (w.extractLsb' 5 12 == 0#12)
  | 2 => some (w.extractLsb' 5 12 == 0#12)
  | _ => none

/-- Whether a word's reserved fields are as R109 asks; `none` where R107 assigns nothing to its major and function number, or its LOOP
level or CSR number is none. The convoy bit of a VC word and the queue number of `bpush` are left to later checks. -/
def fields (w : BitVec 32) : Option Bool :=
  match (w.extractLsb' 26 6).toNat with
  | 0x01 => fields01 w
  | 0x02 => some true
  | 0x03 => some true
  | 0x04 => some true
  | 0x05 => some true
  | 0x06 => some true
  | 0x07 => some true
  | 0x08 => some true
  | 0x09 => some true
  | 0x0A => fields0A w
  | 0x0B => fields0B w
  | 0x0C => fields0C w
  | 0x0D => fields0D w
  | 0x0E => some true
  | 0x0F => some true
  | 0x10 => some true
  | 0x11 => some true
  | 0x12 => some true
  | 0x13 => some true
  | 0x14 => some true
  | 0x15 => some true
  | 0x16 => fields16 w
  | 0x17 => fields17 w
  | 0x18 => fields18 w
  | 0x19 => fields19 w
  | 0x1A => fields1A w
  | 0x1B => fields1B w
  | 0x1C => fields1C w
  | 0x1D => fields1D w
  | 0x20 => fields20 w
  | 0x21 => fields21 w
  | 0x22 => fields22 w
  | 0x23 => fields23 w
  | 0x24 => fields24 w
  | 0x25 => fields25 w
  | 0x26 => fields26 w
  | 0x27 => fields27 w
  | 0x28 => fields28 w
  | 0x29 => fields29 w
  | 0x2A => fields2A w
  | 0x2B => fields2B w
  | 0x2C => fields2C w
  | 0x2D => fields2D w
  | 0x2E => fields2E w
  | 0x2F => fields2F w
  | 0x30 => fields30 w
  | 0x31 => fields31 w
  | 0x32 => fields32 w
  | 0x33 => fields33 w
  | _ => none

/-- The instruction of major 0x01 (R107). -/
noncomputable def pick01 (w : BitVec 32) : Option Instr :=
  match (w.extractLsb' 5 6).toNat with
  | 0 => some (.add (w.extractLsb' 21 5) (w.extractLsb' 16 5) (w.extractLsb' 11 5))
  | 1 => some (.sub (w.extractLsb' 21 5) (w.extractLsb' 16 5) (w.extractLsb' 11 5))
  | 2 => some (.and (w.extractLsb' 21 5) (w.extractLsb' 16 5) (w.extractLsb' 11 5))
  | 3 => some (.or (w.extractLsb' 21 5) (w.extractLsb' 16 5) (w.extractLsb' 11 5))
  | 4 => some (.xor (w.extractLsb' 21 5) (w.extractLsb' 16 5) (w.extractLsb' 11 5))
  | 5 => some (.andn (w.extractLsb' 21 5) (w.extractLsb' 16 5) (w.extractLsb' 11 5))
  | 6 => some (.sll (w.extractLsb' 21 5) (w.extractLsb' 16 5) (w.extractLsb' 11 5))
  | 7 => some (.srl (w.extractLsb' 21 5) (w.extractLsb' 16 5) (w.extractLsb' 11 5))
  | 8 => some (.sra (w.extractLsb' 21 5) (w.extractLsb' 16 5) (w.extractLsb' 11 5))
  | 9 => some (.rol (w.extractLsb' 21 5) (w.extractLsb' 16 5) (w.extractLsb' 11 5))
  | 10 => some (.ror (w.extractLsb' 21 5) (w.extractLsb' 16 5) (w.extractLsb' 11 5))
  | 11 => some (.slt (w.extractLsb' 21 5) (w.extractLsb' 16 5) (w.extractLsb' 11 5))
  | 12 => some (.sltn (w.extractLsb' 21 5) (w.extractLsb' 16 5) (w.extractLsb' 11 5))
  | 13 => some (.min (w.extractLsb' 21 5) (w.extractLsb' 16 5) (w.extractLsb' 11 5))
  | 14 => some (.max (w.extractLsb' 21 5) (w.extractLsb' 16 5) (w.extractLsb' 11 5))
  | 15 => some (.minn (w.extractLsb' 21 5) (w.extractLsb' 16 5) (w.extractLsb' 11 5))
  | 16 => some (.maxn (w.extractLsb' 21 5) (w.extractLsb' 16 5) (w.extractLsb' 11 5))
  | 17 => some (.mul (w.extractLsb' 21 5) (w.extractLsb' 16 5) (w.extractLsb' 11 5))
  | 18 => some (.mulh (w.extractLsb' 21 5) (w.extractLsb' 16 5) (w.extractLsb' 11 5))
  | 19 => some (.mulhn (w.extractLsb' 21 5) (w.extractLsb' 16 5) (w.extractLsb' 11 5))
  | 20 => some (.div (w.extractLsb' 21 5) (w.extractLsb' 16 5) (w.extractLsb' 11 5))
  | 21 => some (.divn (w.extractLsb' 21 5) (w.extractLsb' 16 5) (w.extractLsb' 11 5))
  | 22 => some (.rem (w.extractLsb' 21 5) (w.extractLsb' 16 5) (w.extractLsb' 11 5))
  | 23 => some (.remn (w.extractLsb' 21 5) (w.extractLsb' 16 5) (w.extractLsb' 11 5))
  | 24 => some (.clz (w.extractLsb' 21 5) (w.extractLsb' 16 5))
  | 25 => some (.ctz (w.extractLsb' 21 5) (w.extractLsb' 16 5))
  | 26 => some (.popc (w.extractLsb' 21 5) (w.extractLsb' 16 5))
  | 27 => some (.sextB (w.extractLsb' 21 5) (w.extractLsb' 16 5))
  | 28 => some (.sextH (w.extractLsb' 21 5) (w.extractLsb' 16 5))
  | 29 => some (.sextW (w.extractLsb' 21 5) (w.extractLsb' 16 5))
  | 30 => some (.zextW (w.extractLsb' 21 5) (w.extractLsb' 16 5))
  | 31 => some (.slli (w.extractLsb' 21 5) (w.extractLsb' 16 5) (w.extractLsb' 0 1 ++ w.extractLsb' 11 5))
  | 32 => some (.srli (w.extractLsb' 21 5) (w.extractLsb' 16 5) (w.extractLsb' 0 1 ++ w.extractLsb' 11 5))
  | 33 => some (.srai (w.extractLsb' 21 5) (w.extractLsb' 16 5) (w.extractLsb' 0 1 ++ w.extractLsb' 11 5))
  | _ => none

/-- The instruction of major 0x0A (R107). -/
noncomputable def pick0A (w : BitVec 32) : Option Instr :=
  match (w.extractLsb' 13 3).toNat with
  | 0 => some (.ldb (w.extractLsb' 21 5) (w.extractLsb' 16 5) (w.extractLsb' 0 13))
  | 1 => some (.ldbn (w.extractLsb' 21 5) (w.extractLsb' 16 5) (w.extractLsb' 0 13))
  | 2 => some (.ldh (w.extractLsb' 21 5) (w.extractLsb' 16 5) (w.extractLsb' 0 13))
  | 3 => some (.ldhn (w.extractLsb' 21 5) (w.extractLsb' 16 5) (w.extractLsb' 0 13))
  | 4 => some (.ldw (w.extractLsb' 21 5) (w.extractLsb' 16 5) (w.extractLsb' 0 13))
  | 5 => some (.ldwn (w.extractLsb' 21 5) (w.extractLsb' 16 5) (w.extractLsb' 0 13))
  | 6 => some (.ldd (w.extractLsb' 21 5) (w.extractLsb' 16 5) (w.extractLsb' 0 13))
  | _ => none

/-- The instruction of major 0x0B (R107). -/
noncomputable def pick0B (w : BitVec 32) : Option Instr :=
  match (w.extractLsb' 13 3).toNat with
  | 0 => some (.stb (w.extractLsb' 21 5) (w.extractLsb' 16 5) (w.extractLsb' 0 13))
  | 1 => some (.sth (w.extractLsb' 21 5) (w.extractLsb' 16 5) (w.extractLsb' 0 13))
  | 2 => some (.stw (w.extractLsb' 21 5) (w.extractLsb' 16 5) (w.extractLsb' 0 13))
  | 3 => some (.std (w.extractLsb' 21 5) (w.extractLsb' 16 5) (w.extractLsb' 0 13))
  | _ => none

/-- The instruction of major 0x0C (R107). -/
noncomputable def pick0C (w : BitVec 32) : Option Instr :=
  match (w.extractLsb' 5 6).toNat with
  | 0 => some (.amoAdd (w.extractLsb' 21 5) (w.extractLsb' 16 5) (w.extractLsb' 11 5) (w.extractLsb' 3 2) (w.extractLsb' 1 2) (w.getLsbD 0))
  | 1 => some (.amoAnd (w.extractLsb' 21 5) (w.extractLsb' 16 5) (w.extractLsb' 11 5) (w.extractLsb' 3 2) (w.extractLsb' 1 2) (w.getLsbD 0))
  | 2 => some (.amoOr (w.extractLsb' 21 5) (w.extractLsb' 16 5) (w.extractLsb' 11 5) (w.extractLsb' 3 2) (w.extractLsb' 1 2) (w.getLsbD 0))
  | 3 => some (.amoXor (w.extractLsb' 21 5) (w.extractLsb' 16 5) (w.extractLsb' 11 5) (w.extractLsb' 3 2) (w.extractLsb' 1 2) (w.getLsbD 0))
  | 4 => some (.amoMin (w.extractLsb' 21 5) (w.extractLsb' 16 5) (w.extractLsb' 11 5) (w.extractLsb' 3 2) (w.extractLsb' 1 2) (w.getLsbD 0))
  | 5 => some (.amoMax (w.extractLsb' 21 5) (w.extractLsb' 16 5) (w.extractLsb' 11 5) (w.extractLsb' 3 2) (w.extractLsb' 1 2) (w.getLsbD 0))
  | 6 => some (.amoMinn (w.extractLsb' 21 5) (w.extractLsb' 16 5) (w.extractLsb' 11 5) (w.extractLsb' 3 2) (w.extractLsb' 1 2) (w.getLsbD 0))
  | 7 => some (.amoMaxn (w.extractLsb' 21 5) (w.extractLsb' 16 5) (w.extractLsb' 11 5) (w.extractLsb' 3 2) (w.extractLsb' 1 2) (w.getLsbD 0))
  | 8 => some (.amoSwap (w.extractLsb' 21 5) (w.extractLsb' 16 5) (w.extractLsb' 11 5) (w.extractLsb' 3 2) (w.extractLsb' 1 2) (w.getLsbD 0))
  | 9 => some (.amoCas (w.extractLsb' 21 5) (w.extractLsb' 16 5) (w.extractLsb' 11 5) (w.extractLsb' 3 2) (w.extractLsb' 1 2) (w.getLsbD 0))
  | 10 => some (.ldAcq (w.extractLsb' 21 5) (w.extractLsb' 16 5) (w.extractLsb' 1 2) (w.getLsbD 0))
  | 11 => some (.stRel (w.extractLsb' 16 5) (w.extractLsb' 11 5) (w.extractLsb' 1 2) (w.getLsbD 0))
  | _ => none

/-- The instruction of major 0x0D (R107). -/
noncomputable def pick0D (w : BitVec 32) : Option Instr :=
  match (w.extractLsb' 5 6).toNat with
  | 0 => some (.fadd (w.extractLsb' 21 5) (w.extractLsb' 16 5) (w.extractLsb' 11 5))
  | 1 => some (.fsub (w.extractLsb' 21 5) (w.extractLsb' 16 5) (w.extractLsb' 11 5))
  | 2 => some (.fmul (w.extractLsb' 21 5) (w.extractLsb' 16 5) (w.extractLsb' 11 5))
  | 3 => some (.fdiv (w.extractLsb' 21 5) (w.extractLsb' 16 5) (w.extractLsb' 11 5))
  | 4 => some (.fsqrt (w.extractLsb' 21 5) (w.extractLsb' 16 5))
  | 5 => some (.fmin (w.extractLsb' 21 5) (w.extractLsb' 16 5) (w.extractLsb' 11 5))
  | 6 => some (.fmax (w.extractLsb' 21 5) (w.extractLsb' 16 5) (w.extractLsb' 11 5))
  | 7 => some (.fmac (w.extractLsb' 21 5) (w.extractLsb' 16 5) (w.extractLsb' 11 5))
  | 8 => some (.fcvtfi (w.extractLsb' 21 5) (w.extractLsb' 16 5))
  | 9 => some (.fcvtif (w.extractLsb' 21 5) (w.extractLsb' 16 5))
  | 10 => some (.feq (w.extractLsb' 21 5) (w.extractLsb' 16 5) (w.extractLsb' 11 5))
  | 11 => some (.flt (w.extractLsb' 21 5) (w.extractLsb' 16 5) (w.extractLsb' 11 5))
  | 12 => some (.fle (w.extractLsb' 21 5) (w.extractLsb' 16 5) (w.extractLsb' 11 5))
  | 13 => some (.fkind (w.extractLsb' 21 5) (w.extractLsb' 16 5))
  | 14 => some (.fcvtbf (w.extractLsb' 21 5) (w.extractLsb' 16 5))
  | 15 => some (.fmvbf (w.extractLsb' 21 5) (w.extractLsb' 16 5))
  | _ => none

/-- The instruction of major 0x16 (R107). -/
noncomputable def pick16 (w : BitVec 32) : Option Instr :=
  match (w.extractLsb' 24 2).toNat with
  | 0 => some (.loopSet (w.extractLsb' 21 3))
  | 1 => some (.loopEnd (w.extractLsb' 21 3) (w.extractLsb' 0 16))
  | 2 => some (.loopIdx (w.extractLsb' 21 3) (w.extractLsb' 16 5))
  | 3 => some (.loopBrk (w.extractLsb' 21 3) (w.extractLsb' 0 16))
  | _ => none

/-- The instruction of major 0x17 (R107). -/
noncomputable def pick17 (w : BitVec 32) : Option Instr :=
  match (w.extractLsb' 5 6).toNat with
  | 0 => some (.qpush (w.extractLsb' 16 5) (w.extractLsb' 11 5))
  | 1 => some (.qpop (w.extractLsb' 21 5) (w.extractLsb' 11 5))
  | 2 => some (.qpeek (w.extractLsb' 21 5) (w.extractLsb' 11 5))
  | 3 => some (.qtest (w.extractLsb' 21 5) (w.extractLsb' 11 5))
  | 4 => some (.qclose (w.extractLsb' 11 5))
  | 5 => some (.bpush (w.extractLsb' 16 5))
  | 6 => some (.qbr (w.extractLsb' 11 15 ++ w.extractLsb' 0 5))
  | 7 => some (.sprd (w.extractLsb' 21 5) (w.extractLsb' 16 5) (w.extractLsb' 11 5))
  | 8 => some (.spwr (w.extractLsb' 21 5) (w.extractLsb' 16 5) (w.extractLsb' 11 5))
  | 9 => some (.qflush (w.extractLsb' 11 5))
  | 10 => some (.qdepth (w.extractLsb' 21 5) (w.extractLsb' 11 5))
  | _ => none

/-- The instruction of major 0x18 (R107). -/
noncomputable def pick18 (w : BitVec 32) : Option Instr :=
  match (w.extractLsb' 14 2).toNat with
  | 0 => some (.csrr (w.extractLsb' 21 5) (w.extractLsb' 0 12))
  | 1 => some (.csrw (w.extractLsb' 21 5) (w.extractLsb' 16 5) (w.extractLsb' 0 12))
  | 2 => some (.csrs (w.extractLsb' 21 5) (w.extractLsb' 16 5) (w.extractLsb' 0 12))
  | 3 => some (.csrc (w.extractLsb' 21 5) (w.extractLsb' 16 5) (w.extractLsb' 0 12))
  | _ => none

/-- The instruction of major 0x19 (R107). -/
noncomputable def pick19 (w : BitVec 32) : Option Instr :=
  match (w.extractLsb' 5 6).toNat with
  | 0 => some (.fenceAv (w.extractLsb' 1 2))
  | 1 => some (.fenceVa (w.extractLsb' 1 2))
  | 2 => some (.fenceVV (w.extractLsb' 1 2))
  | 3 => some (.fenceAll (w.extractLsb' 1 2))
  | 4 => some (.barArv (w.extractLsb' 11 5) (w.extractLsb' 1 2))
  | 5 => some (.barWt (w.extractLsb' 11 5) (w.extractLsb' 1 2))
  | 6 => some (.barSync (w.extractLsb' 11 5) (w.extractLsb' 1 2))
  | 7 => some (.yield)
  | 8 => some (.wfe)
  | 9 => some (.sev (w.extractLsb' 16 5) (w.extractLsb' 1 2))
  | _ => none

/-- The instruction of major 0x1A (R107). -/
noncomputable def pick1A (w : BitVec 32) : Option Instr :=
  match (w.extractLsb' 5 6).toNat with
  | 0 => some (.trap (w.extractLsb' 16 5))
  | 1 => some (.svc (w.extractLsb' 16 5))
  | 2 => some (.tret)
  | 3 => some (.halt)
  | 4 => some (.dbrk)
  | 5 => some (.tlbi (w.extractLsb' 16 5) (w.extractLsb' 11 5))
  | 6 => some (.vsave (w.extractLsb' 16 5) (w.extractLsb' 11 5))
  | 7 => some (.vrest (w.extractLsb' 16 5) (w.extractLsb' 11 5))
  | 8 => some (.wfi)
  | _ => none

/-- The instruction of major 0x1B (R107). -/
noncomputable def pick1B (w : BitVec 32) : Option Instr :=
  match (w.extractLsb' 5 6).toNat with
  | 0 => some (.cpy (w.extractLsb' 21 5) (w.extractLsb' 16 5) (w.extractLsb' 3 2) (w.getLsbD 1) (w.getLsbD 0))
  | 1 => some (.cpyq (w.extractLsb' 21 5) (w.extractLsb' 16 5) (w.extractLsb' 3 2))
  | 2 => some (.cpys (w.extractLsb' 21 5) (w.extractLsb' 16 5) (w.extractLsb' 3 2))
  | 3 => some (.gath (w.extractLsb' 21 5) (w.extractLsb' 16 5) (w.extractLsb' 3 2) (w.getLsbD 1) (w.getLsbD 0))
  | 4 => some (.scad (w.extractLsb' 21 5) (w.extractLsb' 16 5) (w.extractLsb' 3 2) (w.getLsbD 1) (w.getLsbD 0))
  | 5 => some (.coll (w.extractLsb' 21 5) (w.extractLsb' 16 5) (w.extractLsb' 3 2))
  | 6 => some (.pub (w.extractLsb' 21 5) (w.extractLsb' 16 5) (w.extractLsb' 3 2))
  | 7 => some (.tokw (w.extractLsb' 21 5) (w.extractLsb' 16 5))
  | 8 => some (.toks (w.extractLsb' 21 5) (w.extractLsb' 16 5))
  | 9 => some (.mig (w.extractLsb' 21 5) (w.extractLsb' 16 5))
  | _ => none

/-- The instruction of major 0x1C (R107). -/
noncomputable def pick1C (w : BitVec 32) : Option Instr :=
  match (w.extractLsb' 5 6).toNat with
  | 0 => some (.kvfork (w.extractLsb' 21 5) (w.extractLsb' 16 5) (w.extractLsb' 11 5) (w.extractLsb' 3 2))
  | 1 => some (.kvapp (w.extractLsb' 21 5) (w.extractLsb' 16 5) (w.extractLsb' 11 5) (w.extractLsb' 3 2))
  | 2 => some (.kvtag (w.extractLsb' 21 5) (w.extractLsb' 16 5) (w.extractLsb' 11 5) (w.extractLsb' 3 2))
  | 3 => some (.kvret (w.extractLsb' 21 5) (w.extractLsb' 16 5) (w.extractLsb' 11 5) (w.extractLsb' 3 2))
  | 4 => some (.kvres (w.extractLsb' 21 5) (w.extractLsb' 16 5) (w.extractLsb' 11 5) (w.extractLsb' 3 2))
  | 5 => some (.kvpin (w.extractLsb' 21 5) (w.extractLsb' 16 5) (w.extractLsb' 11 5) (w.extractLsb' 3 2) (w.getLsbD 2) (w.getLsbD 1) (w.getLsbD 0))
  | 6 => some (.kvlook (w.extractLsb' 21 5) (w.extractLsb' 16 5) (w.extractLsb' 11 5) (w.extractLsb' 3 2))
  | _ => none

/-- The instruction of major 0x1D (R107). -/
noncomputable def pick1D (w : BitVec 32) : Option Instr :=
  match (w.extractLsb' 5 6).toNat with
  | 0 => some (.rvchain (w.extractLsb' 16 5))
  | 1 => some (.rvret)
  | 2 => some (.rvq (w.extractLsb' 21 5))
  | 3 => some (.rvabort (w.extractLsb' 11 5))
  | _ => none

/-- The instruction of major 0x20 (R107). -/
noncomputable def pick20 (w : BitVec 32) : Option Instr :=
  match (w.extractLsb' 0 5).toNat with
  | 0 => some (.vcfg (w.extractLsb' 20 5) (w.extractLsb' 15 5) (w.extractLsb' 10 5))
  | 1 => some (.vcfgi (w.extractLsb' 20 5) (w.extractLsb' 15 5) (w.extractLsb' 5 10))
  | 2 => some (.vreconf (w.extractLsb' 10 2))
  | _ => none

/-- The instruction of major 0x21 (R107). -/
noncomputable def pick21 (w : BitVec 32) : Option Instr :=
  match (w.extractLsb' 0 5).toNat with
  | 0 => some (.vle (w.getLsbD 25) (w.extractLsb' 20 5) (w.extractLsb' 15 5) (maskOf w))
  | 1 => some (.vlse (w.getLsbD 25) (w.extractLsb' 20 5) (w.extractLsb' 15 5) (w.extractLsb' 10 5) (maskOf w))
  | 2 => some (.vlseg (w.getLsbD 25) (w.extractLsb' 20 5) (w.extractLsb' 15 5) (w.extractLsb' 10 3) (maskOf w))
  | 3 => some (.vlx (w.getLsbD 25) (w.extractLsb' 20 5) (w.extractLsb' 15 5) (w.extractLsb' 10 5) (maskOf w))
  | 4 => some (.vlb (w.getLsbD 25) (w.extractLsb' 20 5) (w.extractLsb' 15 5) (w.extractLsb' 10 5) (maskOf w))
  | 5 => some (.vlkv (w.getLsbD 25) (w.extractLsb' 20 5) (w.extractLsb' 15 5) (w.extractLsb' 10 5))
  | 6 => some (.vlsc (w.getLsbD 25) (w.extractLsb' 20 5) (w.extractLsb' 15 5))
  | _ => none

/-- The instruction of major 0x22 (R107). -/
noncomputable def pick22 (w : BitVec 32) : Option Instr :=
  match (w.extractLsb' 0 5).toNat with
  | 0 => some (.vse (w.getLsbD 25) (w.extractLsb' 20 5) (w.extractLsb' 15 5) (w.getLsbD 9) (maskOf w))
  | 1 => some (.vsse (w.getLsbD 25) (w.extractLsb' 20 5) (w.extractLsb' 15 5) (w.extractLsb' 10 5) (w.getLsbD 9) (maskOf w))
  | 2 => some (.vsseg (w.getLsbD 25) (w.extractLsb' 20 5) (w.extractLsb' 15 5) (w.extractLsb' 10 3) (w.getLsbD 9) (maskOf w))
  | 3 => some (.vsx (w.getLsbD 25) (w.extractLsb' 20 5) (w.extractLsb' 15 5) (w.extractLsb' 10 5) (w.getLsbD 9) (maskOf w))
  | 4 => some (.vsxo (w.getLsbD 25) (w.extractLsb' 20 5) (w.extractLsb' 15 5) (w.extractLsb' 10 5) (w.getLsbD 9) (maskOf w))
  | 5 => some (.vsb (w.getLsbD 25) (w.extractLsb' 20 5) (w.extractLsb' 15 5) (w.extractLsb' 10 5) (w.getLsbD 9) (maskOf w))
  | 6 => some (.vssc (w.getLsbD 25) (w.extractLsb' 20 5) (w.extractLsb' 15 5))
  | _ => none

/-- The instruction of major 0x23 (R107). -/
noncomputable def pick23 (w : BitVec 32) : Option Instr :=
  match (w.extractLsb' 0 5).toNat with
  | 0 => some (.vlld (w.getLsbD 25) (w.extractLsb' 20 5) (w.extractLsb' 15 5) (w.extractLsb' 10 5) (maskOf w))
  | 1 => some (.vlst (w.getLsbD 25) (w.extractLsb' 20 5) (w.extractLsb' 15 5) (w.extractLsb' 10 5) (w.getLsbD 9) (maskOf w))
  | 2 => some (.vlla (w.getLsbD 25) (w.extractLsb' 20 5) (w.extractLsb' 15 5) (w.extractLsb' 10 5) (maskOf w))
  | _ => none

/-- The instruction of major 0x24 (R107). -/
noncomputable def pick24 (w : BitVec 32) : Option Instr :=
  match (w.extractLsb' 0 5).toNat with
  | 0 => some (.vaddVV (w.getLsbD 25) (w.extractLsb' 20 5) (w.extractLsb' 15 5) (w.extractLsb' 10 5) (w.getLsbD 9) (w.getLsbD 8) (maskOf w))
  | 1 => some (.vsubVV (w.getLsbD 25) (w.extractLsb' 20 5) (w.extractLsb' 15 5) (w.extractLsb' 10 5) (w.getLsbD 9) (w.getLsbD 8) (maskOf w))
  | 2 => some (.vmulVV (w.getLsbD 25) (w.extractLsb' 20 5) (w.extractLsb' 15 5) (w.extractLsb' 10 5) (w.getLsbD 9) (w.getLsbD 8) (maskOf w))
  | 3 => some (.vmulh (w.getLsbD 25) (w.extractLsb' 20 5) (w.extractLsb' 15 5) (w.extractLsb' 10 5) (w.getLsbD 9) (w.getLsbD 8) (maskOf w))
  | 4 => some (.vmulhn (w.getLsbD 25) (w.extractLsb' 20 5) (w.extractLsb' 15 5) (w.extractLsb' 10 5) (w.getLsbD 9) (w.getLsbD 8) (maskOf w))
  | 5 => some (.vdiv (w.getLsbD 25) (w.extractLsb' 20 5) (w.extractLsb' 15 5) (w.extractLsb' 10 5) (w.getLsbD 9) (w.getLsbD 8) (maskOf w))
  | 6 => some (.vdivn (w.getLsbD 25) (w.extractLsb' 20 5) (w.extractLsb' 15 5) (w.extractLsb' 10 5) (w.getLsbD 9) (w.getLsbD 8) (maskOf w))
  | 7 => some (.vrem (w.getLsbD 25) (w.extractLsb' 20 5) (w.extractLsb' 15 5) (w.extractLsb' 10 5) (w.getLsbD 9) (w.getLsbD 8) (maskOf w))
  | 8 => some (.vremn (w.getLsbD 25) (w.extractLsb' 20 5) (w.extractLsb' 15 5) (w.extractLsb' 10 5) (w.getLsbD 9) (w.getLsbD 8) (maskOf w))
  | 9 => some (.vandVV (w.getLsbD 25) (w.extractLsb' 20 5) (w.extractLsb' 15 5) (w.extractLsb' 10 5) (w.getLsbD 9) (w.getLsbD 8) (maskOf w))
  | 10 => some (.vorVV (w.getLsbD 25) (w.extractLsb' 20 5) (w.extractLsb' 15 5) (w.extractLsb' 10 5) (w.getLsbD 9) (w.getLsbD 8) (maskOf w))
  | 11 => some (.vxorVV (w.getLsbD 25) (w.extractLsb' 20 5) (w.extractLsb' 15 5) (w.extractLsb' 10 5) (w.getLsbD 9) (w.getLsbD 8) (maskOf w))
  | 12 => some (.vsllVV (w.getLsbD 25) (w.extractLsb' 20 5) (w.extractLsb' 15 5) (w.extractLsb' 10 5) (w.getLsbD 9) (w.getLsbD 8) (maskOf w))
  | 13 => some (.vsrlVV (w.getLsbD 25) (w.extractLsb' 20 5) (w.extractLsb' 15 5) (w.extractLsb' 10 5) (w.getLsbD 9) (w.getLsbD 8) (maskOf w))
  | 14 => some (.vsraVV (w.getLsbD 25) (w.extractLsb' 20 5) (w.extractLsb' 15 5) (w.extractLsb' 10 5) (w.getLsbD 9) (w.getLsbD 8) (maskOf w))
  | 15 => some (.vminVV (w.getLsbD 25) (w.extractLsb' 20 5) (w.extractLsb' 15 5) (w.extractLsb' 10 5) (w.getLsbD 9) (w.getLsbD 8) (maskOf w))
  | 16 => some (.vmaxVV (w.getLsbD 25) (w.extractLsb' 20 5) (w.extractLsb' 15 5) (w.extractLsb' 10 5) (w.getLsbD 9) (w.getLsbD 8) (maskOf w))
  | 17 => some (.vminn (w.getLsbD 25) (w.extractLsb' 20 5) (w.extractLsb' 15 5) (w.extractLsb' 10 5) (w.getLsbD 9) (w.getLsbD 8) (maskOf w))
  | 18 => some (.vmaxn (w.getLsbD 25) (w.extractLsb' 20 5) (w.extractLsb' 15 5) (w.extractLsb' 10 5) (w.getLsbD 9) (w.getLsbD 8) (maskOf w))
  | 19 => some (.vmaccVV (w.getLsbD 25) (w.extractLsb' 20 5) (w.extractLsb' 15 5) (w.extractLsb' 10 5) (w.getLsbD 9) (w.getLsbD 8) (maskOf w))
  | 20 => some (.vwadd (w.getLsbD 25) (w.extractLsb' 20 5) (w.extractLsb' 15 5) (w.extractLsb' 10 5) (w.getLsbD 9) (w.getLsbD 8) (maskOf w))
  | 21 => some (.vwmul (w.getLsbD 25) (w.extractLsb' 20 5) (w.extractLsb' 15 5) (w.extractLsb' 10 5) (w.getLsbD 9) (w.getLsbD 8) (maskOf w))
  | 22 => some (.vwmacc (w.getLsbD 25) (w.extractLsb' 20 5) (w.extractLsb' 15 5) (w.extractLsb' 10 5) (w.getLsbD 9) (w.getLsbD 8) (maskOf w))
  | 23 => some (.vnsra (w.getLsbD 25) (w.extractLsb' 20 5) (w.extractLsb' 15 5) (w.extractLsb' 10 5) (w.getLsbD 9) (w.getLsbD 8) (maskOf w))
  | 24 => some (.vsadd (w.getLsbD 25) (w.extractLsb' 20 5) (w.extractLsb' 15 5) (w.extractLsb' 10 5) (w.getLsbD 9) (w.getLsbD 8) (maskOf w))
  | 25 => some (.vssub (w.getLsbD 25) (w.extractLsb' 20 5) (w.extractLsb' 15 5) (w.extractLsb' 10 5) (w.getLsbD 9) (w.getLsbD 8) (maskOf w))
  | _ => none

/-- The instruction of major 0x25 (R107). -/
noncomputable def pick25 (w : BitVec 32) : Option Instr :=
  match (w.extractLsb' 0 5).toNat with
  | 0 => some (.vaddVX (w.getLsbD 25) (w.extractLsb' 20 5) (w.extractLsb' 15 5) (w.extractLsb' 10 5) (w.getLsbD 8) (maskOf w))
  | 1 => some (.vsubVX (w.getLsbD 25) (w.extractLsb' 20 5) (w.extractLsb' 15 5) (w.extractLsb' 10 5) (w.getLsbD 8) (maskOf w))
  | 2 => some (.vmulVX (w.getLsbD 25) (w.extractLsb' 20 5) (w.extractLsb' 15 5) (w.extractLsb' 10 5) (w.getLsbD 8) (maskOf w))
  | 3 => some (.vandVX (w.getLsbD 25) (w.extractLsb' 20 5) (w.extractLsb' 15 5) (w.extractLsb' 10 5) (w.getLsbD 8) (maskOf w))
  | 4 => some (.vorVX (w.getLsbD 25) (w.extractLsb' 20 5) (w.extractLsb' 15 5) (w.extractLsb' 10 5) (w.getLsbD 8) (maskOf w))
  | 5 => some (.vxorVX (w.getLsbD 25) (w.extractLsb' 20 5) (w.extractLsb' 15 5) (w.extractLsb' 10 5) (w.getLsbD 8) (maskOf w))
  | 6 => some (.vsllVX (w.getLsbD 25) (w.extractLsb' 20 5) (w.extractLsb' 15 5) (w.extractLsb' 10 5) (w.getLsbD 8) (maskOf w))
  | 7 => some (.vsrlVX (w.getLsbD 25) (w.extractLsb' 20 5) (w.extractLsb' 15 5) (w.extractLsb' 10 5) (w.getLsbD 8) (maskOf w))
  | 8 => some (.vsraVX (w.getLsbD 25) (w.extractLsb' 20 5) (w.extractLsb' 15 5) (w.extractLsb' 10 5) (w.getLsbD 8) (maskOf w))
  | 9 => some (.vminVX (w.getLsbD 25) (w.extractLsb' 20 5) (w.extractLsb' 15 5) (w.extractLsb' 10 5) (w.getLsbD 8) (maskOf w))
  | 10 => some (.vmaxVX (w.getLsbD 25) (w.extractLsb' 20 5) (w.extractLsb' 15 5) (w.extractLsb' 10 5) (w.getLsbD 8) (maskOf w))
  | 11 => some (.vmaccVX (w.getLsbD 25) (w.extractLsb' 20 5) (w.extractLsb' 15 5) (w.extractLsb' 10 5) (w.getLsbD 8) (maskOf w))
  | _ => none

/-- The instruction of major 0x26 (R107). -/
noncomputable def pick26 (w : BitVec 32) : Option Instr :=
  match (w.extractLsb' 0 5).toNat with
  | 0 => some (.vaddVI (w.getLsbD 25) (w.extractLsb' 20 5) (w.extractLsb' 15 5) (w.extractLsb' 10 5) (w.getLsbD 8) (maskOf w))
  | 1 => some (.vandVI (w.getLsbD 25) (w.extractLsb' 20 5) (w.extractLsb' 15 5) (w.extractLsb' 10 5) (w.getLsbD 8) (maskOf w))
  | 2 => some (.vorVI (w.getLsbD 25) (w.extractLsb' 20 5) (w.extractLsb' 15 5) (w.extractLsb' 10 5) (w.getLsbD 8) (maskOf w))
  | 3 => some (.vxorVI (w.getLsbD 25) (w.extractLsb' 20 5) (w.extractLsb' 15 5) (w.extractLsb' 10 5) (w.getLsbD 8) (maskOf w))
  | 4 => some (.vsllVI (w.getLsbD 25) (w.extractLsb' 20 5) (w.extractLsb' 15 5) (w.extractLsb' 10 5) (w.getLsbD 8) (maskOf w))
  | 5 => some (.vsrlVI (w.getLsbD 25) (w.extractLsb' 20 5) (w.extractLsb' 15 5) (w.extractLsb' 10 5) (w.getLsbD 8) (maskOf w))
  | 6 => some (.vsraVI (w.getLsbD 25) (w.extractLsb' 20 5) (w.extractLsb' 15 5) (w.extractLsb' 10 5) (w.getLsbD 8) (maskOf w))
  | _ => none

/-- The instruction of major 0x27 (R107). -/
noncomputable def pick27 (w : BitVec 32) : Option Instr :=
  match (w.extractLsb' 0 5).toNat with
  | 0 => some (.vfaddVV (w.getLsbD 25) (w.extractLsb' 20 5) (w.extractLsb' 15 5) (w.extractLsb' 10 5) (w.getLsbD 9) (w.getLsbD 8) (maskOf w))
  | 1 => some (.vfsubVV (w.getLsbD 25) (w.extractLsb' 20 5) (w.extractLsb' 15 5) (w.extractLsb' 10 5) (w.getLsbD 9) (w.getLsbD 8) (maskOf w))
  | 2 => some (.vfmulVV (w.getLsbD 25) (w.extractLsb' 20 5) (w.extractLsb' 15 5) (w.extractLsb' 10 5) (w.getLsbD 9) (w.getLsbD 8) (maskOf w))
  | 3 => some (.vfdiv (w.getLsbD 25) (w.extractLsb' 20 5) (w.extractLsb' 15 5) (w.extractLsb' 10 5) (w.getLsbD 9) (w.getLsbD 8) (maskOf w))
  | 4 => some (.vfsqrt (w.getLsbD 25) (w.extractLsb' 20 5) (w.extractLsb' 10 5) (w.getLsbD 8) (maskOf w))
  | 5 => some (.vfminVV (w.getLsbD 25) (w.extractLsb' 20 5) (w.extractLsb' 15 5) (w.extractLsb' 10 5) (w.getLsbD 9) (w.getLsbD 8) (maskOf w))
  | 6 => some (.vfmaxVV (w.getLsbD 25) (w.extractLsb' 20 5) (w.extractLsb' 15 5) (w.extractLsb' 10 5) (w.getLsbD 9) (w.getLsbD 8) (maskOf w))
  | 7 => some (.vfmaccVV (w.getLsbD 25) (w.extractLsb' 20 5) (w.extractLsb' 15 5) (w.extractLsb' 10 5) (w.getLsbD 9) (w.getLsbD 8) (maskOf w))
  | 8 => some (.vfsubm (w.getLsbD 25) (w.extractLsb' 20 5) (w.extractLsb' 15 5) (w.extractLsb' 10 5) (w.getLsbD 9) (w.getLsbD 8) (maskOf w))
  | 9 => some (.vfwadd (w.getLsbD 25) (w.extractLsb' 20 5) (w.extractLsb' 15 5) (w.extractLsb' 10 5) (w.getLsbD 9) (w.getLsbD 8) (maskOf w))
  | 10 => some (.vfwmul (w.getLsbD 25) (w.extractLsb' 20 5) (w.extractLsb' 15 5) (w.extractLsb' 10 5) (w.getLsbD 9) (w.getLsbD 8) (maskOf w))
  | 11 => some (.vfwmacc (w.getLsbD 25) (w.extractLsb' 20 5) (w.extractLsb' 15 5) (w.extractLsb' 10 5) (w.getLsbD 9) (w.getLsbD 8) (maskOf w))
  | 12 => some (.vfexp (w.getLsbD 25) (w.extractLsb' 20 5) (w.extractLsb' 10 5) (w.getLsbD 8) (maskOf w))
  | 13 => some (.vflog (w.getLsbD 25) (w.extractLsb' 20 5) (w.extractLsb' 10 5) (w.getLsbD 8) (maskOf w))
  | 14 => some (.vfrec (w.getLsbD 25) (w.extractLsb' 20 5) (w.extractLsb' 10 5) (w.getLsbD 8) (maskOf w))
  | 15 => some (.vfrsq (w.getLsbD 25) (w.extractLsb' 20 5) (w.extractLsb' 10 5) (w.getLsbD 8) (maskOf w))
  | 16 => some (.vfcsgn (w.getLsbD 25) (w.extractLsb' 20 5) (w.extractLsb' 15 5) (w.extractLsb' 10 5) (w.getLsbD 9) (w.getLsbD 8) (maskOf w))
  | 17 => some (.vfkind (w.getLsbD 25) (w.extractLsb' 20 5) (w.extractLsb' 10 5) (w.getLsbD 8) (maskOf w))
  | _ => none

/-- The instruction of major 0x28 (R107). -/
noncomputable def pick28 (w : BitVec 32) : Option Instr :=
  match (w.extractLsb' 0 5).toNat with
  | 0 => some (.vfaddVX (w.getLsbD 25) (w.extractLsb' 20 5) (w.extractLsb' 15 5) (w.extractLsb' 10 5) (w.getLsbD 8) (maskOf w))
  | 1 => some (.vfsubVX (w.getLsbD 25) (w.extractLsb' 20 5) (w.extractLsb' 15 5) (w.extractLsb' 10 5) (w.getLsbD 8) (maskOf w))
  | 2 => some (.vfmulVX (w.getLsbD 25) (w.extractLsb' 20 5) (w.extractLsb' 15 5) (w.extractLsb' 10 5) (w.getLsbD 8) (maskOf w))
  | 3 => some (.vfmaccVX (w.getLsbD 25) (w.extractLsb' 20 5) (w.extractLsb' 15 5) (w.extractLsb' 10 5) (w.getLsbD 8) (maskOf w))
  | 4 => some (.vfminVX (w.getLsbD 25) (w.extractLsb' 20 5) (w.extractLsb' 15 5) (w.extractLsb' 10 5) (w.getLsbD 8) (maskOf w))
  | 5 => some (.vfmaxVX (w.getLsbD 25) (w.extractLsb' 20 5) (w.extractLsb' 15 5) (w.extractLsb' 10 5) (w.getLsbD 8) (maskOf w))
  | _ => none

/-- The instruction of major 0x29 (R107). -/
noncomputable def pick29 (w : BitVec 32) : Option Instr :=
  match (w.extractLsb' 0 5).toNat with
  | 0 => some (.vfcvtW (w.getLsbD 25) (w.extractLsb' 20 5) (w.extractLsb' 15 5) (w.extractLsb' 10 5) (w.getLsbD 8) (maskOf w))
  | 1 => some (.vfcvtN (w.getLsbD 25) (w.extractLsb' 20 5) (w.extractLsb' 15 5) (w.extractLsb' 10 5) (w.getLsbD 8) (maskOf w))
  | 2 => some (.vfcvtFi (w.getLsbD 25) (w.extractLsb' 20 5) (w.extractLsb' 15 5) (w.extractLsb' 10 5) (w.getLsbD 8) (maskOf w))
  | 3 => some (.vfcvtIf (w.getLsbD 25) (w.extractLsb' 20 5) (w.extractLsb' 15 5) (w.extractLsb' 10 5) (w.getLsbD 8) (maskOf w))
  | 4 => some (.vcvtI (w.getLsbD 25) (w.extractLsb' 20 5) (w.extractLsb' 15 5) (w.extractLsb' 10 5) (w.getLsbD 9) (w.getLsbD 8) (maskOf w))
  | 5 => some (.vcvtq (w.getLsbD 25) (w.extractLsb' 20 5) (w.extractLsb' 15 5) (w.extractLsb' 10 5) (w.getLsbD 8) (maskOf w))
  | 6 => some (.vdeq (w.getLsbD 25) (w.extractLsb' 20 5) (w.extractLsb' 15 5) (w.extractLsb' 10 5) (w.getLsbD 8) (maskOf w))
  | _ => none

/-- The instruction of major 0x2A (R107). -/
noncomputable def pick2A (w : BitVec 32) : Option Instr :=
  match (w.extractLsb' 0 5).toNat with
  | 0 => some (.vredsum (w.getLsbD 25) (w.extractLsb' 20 5) (w.extractLsb' 15 5) (w.extractLsb' 10 5) (w.getLsbD 9) (w.getLsbD 8) (maskOf w))
  | 1 => some (.vredmax (w.getLsbD 25) (w.extractLsb' 20 5) (w.extractLsb' 15 5) (w.extractLsb' 10 5) (w.getLsbD 9) (w.getLsbD 8) (maskOf w))
  | 2 => some (.vredmin (w.getLsbD 25) (w.extractLsb' 20 5) (w.extractLsb' 15 5) (w.extractLsb' 10 5) (w.getLsbD 9) (w.getLsbD 8) (maskOf w))
  | 3 => some (.vredmaxn (w.getLsbD 25) (w.extractLsb' 20 5) (w.extractLsb' 15 5) (w.extractLsb' 10 5) (w.getLsbD 9) (w.getLsbD 8) (maskOf w))
  | 4 => some (.vredminn (w.getLsbD 25) (w.extractLsb' 20 5) (w.extractLsb' 15 5) (w.extractLsb' 10 5) (w.getLsbD 9) (w.getLsbD 8) (maskOf w))
  | 5 => some (.vredand (w.getLsbD 25) (w.extractLsb' 20 5) (w.extractLsb' 15 5) (w.extractLsb' 10 5) (w.getLsbD 9) (w.getLsbD 8) (maskOf w))
  | 6 => some (.vredor (w.getLsbD 25) (w.extractLsb' 20 5) (w.extractLsb' 15 5) (w.extractLsb' 10 5) (w.getLsbD 9) (w.getLsbD 8) (maskOf w))
  | 7 => some (.vfredsum (w.getLsbD 25) (w.extractLsb' 20 5) (w.extractLsb' 15 5) (w.extractLsb' 10 5) (w.getLsbD 9) (w.getLsbD 8) (maskOf w))
  | 8 => some (.vfredosum (w.getLsbD 25) (w.extractLsb' 20 5) (w.extractLsb' 15 5) (w.extractLsb' 10 5) (w.getLsbD 9) (w.getLsbD 8) (maskOf w))
  | 9 => some (.vfredmax (w.getLsbD 25) (w.extractLsb' 20 5) (w.extractLsb' 15 5) (w.extractLsb' 10 5) (w.getLsbD 9) (w.getLsbD 8) (maskOf w))
  | 10 => some (.vfredmin (w.getLsbD 25) (w.extractLsb' 20 5) (w.extractLsb' 15 5) (w.extractLsb' 10 5) (w.getLsbD 9) (w.getLsbD 8) (maskOf w))
  | 11 => some (.vfwredsum (w.getLsbD 25) (w.extractLsb' 20 5) (w.extractLsb' 15 5) (w.extractLsb' 10 5) (w.getLsbD 9) (w.getLsbD 8) (maskOf w))
  | 12 => some (.vfwredosum (w.getLsbD 25) (w.extractLsb' 20 5) (w.extractLsb' 15 5) (w.extractLsb' 10 5) (w.getLsbD 9) (w.getLsbD 8) (maskOf w))
  | _ => none

/-- The instruction of major 0x2B (R107). -/
noncomputable def pick2B (w : BitVec 32) : Option Instr :=
  match (w.extractLsb' 0 5).toNat with
  | 0 => some (.vslup (w.getLsbD 25) (w.extractLsb' 20 5) (w.extractLsb' 15 5) (w.extractLsb' 10 5) (w.getLsbD 8) (maskOf w))
  | 1 => some (.vsldn (w.getLsbD 25) (w.extractLsb' 20 5) (w.extractLsb' 15 5) (w.extractLsb' 10 5) (w.getLsbD 8) (maskOf w))
  | 2 => some (.vsl1up (w.getLsbD 25) (w.extractLsb' 20 5) (w.extractLsb' 15 5) (w.extractLsb' 10 5) (w.getLsbD 8) (maskOf w))
  | 3 => some (.vsl1dn (w.getLsbD 25) (w.extractLsb' 20 5) (w.extractLsb' 15 5) (w.extractLsb' 10 5) (w.getLsbD 8) (maskOf w))
  | 4 => some (.vpull (w.getLsbD 25) (w.extractLsb' 20 5) (w.extractLsb' 15 5) (w.extractLsb' 10 5) (w.getLsbD 9) (w.getLsbD 8) (maskOf w))
  | 5 => some (.vpush (w.getLsbD 25) (w.extractLsb' 20 5) (w.extractLsb' 15 5) (w.extractLsb' 10 5) (w.getLsbD 9) (w.getLsbD 8) (maskOf w))
  | 6 => some (.vcomp (w.getLsbD 25) (w.extractLsb' 20 5) (w.extractLsb' 10 5) (w.getLsbD 8) (maskOf w))
  | 7 => some (.vappend (w.getLsbD 25) (w.extractLsb' 20 5) (w.extractLsb' 15 5) (w.extractLsb' 10 5) (w.getLsbD 8) (maskOf w))
  | 8 => some (.vmerge (w.getLsbD 25) (w.extractLsb' 20 5) (w.extractLsb' 15 5) (w.extractLsb' 10 5) (w.getLsbD 9) (w.getLsbD 8) (w.extractLsb' 5 2))
  | 9 => some (.vrank (w.getLsbD 25) (w.extractLsb' 20 5) (w.extractLsb' 10 5) (maskOf w))
  | 10 => some (.vindex (w.getLsbD 25) (w.extractLsb' 20 5) (maskOf w))
  | _ => none

/-- The instruction of major 0x2C (R107). -/
noncomputable def pick2C (w : BitVec 32) : Option Instr :=
  match (w.extractLsb' 0 5).toNat with
  | 0 => some (.mand (w.getLsbD 25) (w.extractLsb' 20 5) (w.extractLsb' 15 5) (w.extractLsb' 10 5))
  | 1 => some (.mor (w.getLsbD 25) (w.extractLsb' 20 5) (w.extractLsb' 15 5) (w.extractLsb' 10 5))
  | 2 => some (.mxor (w.getLsbD 25) (w.extractLsb' 20 5) (w.extractLsb' 15 5) (w.extractLsb' 10 5))
  | 3 => some (.mnot (w.getLsbD 25) (w.extractLsb' 20 5) (w.extractLsb' 10 5))
  | 4 => some (.mcount (w.getLsbD 25) (w.extractLsb' 20 5) (w.extractLsb' 10 5) (maskOf w))
  | 5 => some (.mlow (w.getLsbD 25) (w.extractLsb' 20 5) (w.extractLsb' 10 5) (maskOf w))
  | 6 => some (.mpre (w.getLsbD 25) (w.extractLsb' 20 5) (w.extractLsb' 10 5))
  | 7 => some (.mmov (w.getLsbD 25) (w.extractLsb' 20 5) (w.extractLsb' 10 5))
  | 8 => some (.mset (w.getLsbD 25) (w.extractLsb' 20 5))
  | 9 => some (.mclr (w.getLsbD 25) (w.extractLsb' 20 5))
  | _ => none

/-- The instruction of major 0x2D (R107). -/
noncomputable def pick2D (w : BitVec 32) : Option Instr :=
  match (w.extractLsb' 0 5).toNat with
  | 0 => some (.vmseqVV (w.getLsbD 25) (w.extractLsb' 20 5) (w.extractLsb' 15 5) (w.extractLsb' 10 5) (w.getLsbD 9) (w.getLsbD 8) (maskOf w))
  | 1 => some (.vmsneVV (w.getLsbD 25) (w.extractLsb' 20 5) (w.extractLsb' 15 5) (w.extractLsb' 10 5) (w.getLsbD 9) (w.getLsbD 8) (maskOf w))
  | 2 => some (.vmsltVV (w.getLsbD 25) (w.extractLsb' 20 5) (w.extractLsb' 15 5) (w.extractLsb' 10 5) (w.getLsbD 9) (w.getLsbD 8) (maskOf w))
  | 3 => some (.vmsleVV (w.getLsbD 25) (w.extractLsb' 20 5) (w.extractLsb' 15 5) (w.extractLsb' 10 5) (w.getLsbD 9) (w.getLsbD 8) (maskOf w))
  | 4 => some (.vmsltnVV (w.getLsbD 25) (w.extractLsb' 20 5) (w.extractLsb' 15 5) (w.extractLsb' 10 5) (w.getLsbD 9) (w.getLsbD 8) (maskOf w))
  | 5 => some (.vmfeqVV (w.getLsbD 25) (w.extractLsb' 20 5) (w.extractLsb' 15 5) (w.extractLsb' 10 5) (w.getLsbD 9) (w.getLsbD 8) (maskOf w))
  | 6 => some (.vmfltVV (w.getLsbD 25) (w.extractLsb' 20 5) (w.extractLsb' 15 5) (w.extractLsb' 10 5) (w.getLsbD 9) (w.getLsbD 8) (maskOf w))
  | 7 => some (.vmfle (w.getLsbD 25) (w.extractLsb' 20 5) (w.extractLsb' 15 5) (w.extractLsb' 10 5) (w.getLsbD 9) (w.getLsbD 8) (maskOf w))
  | 8 => some (.vmfne (w.getLsbD 25) (w.extractLsb' 20 5) (w.extractLsb' 15 5) (w.extractLsb' 10 5) (w.getLsbD 9) (w.getLsbD 8) (maskOf w))
  | _ => none

/-- The instruction of major 0x2E (R107). -/
noncomputable def pick2E (w : BitVec 32) : Option Instr :=
  match (w.extractLsb' 0 5).toNat with
  | 0 => some (.vmseqVX (w.getLsbD 25) (w.extractLsb' 20 5) (w.extractLsb' 15 5) (w.extractLsb' 10 5) (w.getLsbD 8) (maskOf w))
  | 1 => some (.vmsneVX (w.getLsbD 25) (w.extractLsb' 20 5) (w.extractLsb' 15 5) (w.extractLsb' 10 5) (w.getLsbD 8) (maskOf w))
  | 2 => some (.vmsltVX (w.getLsbD 25) (w.extractLsb' 20 5) (w.extractLsb' 15 5) (w.extractLsb' 10 5) (w.getLsbD 8) (maskOf w))
  | 3 => some (.vmsleVX (w.getLsbD 25) (w.extractLsb' 20 5) (w.extractLsb' 15 5) (w.extractLsb' 10 5) (w.getLsbD 8) (maskOf w))
  | 4 => some (.vmsgt (w.getLsbD 25) (w.extractLsb' 20 5) (w.extractLsb' 15 5) (w.extractLsb' 10 5) (w.getLsbD 8) (maskOf w))
  | 5 => some (.vmsltnVX (w.getLsbD 25) (w.extractLsb' 20 5) (w.extractLsb' 15 5) (w.extractLsb' 10 5) (w.getLsbD 8) (maskOf w))
  | 6 => some (.vmfeqVX (w.getLsbD 25) (w.extractLsb' 20 5) (w.extractLsb' 15 5) (w.extractLsb' 10 5) (w.getLsbD 8) (maskOf w))
  | 7 => some (.vmfltVX (w.getLsbD 25) (w.extractLsb' 20 5) (w.extractLsb' 15 5) (w.extractLsb' 10 5) (w.getLsbD 8) (maskOf w))
  | 8 => some (.vmfgt (w.getLsbD 25) (w.extractLsb' 20 5) (w.extractLsb' 15 5) (w.extractLsb' 10 5) (w.getLsbD 8) (maskOf w))
  | _ => none

/-- The instruction of major 0x2F (R107). -/
noncomputable def pick2F (w : BitVec 32) : Option Instr :=
  match (w.extractLsb' 0 5).toNat with
  | 0 => some (.vmv (w.getLsbD 25) (w.extractLsb' 20 5) (w.extractLsb' 10 5) (w.getLsbD 8) (maskOf w))
  | 1 => some (.vmvxs (w.getLsbD 25) (w.extractLsb' 20 5) (w.extractLsb' 10 5) (w.getLsbD 8))
  | 2 => some (.vmvsx (w.getLsbD 25) (w.extractLsb' 20 5) (w.extractLsb' 15 5))
  | 3 => some (.vbcast (w.getLsbD 25) (w.extractLsb' 20 5) (w.extractLsb' 15 5) (maskOf w))
  | 4 => some (.vqpop (w.getLsbD 25) (w.extractLsb' 20 5) (w.extractLsb' 15 3))
  | 5 => some (.vqpush (w.getLsbD 25) (w.extractLsb' 15 2) (w.extractLsb' 10 5) (w.getLsbD 8))
  | 6 => some (.vnsrd (w.getLsbD 25) (w.extractLsb' 20 5))
  | 7 => some (.vnswr (w.getLsbD 25) (w.extractLsb' 10 5) (w.getLsbD 8))
  | _ => none

/-- The instruction of major 0x30 (R107). -/
noncomputable def pick30 (w : BitVec 32) : Option Instr :=
  match (w.extractLsb' 0 5).toNat with
  | 0 => some (.vupdSgdm (w.getLsbD 25) (w.extractLsb' 20 5) (w.extractLsb' 15 5) (w.extractLsb' 10 5) (w.getLsbD 9) (w.getLsbD 8) (maskOf w))
  | 1 => some (.vupdAdamw (w.getLsbD 25) (w.extractLsb' 20 5) (w.extractLsb' 15 5) (w.extractLsb' 10 5) (w.getLsbD 9) (w.getLsbD 8) (maskOf w))
  | 2 => some (.vsplit (w.getLsbD 25) (w.extractLsb' 20 5) (w.extractLsb' 10 5) (w.getLsbD 8) (maskOf w))
  | 3 => some (.vjoin (w.getLsbD 25) (w.extractLsb' 20 5) (w.extractLsb' 10 5) (w.getLsbD 8) (maskOf w))
  | _ => none

/-- The instruction of major 0x31 (R107). -/
noncomputable def pick31 (w : BitVec 32) : Option Instr :=
  match (w.extractLsb' 0 5).toNat with
  | 0 => some (.tcross (w.getLsbD 25) (w.extractLsb' 22 3) (w.extractLsb' 17 5) (w.extractLsb' 12 5) (w.extractLsb' 10 2) (w.getLsbD 9) (w.getLsbD 8) (maskOf w))
  | 1 => some (.tcrossm (w.getLsbD 25) (w.extractLsb' 22 3) (w.extractLsb' 17 5) (w.extractLsb' 12 5) (w.extractLsb' 10 2) (w.getLsbD 9) (w.getLsbD 8) (maskOf w))
  | 2 => some (.tcrossI (w.getLsbD 25) (w.extractLsb' 22 3) (w.extractLsb' 17 5) (w.extractLsb' 12 5) (w.extractLsb' 10 2) (w.getLsbD 9) (w.getLsbD 8) (maskOf w))
  | 3 => some (.tcrossS (w.getLsbD 25) (w.extractLsb' 22 3) (w.extractLsb' 17 5) (w.extractLsb' 12 5) (w.getLsbD 9) (w.getLsbD 8) (maskOf w))
  | _ => none

/-- The instruction of major 0x32 (R107). -/
noncomputable def pick32 (w : BitVec 32) : Option Instr :=
  match (w.extractLsb' 0 5).toNat with
  | 0 => some (.tzero (w.getLsbD 25) (w.extractLsb' 22 3))
  | 1 => some (.tmvrow (w.getLsbD 25) (w.extractLsb' 22 3) (w.extractLsb' 17 5) (w.extractLsb' 12 5) (w.getLsbD 8) (maskOf w))
  | 2 => some (.tmvcol (w.getLsbD 25) (w.extractLsb' 22 3) (w.extractLsb' 17 5) (w.extractLsb' 12 5) (w.getLsbD 8) (maskOf w))
  | 3 => some (.trdrow (w.getLsbD 25) (w.extractLsb' 22 3) (w.extractLsb' 17 5) (w.extractLsb' 12 5) (maskOf w))
  | 4 => some (.trdcol (w.getLsbD 25) (w.extractLsb' 22 3) (w.extractLsb' 17 5) (w.extractLsb' 12 5) (maskOf w))
  | _ => none

/-- The instruction of major 0x33 (R107). -/
noncomputable def pick33 (w : BitVec 32) : Option Instr :=
  match (w.extractLsb' 0 5).toNat with
  | 0 => some (.tcfg (w.getLsbD 25) (w.extractLsb' 22 3) (w.extractLsb' 17 5))
  | 1 => some (.tscale (w.getLsbD 25) (w.extractLsb' 22 3) (w.extractLsb' 17 5))
  | 2 => some (.tstat (w.getLsbD 25) (w.extractLsb' 22 3) (w.extractLsb' 17 5))
  | _ => none

/-- The instruction that the major and the function number name, its fields read from the layout of the major
(R101, R102, R107); `none` where R107 assigns nothing. -/
noncomputable def pick (w : BitVec 32) : Option Instr :=
  match (w.extractLsb' 26 6).toNat with
  | 0x01 => pick01 w
  | 0x02 => some (.addi (w.extractLsb' 21 5) (w.extractLsb' 16 5) (w.extractLsb' 0 16))
  | 0x03 => some (.andi (w.extractLsb' 21 5) (w.extractLsb' 16 5) (w.extractLsb' 0 16))
  | 0x04 => some (.ori (w.extractLsb' 21 5) (w.extractLsb' 16 5) (w.extractLsb' 0 16))
  | 0x05 => some (.xori (w.extractLsb' 21 5) (w.extractLsb' 16 5) (w.extractLsb' 0 16))
  | 0x06 => some (.slti (w.extractLsb' 21 5) (w.extractLsb' 16 5) (w.extractLsb' 0 16))
  | 0x07 => some (.sltni (w.extractLsb' 21 5) (w.extractLsb' 16 5) (w.extractLsb' 0 16))
  | 0x08 => some (.immh (w.extractLsb' 21 5) (w.extractLsb' 0 21))
  | 0x09 => some (.apc (w.extractLsb' 21 5) (w.extractLsb' 0 21))
  | 0x0A => pick0A w
  | 0x0B => pick0B w
  | 0x0C => pick0C w
  | 0x0D => pick0D w
  | 0x0E => some (.beq (w.extractLsb' 21 5) (w.extractLsb' 16 5) (w.extractLsb' 0 16))
  | 0x0F => some (.bne (w.extractLsb' 21 5) (w.extractLsb' 16 5) (w.extractLsb' 0 16))
  | 0x10 => some (.blt (w.extractLsb' 21 5) (w.extractLsb' 16 5) (w.extractLsb' 0 16))
  | 0x11 => some (.bge (w.extractLsb' 21 5) (w.extractLsb' 16 5) (w.extractLsb' 0 16))
  | 0x12 => some (.bltn (w.extractLsb' 21 5) (w.extractLsb' 16 5) (w.extractLsb' 0 16))
  | 0x13 => some (.bgen (w.extractLsb' 21 5) (w.extractLsb' 16 5) (w.extractLsb' 0 16))
  | 0x14 => some (.jal (w.extractLsb' 21 5) (w.extractLsb' 0 21))
  | 0x15 => some (.jalr (w.extractLsb' 21 5) (w.extractLsb' 16 5) (w.extractLsb' 0 16))
  | 0x16 => pick16 w
  | 0x17 => pick17 w
  | 0x18 => pick18 w
  | 0x19 => pick19 w
  | 0x1A => pick1A w
  | 0x1B => pick1B w
  | 0x1C => pick1C w
  | 0x1D => pick1D w
  | 0x20 => pick20 w
  | 0x21 => pick21 w
  | 0x22 => pick22 w
  | 0x23 => pick23 w
  | 0x24 => pick24 w
  | 0x25 => pick25 w
  | 0x26 => pick26 w
  | 0x27 => pick27 w
  | 0x28 => pick28 w
  | 0x29 => pick29 w
  | 0x2A => pick2A w
  | 0x2B => pick2B w
  | 0x2C => pick2C w
  | 0x2D => pick2D w
  | 0x2E => pick2E w
  | 0x2F => pick2F w
  | 0x30 => pick30 w
  | 0x31 => pick31 w
  | 0x32 => pick32 w
  | 0x33 => pick33 w
  | _ => none

/-- The word of an instruction, from the encoding tables of R101, R102 and R107; an event has no word (0). -/
def encode : Instr → BitVec 32
  | .add d a b => packS3 0x01#6 d a b 0#6 0#5
  | .sub d a b => packS3 0x01#6 d a b 1#6 0#5
  | .and d a b => packS3 0x01#6 d a b 2#6 0#5
  | .or d a b => packS3 0x01#6 d a b 3#6 0#5
  | .xor d a b => packS3 0x01#6 d a b 4#6 0#5
  | .andn d a b => packS3 0x01#6 d a b 5#6 0#5
  | .sll d a b => packS3 0x01#6 d a b 6#6 0#5
  | .srl d a b => packS3 0x01#6 d a b 7#6 0#5
  | .sra d a b => packS3 0x01#6 d a b 8#6 0#5
  | .rol d a b => packS3 0x01#6 d a b 9#6 0#5
  | .ror d a b => packS3 0x01#6 d a b 10#6 0#5
  | .slt d a b => packS3 0x01#6 d a b 11#6 0#5
  | .sltn d a b => packS3 0x01#6 d a b 12#6 0#5
  | .min d a b => packS3 0x01#6 d a b 13#6 0#5
  | .max d a b => packS3 0x01#6 d a b 14#6 0#5
  | .minn d a b => packS3 0x01#6 d a b 15#6 0#5
  | .maxn d a b => packS3 0x01#6 d a b 16#6 0#5
  | .mul d a b => packS3 0x01#6 d a b 17#6 0#5
  | .mulh d a b => packS3 0x01#6 d a b 18#6 0#5
  | .mulhn d a b => packS3 0x01#6 d a b 19#6 0#5
  | .div d a b => packS3 0x01#6 d a b 20#6 0#5
  | .divn d a b => packS3 0x01#6 d a b 21#6 0#5
  | .rem d a b => packS3 0x01#6 d a b 22#6 0#5
  | .remn d a b => packS3 0x01#6 d a b 23#6 0#5
  | .clz d a => packS3 0x01#6 d a 0#5 24#6 0#5
  | .ctz d a => packS3 0x01#6 d a 0#5 25#6 0#5
  | .popc d a => packS3 0x01#6 d a 0#5 26#6 0#5
  | .sextB d a => packS3 0x01#6 d a 0#5 27#6 0#5
  | .sextH d a => packS3 0x01#6 d a 0#5 28#6 0#5
  | .sextW d a => packS3 0x01#6 d a 0#5 29#6 0#5
  | .zextW d a => packS3 0x01#6 d a 0#5 30#6 0#5
  | .slli d a s => packS3 0x01#6 d a (s.extractLsb' 0 5) 31#6 (0#4 ++ (s.extractLsb' 5 1))
  | .srli d a s => packS3 0x01#6 d a (s.extractLsb' 0 5) 32#6 (0#4 ++ (s.extractLsb' 5 1))
  | .srai d a s => packS3 0x01#6 d a (s.extractLsb' 0 5) 33#6 (0#4 ++ (s.extractLsb' 5 1))
  | .addi d a i => packSI 0x02#6 d a i
  | .andi d a i => packSI 0x03#6 d a i
  | .ori d a i => packSI 0x04#6 d a i
  | .xori d a i => packSI 0x05#6 d a i
  | .slti d a i => packSI 0x06#6 d a i
  | .sltni d a i => packSI 0x07#6 d a i
  | .immh d i => packSU 0x08#6 d i
  | .apc d i => packSU 0x09#6 d i
  | .ldb d a o => packSM 0x0a#6 d a 0#3 o
  | .ldbn d a o => packSM 0x0a#6 d a 1#3 o
  | .ldh d a o => packSM 0x0a#6 d a 2#3 o
  | .ldhn d a o => packSM 0x0a#6 d a 3#3 o
  | .ldw d a o => packSM 0x0a#6 d a 4#3 o
  | .ldwn d a o => packSM 0x0a#6 d a 5#3 o
  | .ldd d a o => packSM 0x0a#6 d a 6#3 o
  | .stb s a o => packSM 0x0b#6 s a 0#3 o
  | .sth s a o => packSM 0x0b#6 s a 1#3 o
  | .stw s a o => packSM 0x0b#6 s a 2#3 o
  | .std s a o => packSM 0x0b#6 s a 3#3 o
  | .amoAdd d a b o s w => packS3 0x0c#6 d a b 0#6 (o ++ s ++ (BitVec.ofBool w))
  | .amoAnd d a b o s w => packS3 0x0c#6 d a b 1#6 (o ++ s ++ (BitVec.ofBool w))
  | .amoOr d a b o s w => packS3 0x0c#6 d a b 2#6 (o ++ s ++ (BitVec.ofBool w))
  | .amoXor d a b o s w => packS3 0x0c#6 d a b 3#6 (o ++ s ++ (BitVec.ofBool w))
  | .amoMin d a b o s w => packS3 0x0c#6 d a b 4#6 (o ++ s ++ (BitVec.ofBool w))
  | .amoMax d a b o s w => packS3 0x0c#6 d a b 5#6 (o ++ s ++ (BitVec.ofBool w))
  | .amoMinn d a b o s w => packS3 0x0c#6 d a b 6#6 (o ++ s ++ (BitVec.ofBool w))
  | .amoMaxn d a b o s w => packS3 0x0c#6 d a b 7#6 (o ++ s ++ (BitVec.ofBool w))
  | .amoSwap d a b o s w => packS3 0x0c#6 d a b 8#6 (o ++ s ++ (BitVec.ofBool w))
  | .amoCas d a b o s w => packS3 0x0c#6 d a b 9#6 (o ++ s ++ (BitVec.ofBool w))
  | .ldAcq d a s w => packS3 0x0c#6 d a 0#5 10#6 (1#2 ++ s ++ (BitVec.ofBool w))
  | .stRel a b s w => packS3 0x0c#6 0#5 a b 11#6 (2#2 ++ s ++ (BitVec.ofBool w))
  | .fadd d a b => packS3 0x0d#6 d a b 0#6 0#5
  | .fsub d a b => packS3 0x0d#6 d a b 1#6 0#5
  | .fmul d a b => packS3 0x0d#6 d a b 2#6 0#5
  | .fdiv d a b => packS3 0x0d#6 d a b 3#6 0#5
  | .fsqrt d a => packS3 0x0d#6 d a 0#5 4#6 0#5
  | .fmin d a b => packS3 0x0d#6 d a b 5#6 0#5
  | .fmax d a b => packS3 0x0d#6 d a b 6#6 0#5
  | .fmac d a b => packS3 0x0d#6 d a b 7#6 0#5
  | .fcvtfi d a => packS3 0x0d#6 d a 0#5 8#6 0#5
  | .fcvtif d a => packS3 0x0d#6 d a 0#5 9#6 0#5
  | .feq d a b => packS3 0x0d#6 d a b 10#6 0#5
  | .flt d a b => packS3 0x0d#6 d a b 11#6 0#5
  | .fle d a b => packS3 0x0d#6 d a b 12#6 0#5
  | .fkind d a => packS3 0x0d#6 d a 0#5 13#6 0#5
  | .fcvtbf d a => packS3 0x0d#6 d a 0#5 14#6 0#5
  | .fmvbf d a => packS3 0x0d#6 d a 0#5 15#6 0#5
  | .beq a b o => packSI 0x0e#6 a b o
  | .bne a b o => packSI 0x0f#6 a b o
  | .blt a b o => packSI 0x10#6 a b o
  | .bge a b o => packSI 0x11#6 a b o
  | .bltn a b o => packSI 0x12#6 a b o
  | .bgen a b o => packSI 0x13#6 a b o
  | .jal d o => packSU 0x14#6 d o
  | .jalr d a i => packSI 0x15#6 d a i
  | .loopSet l => packSL 0x16#6 0#2 l 0#5 0#16
  | .loopEnd l o => packSL 0x16#6 1#2 l 0#5 o
  | .loopIdx l d => packSL 0x16#6 2#2 l d 0#16
  | .loopBrk l o => packSL 0x16#6 3#2 l 0#5 o
  | .qpush a q => packS3 0x17#6 0#5 a q 0#6 0#5
  | .qpop d q => packS3 0x17#6 d 0#5 q 1#6 0#5
  | .qpeek d q => packS3 0x17#6 d 0#5 q 2#6 0#5
  | .qtest d q => packS3 0x17#6 d 0#5 q 3#6 0#5
  | .qclose q => packS3 0x17#6 0#5 0#5 q 4#6 0#5
  | .bpush a => packS3 0x17#6 0#5 a 12#5 5#6 0#5
  | .qbr o => packS3 0x17#6 (o.extractLsb' 15 5) (o.extractLsb' 10 5) (o.extractLsb' 5 5) 6#6 (o.extractLsb' 0 5)
  | .sprd d a q => packS3 0x17#6 d a q 7#6 0#5
  | .spwr d a q => packS3 0x17#6 d a q 8#6 0#5
  | .qflush q => packS3 0x17#6 0#5 0#5 q 9#6 0#5
  | .qdepth d q => packS3 0x17#6 d 0#5 q 10#6 0#5
  | .csrr d c => packCS 0x18#6 d 0#5 0#2 0#2 c
  | .csrw d a c => packCS 0x18#6 d a 1#2 0#2 c
  | .csrs d a c => packCS 0x18#6 d a 2#2 0#2 c
  | .csrc d a c => packCS 0x18#6 d a 3#2 0#2 c
  | .fenceAv s => packS3 0x19#6 0#5 0#5 0#5 0#6 (0#2 ++ s ++ 0#1)
  | .fenceVa s => packS3 0x19#6 0#5 0#5 0#5 1#6 (0#2 ++ s ++ 0#1)
  | .fenceVV s => packS3 0x19#6 0#5 0#5 0#5 2#6 (0#2 ++ s ++ 0#1)
  | .fenceAll s => packS3 0x19#6 0#5 0#5 0#5 3#6 (0#2 ++ s ++ 0#1)
  | .barArv b s => packS3 0x19#6 0#5 0#5 b 4#6 (0#2 ++ s ++ 0#1)
  | .barWt b s => packS3 0x19#6 0#5 0#5 b 5#6 (0#2 ++ s ++ 0#1)
  | .barSync b s => packS3 0x19#6 0#5 0#5 b 6#6 (0#2 ++ s ++ 0#1)
  | .yield => packS3 0x19#6 0#5 0#5 0#5 7#6 0#5
  | .wfe => packS3 0x19#6 0#5 0#5 0#5 8#6 0#5
  | .sev a s => packS3 0x19#6 0#5 a 0#5 9#6 (0#2 ++ s ++ 0#1)
  | .trap a => packS3 0x1a#6 0#5 a 0#5 0#6 0#5
  | .svc a => packS3 0x1a#6 0#5 a 0#5 1#6 0#5
  | .tret => packS3 0x1a#6 0#5 0#5 0#5 2#6 0#5
  | .halt => packS3 0x1a#6 0#5 0#5 0#5 3#6 0#5
  | .dbrk => packS3 0x1a#6 0#5 0#5 0#5 4#6 0#5
  | .tlbi a b => packS3 0x1a#6 0#5 a b 5#6 0#5
  | .vsave a b => packS3 0x1a#6 0#5 a b 6#6 0#5
  | .vrest a b => packS3 0x1a#6 0#5 a b 7#6 0#5
  | .wfi => packS3 0x1a#6 0#5 0#5 0#5 8#6 0#5
  | .cpy d p s t k => packE 0x1b#6 d p 0#5 0#6 s (0#1 ++ (BitVec.ofBool t) ++ (BitVec.ofBool k))
  | .cpyq d p s => packE 0x1b#6 d p 0#5 1#6 s 0#3
  | .cpys d p s => packE 0x1b#6 d p 0#5 2#6 s 0#3
  | .gath d p s q i => packE 0x1b#6 d p 0#5 3#6 s (0#1 ++ (BitVec.ofBool q) ++ (BitVec.ofBool i))
  | .scad d p s v i => packE 0x1b#6 d p 0#5 4#6 s (0#1 ++ (BitVec.ofBool v) ++ (BitVec.ofBool i))
  | .coll d p s => packE 0x1b#6 d p 0#5 5#6 s 0#3
  | .pub d p s => packE 0x1b#6 d p 0#5 6#6 s 0#3
  | .tokw d p => packE 0x1b#6 d p 0#5 7#6 0#2 0#3
  | .toks d p => packE 0x1b#6 d p 0#5 8#6 0#2 0#3
  | .mig d p => packE 0x1b#6 d p 0#5 9#6 0#2 0#3
  | .kvfork d p n s => packE 0x1c#6 d p n 0#6 s 0#3
  | .kvapp d p n s => packE 0x1c#6 d p n 1#6 s 0#3
  | .kvtag d p n s => packE 0x1c#6 d p n 2#6 s 0#3
  | .kvret d p n s => packE 0x1c#6 d p n 3#6 s 0#3
  | .kvres d p n s => packE 0x1c#6 d p n 4#6 s 0#3
  | .kvpin d p n s ev un pin => packE 0x1c#6 d p n 5#6 s ((BitVec.ofBool ev) ++ (BitVec.ofBool un) ++ (BitVec.ofBool pin))
  | .kvlook d p n s => packE 0x1c#6 d p n 6#6 s 0#3
  | .rvchain p => packE 0x1d#6 0#5 p 0#5 0#6 0#2 0#3
  | .rvret => packE 0x1d#6 0#5 0#5 0#5 1#6 0#2 0#3
  | .rvq d => packE 0x1d#6 d 0#5 0#5 2#6 0#2 0#3
  | .rvabort n => packE 0x1d#6 0#5 0#5 n 3#6 0#2 0#3
  | .vcfg d a b => packVC 0x20#6 0#1 d a (b ++ 0#5) 0#5
  | .vcfgi d a t => packVC 0x20#6 0#1 d a t 1#5
  | .vreconf c => packVC 0x20#6 0#1 0#5 0#5 (0#3 ++ c ++ 0#5) 2#5
  | .vle k d x mask => packV 0x21#6 (BitVec.ofBool k) d x 0#5 0#1 0#1 (maskMe mask) (maskMk mask) 0#5
  | .vlse k d x s mask => packV 0x21#6 (BitVec.ofBool k) d x s 0#1 0#1 (maskMe mask) (maskMk mask) 1#5
  | .vlseg k d x f mask => packV 0x21#6 (BitVec.ofBool k) d x (0#2 ++ f) 0#1 0#1 (maskMe mask) (maskMk mask) 2#5
  | .vlx k d x i mask => packV 0x21#6 (BitVec.ofBool k) d x i 0#1 0#1 (maskMe mask) (maskMk mask) 3#5
  | .vlb k d x o mask => packV 0x21#6 (BitVec.ofBool k) d x o 0#1 0#1 (maskMe mask) (maskMk mask) 4#5
  | .vlkv k d x p => packV 0x21#6 (BitVec.ofBool k) d x p 0#1 0#1 0#1 0#2 5#5
  | .vlsc k d x => packV 0x21#6 (BitVec.ofBool k) d x 0#5 0#1 0#1 0#1 0#2 6#5
  | .vse k v x c mask => packV 0x22#6 (BitVec.ofBool k) v x 0#5 (BitVec.ofBool c) 0#1 (maskMe mask) (maskMk mask) 0#5
  | .vsse k v x s c mask => packV 0x22#6 (BitVec.ofBool k) v x s (BitVec.ofBool c) 0#1 (maskMe mask) (maskMk mask) 1#5
  | .vsseg k v x f c mask => packV 0x22#6 (BitVec.ofBool k) v x (0#2 ++ f) (BitVec.ofBool c) 0#1 (maskMe mask) (maskMk mask) 2#5
  | .vsx k v x i c mask => packV 0x22#6 (BitVec.ofBool k) v x i (BitVec.ofBool c) 0#1 (maskMe mask) (maskMk mask) 3#5
  | .vsxo k v x i c mask => packV 0x22#6 (BitVec.ofBool k) v x i (BitVec.ofBool c) 0#1 (maskMe mask) (maskMk mask) 4#5
  | .vsb k v x o c mask => packV 0x22#6 (BitVec.ofBool k) v x o (BitVec.ofBool c) 0#1 (maskMe mask) (maskMk mask) 5#5
  | .vssc k v x => packV 0x22#6 (BitVec.ofBool k) v x 0#5 0#1 0#1 0#1 0#2 6#5
  | .vlld k d x i mask => packV 0x23#6 (BitVec.ofBool k) d x i 0#1 0#1 (maskMe mask) (maskMk mask) 0#5
  | .vlst k v x i c mask => packV 0x23#6 (BitVec.ofBool k) v x i (BitVec.ofBool c) 0#1 (maskMe mask) (maskMk mask) 1#5
  | .vlla k d x i mask => packV 0x23#6 (BitVec.ofBool k) d x i 0#1 0#1 (maskMe mask) (maskMk mask) 2#5
  | .vaddVV k d s t a b mask => packV 0x24#6 (BitVec.ofBool k) d s t (BitVec.ofBool a) (BitVec.ofBool b) (maskMe mask) (maskMk mask) 0#5
  | .vsubVV k d s t a b mask => packV 0x24#6 (BitVec.ofBool k) d s t (BitVec.ofBool a) (BitVec.ofBool b) (maskMe mask) (maskMk mask) 1#5
  | .vmulVV k d s t a b mask => packV 0x24#6 (BitVec.ofBool k) d s t (BitVec.ofBool a) (BitVec.ofBool b) (maskMe mask) (maskMk mask) 2#5
  | .vmulh k d s t a b mask => packV 0x24#6 (BitVec.ofBool k) d s t (BitVec.ofBool a) (BitVec.ofBool b) (maskMe mask) (maskMk mask) 3#5
  | .vmulhn k d s t a b mask => packV 0x24#6 (BitVec.ofBool k) d s t (BitVec.ofBool a) (BitVec.ofBool b) (maskMe mask) (maskMk mask) 4#5
  | .vdiv k d s t a b mask => packV 0x24#6 (BitVec.ofBool k) d s t (BitVec.ofBool a) (BitVec.ofBool b) (maskMe mask) (maskMk mask) 5#5
  | .vdivn k d s t a b mask => packV 0x24#6 (BitVec.ofBool k) d s t (BitVec.ofBool a) (BitVec.ofBool b) (maskMe mask) (maskMk mask) 6#5
  | .vrem k d s t a b mask => packV 0x24#6 (BitVec.ofBool k) d s t (BitVec.ofBool a) (BitVec.ofBool b) (maskMe mask) (maskMk mask) 7#5
  | .vremn k d s t a b mask => packV 0x24#6 (BitVec.ofBool k) d s t (BitVec.ofBool a) (BitVec.ofBool b) (maskMe mask) (maskMk mask) 8#5
  | .vandVV k d s t a b mask => packV 0x24#6 (BitVec.ofBool k) d s t (BitVec.ofBool a) (BitVec.ofBool b) (maskMe mask) (maskMk mask) 9#5
  | .vorVV k d s t a b mask => packV 0x24#6 (BitVec.ofBool k) d s t (BitVec.ofBool a) (BitVec.ofBool b) (maskMe mask) (maskMk mask) 10#5
  | .vxorVV k d s t a b mask => packV 0x24#6 (BitVec.ofBool k) d s t (BitVec.ofBool a) (BitVec.ofBool b) (maskMe mask) (maskMk mask) 11#5
  | .vsllVV k d s t a b mask => packV 0x24#6 (BitVec.ofBool k) d s t (BitVec.ofBool a) (BitVec.ofBool b) (maskMe mask) (maskMk mask) 12#5
  | .vsrlVV k d s t a b mask => packV 0x24#6 (BitVec.ofBool k) d s t (BitVec.ofBool a) (BitVec.ofBool b) (maskMe mask) (maskMk mask) 13#5
  | .vsraVV k d s t a b mask => packV 0x24#6 (BitVec.ofBool k) d s t (BitVec.ofBool a) (BitVec.ofBool b) (maskMe mask) (maskMk mask) 14#5
  | .vminVV k d s t a b mask => packV 0x24#6 (BitVec.ofBool k) d s t (BitVec.ofBool a) (BitVec.ofBool b) (maskMe mask) (maskMk mask) 15#5
  | .vmaxVV k d s t a b mask => packV 0x24#6 (BitVec.ofBool k) d s t (BitVec.ofBool a) (BitVec.ofBool b) (maskMe mask) (maskMk mask) 16#5
  | .vminn k d s t a b mask => packV 0x24#6 (BitVec.ofBool k) d s t (BitVec.ofBool a) (BitVec.ofBool b) (maskMe mask) (maskMk mask) 17#5
  | .vmaxn k d s t a b mask => packV 0x24#6 (BitVec.ofBool k) d s t (BitVec.ofBool a) (BitVec.ofBool b) (maskMe mask) (maskMk mask) 18#5
  | .vmaccVV k d s t a b mask => packV 0x24#6 (BitVec.ofBool k) d s t (BitVec.ofBool a) (BitVec.ofBool b) (maskMe mask) (maskMk mask) 19#5
  | .vwadd k d s t a b mask => packV 0x24#6 (BitVec.ofBool k) d s t (BitVec.ofBool a) (BitVec.ofBool b) (maskMe mask) (maskMk mask) 20#5
  | .vwmul k d s t a b mask => packV 0x24#6 (BitVec.ofBool k) d s t (BitVec.ofBool a) (BitVec.ofBool b) (maskMe mask) (maskMk mask) 21#5
  | .vwmacc k d s t a b mask => packV 0x24#6 (BitVec.ofBool k) d s t (BitVec.ofBool a) (BitVec.ofBool b) (maskMe mask) (maskMk mask) 22#5
  | .vnsra k d s t a b mask => packV 0x24#6 (BitVec.ofBool k) d s t (BitVec.ofBool a) (BitVec.ofBool b) (maskMe mask) (maskMk mask) 23#5
  | .vsadd k d s t a b mask => packV 0x24#6 (BitVec.ofBool k) d s t (BitVec.ofBool a) (BitVec.ofBool b) (maskMe mask) (maskMk mask) 24#5
  | .vssub k d s t a b mask => packV 0x24#6 (BitVec.ofBool k) d s t (BitVec.ofBool a) (BitVec.ofBool b) (maskMe mask) (maskMk mask) 25#5
  | .vaddVX k d x t b mask => packV 0x25#6 (BitVec.ofBool k) d x t 0#1 (BitVec.ofBool b) (maskMe mask) (maskMk mask) 0#5
  | .vsubVX k d x t b mask => packV 0x25#6 (BitVec.ofBool k) d x t 0#1 (BitVec.ofBool b) (maskMe mask) (maskMk mask) 1#5
  | .vmulVX k d x t b mask => packV 0x25#6 (BitVec.ofBool k) d x t 0#1 (BitVec.ofBool b) (maskMe mask) (maskMk mask) 2#5
  | .vandVX k d x t b mask => packV 0x25#6 (BitVec.ofBool k) d x t 0#1 (BitVec.ofBool b) (maskMe mask) (maskMk mask) 3#5
  | .vorVX k d x t b mask => packV 0x25#6 (BitVec.ofBool k) d x t 0#1 (BitVec.ofBool b) (maskMe mask) (maskMk mask) 4#5
  | .vxorVX k d x t b mask => packV 0x25#6 (BitVec.ofBool k) d x t 0#1 (BitVec.ofBool b) (maskMe mask) (maskMk mask) 5#5
  | .vsllVX k d x t b mask => packV 0x25#6 (BitVec.ofBool k) d x t 0#1 (BitVec.ofBool b) (maskMe mask) (maskMk mask) 6#5
  | .vsrlVX k d x t b mask => packV 0x25#6 (BitVec.ofBool k) d x t 0#1 (BitVec.ofBool b) (maskMe mask) (maskMk mask) 7#5
  | .vsraVX k d x t b mask => packV 0x25#6 (BitVec.ofBool k) d x t 0#1 (BitVec.ofBool b) (maskMe mask) (maskMk mask) 8#5
  | .vminVX k d x t b mask => packV 0x25#6 (BitVec.ofBool k) d x t 0#1 (BitVec.ofBool b) (maskMe mask) (maskMk mask) 9#5
  | .vmaxVX k d x t b mask => packV 0x25#6 (BitVec.ofBool k) d x t 0#1 (BitVec.ofBool b) (maskMe mask) (maskMk mask) 10#5
  | .vmaccVX k d x t b mask => packV 0x25#6 (BitVec.ofBool k) d x t 0#1 (BitVec.ofBool b) (maskMe mask) (maskMk mask) 11#5
  | .vaddVI k d i t b mask => packV 0x26#6 (BitVec.ofBool k) d i t 0#1 (BitVec.ofBool b) (maskMe mask) (maskMk mask) 0#5
  | .vandVI k d i t b mask => packV 0x26#6 (BitVec.ofBool k) d i t 0#1 (BitVec.ofBool b) (maskMe mask) (maskMk mask) 1#5
  | .vorVI k d i t b mask => packV 0x26#6 (BitVec.ofBool k) d i t 0#1 (BitVec.ofBool b) (maskMe mask) (maskMk mask) 2#5
  | .vxorVI k d i t b mask => packV 0x26#6 (BitVec.ofBool k) d i t 0#1 (BitVec.ofBool b) (maskMe mask) (maskMk mask) 3#5
  | .vsllVI k d i t b mask => packV 0x26#6 (BitVec.ofBool k) d i t 0#1 (BitVec.ofBool b) (maskMe mask) (maskMk mask) 4#5
  | .vsrlVI k d i t b mask => packV 0x26#6 (BitVec.ofBool k) d i t 0#1 (BitVec.ofBool b) (maskMe mask) (maskMk mask) 5#5
  | .vsraVI k d i t b mask => packV 0x26#6 (BitVec.ofBool k) d i t 0#1 (BitVec.ofBool b) (maskMe mask) (maskMk mask) 6#5
  | .vfaddVV k d s t a b mask => packV 0x27#6 (BitVec.ofBool k) d s t (BitVec.ofBool a) (BitVec.ofBool b) (maskMe mask) (maskMk mask) 0#5
  | .vfsubVV k d s t a b mask => packV 0x27#6 (BitVec.ofBool k) d s t (BitVec.ofBool a) (BitVec.ofBool b) (maskMe mask) (maskMk mask) 1#5
  | .vfmulVV k d s t a b mask => packV 0x27#6 (BitVec.ofBool k) d s t (BitVec.ofBool a) (BitVec.ofBool b) (maskMe mask) (maskMk mask) 2#5
  | .vfdiv k d s t a b mask => packV 0x27#6 (BitVec.ofBool k) d s t (BitVec.ofBool a) (BitVec.ofBool b) (maskMe mask) (maskMk mask) 3#5
  | .vfsqrt k d t b mask => packV 0x27#6 (BitVec.ofBool k) d 0#5 t 0#1 (BitVec.ofBool b) (maskMe mask) (maskMk mask) 4#5
  | .vfminVV k d s t a b mask => packV 0x27#6 (BitVec.ofBool k) d s t (BitVec.ofBool a) (BitVec.ofBool b) (maskMe mask) (maskMk mask) 5#5
  | .vfmaxVV k d s t a b mask => packV 0x27#6 (BitVec.ofBool k) d s t (BitVec.ofBool a) (BitVec.ofBool b) (maskMe mask) (maskMk mask) 6#5
  | .vfmaccVV k d s t a b mask => packV 0x27#6 (BitVec.ofBool k) d s t (BitVec.ofBool a) (BitVec.ofBool b) (maskMe mask) (maskMk mask) 7#5
  | .vfsubm k d s t a b mask => packV 0x27#6 (BitVec.ofBool k) d s t (BitVec.ofBool a) (BitVec.ofBool b) (maskMe mask) (maskMk mask) 8#5
  | .vfwadd k d s t a b mask => packV 0x27#6 (BitVec.ofBool k) d s t (BitVec.ofBool a) (BitVec.ofBool b) (maskMe mask) (maskMk mask) 9#5
  | .vfwmul k d s t a b mask => packV 0x27#6 (BitVec.ofBool k) d s t (BitVec.ofBool a) (BitVec.ofBool b) (maskMe mask) (maskMk mask) 10#5
  | .vfwmacc k d s t a b mask => packV 0x27#6 (BitVec.ofBool k) d s t (BitVec.ofBool a) (BitVec.ofBool b) (maskMe mask) (maskMk mask) 11#5
  | .vfexp k d t b mask => packV 0x27#6 (BitVec.ofBool k) d 0#5 t 0#1 (BitVec.ofBool b) (maskMe mask) (maskMk mask) 12#5
  | .vflog k d t b mask => packV 0x27#6 (BitVec.ofBool k) d 0#5 t 0#1 (BitVec.ofBool b) (maskMe mask) (maskMk mask) 13#5
  | .vfrec k d t b mask => packV 0x27#6 (BitVec.ofBool k) d 0#5 t 0#1 (BitVec.ofBool b) (maskMe mask) (maskMk mask) 14#5
  | .vfrsq k d t b mask => packV 0x27#6 (BitVec.ofBool k) d 0#5 t 0#1 (BitVec.ofBool b) (maskMe mask) (maskMk mask) 15#5
  | .vfcsgn k d s t a b mask => packV 0x27#6 (BitVec.ofBool k) d s t (BitVec.ofBool a) (BitVec.ofBool b) (maskMe mask) (maskMk mask) 16#5
  | .vfkind k d t b mask => packV 0x27#6 (BitVec.ofBool k) d 0#5 t 0#1 (BitVec.ofBool b) (maskMe mask) (maskMk mask) 17#5
  | .vfaddVX k d x t b mask => packV 0x28#6 (BitVec.ofBool k) d x t 0#1 (BitVec.ofBool b) (maskMe mask) (maskMk mask) 0#5
  | .vfsubVX k d x t b mask => packV 0x28#6 (BitVec.ofBool k) d x t 0#1 (BitVec.ofBool b) (maskMe mask) (maskMk mask) 1#5
  | .vfmulVX k d x t b mask => packV 0x28#6 (BitVec.ofBool k) d x t 0#1 (BitVec.ofBool b) (maskMe mask) (maskMk mask) 2#5
  | .vfmaccVX k d x t b mask => packV 0x28#6 (BitVec.ofBool k) d x t 0#1 (BitVec.ofBool b) (maskMe mask) (maskMk mask) 3#5
  | .vfminVX k d x t b mask => packV 0x28#6 (BitVec.ofBool k) d x t 0#1 (BitVec.ofBool b) (maskMe mask) (maskMk mask) 4#5
  | .vfmaxVX k d x t b mask => packV 0x28#6 (BitVec.ofBool k) d x t 0#1 (BitVec.ofBool b) (maskMe mask) (maskMk mask) 5#5
  | .vfcvtW k d y t b mask => packV 0x29#6 (BitVec.ofBool k) d y t 0#1 (BitVec.ofBool b) (maskMe mask) (maskMk mask) 0#5
  | .vfcvtN k d y t b mask => packV 0x29#6 (BitVec.ofBool k) d y t 0#1 (BitVec.ofBool b) (maskMe mask) (maskMk mask) 1#5
  | .vfcvtFi k d y t b mask => packV 0x29#6 (BitVec.ofBool k) d y t 0#1 (BitVec.ofBool b) (maskMe mask) (maskMk mask) 2#5
  | .vfcvtIf k d y t b mask => packV 0x29#6 (BitVec.ofBool k) d y t 0#1 (BitVec.ofBool b) (maskMe mask) (maskMk mask) 3#5
  | .vcvtI k d y t r b mask => packV 0x29#6 (BitVec.ofBool k) d y t (BitVec.ofBool r) (BitVec.ofBool b) (maskMe mask) (maskMk mask) 4#5
  | .vcvtq k d y t b mask => packV 0x29#6 (BitVec.ofBool k) d y t 0#1 (BitVec.ofBool b) (maskMe mask) (maskMk mask) 5#5
  | .vdeq k d y t b mask => packV 0x29#6 (BitVec.ofBool k) d y t 0#1 (BitVec.ofBool b) (maskMe mask) (maskMk mask) 6#5
  | .vredsum k d s t a b mask => packV 0x2a#6 (BitVec.ofBool k) d s t (BitVec.ofBool a) (BitVec.ofBool b) (maskMe mask) (maskMk mask) 0#5
  | .vredmax k d s t a b mask => packV 0x2a#6 (BitVec.ofBool k) d s t (BitVec.ofBool a) (BitVec.ofBool b) (maskMe mask) (maskMk mask) 1#5
  | .vredmin k d s t a b mask => packV 0x2a#6 (BitVec.ofBool k) d s t (BitVec.ofBool a) (BitVec.ofBool b) (maskMe mask) (maskMk mask) 2#5
  | .vredmaxn k d s t a b mask => packV 0x2a#6 (BitVec.ofBool k) d s t (BitVec.ofBool a) (BitVec.ofBool b) (maskMe mask) (maskMk mask) 3#5
  | .vredminn k d s t a b mask => packV 0x2a#6 (BitVec.ofBool k) d s t (BitVec.ofBool a) (BitVec.ofBool b) (maskMe mask) (maskMk mask) 4#5
  | .vredand k d s t a b mask => packV 0x2a#6 (BitVec.ofBool k) d s t (BitVec.ofBool a) (BitVec.ofBool b) (maskMe mask) (maskMk mask) 5#5
  | .vredor k d s t a b mask => packV 0x2a#6 (BitVec.ofBool k) d s t (BitVec.ofBool a) (BitVec.ofBool b) (maskMe mask) (maskMk mask) 6#5
  | .vfredsum k d s t a b mask => packV 0x2a#6 (BitVec.ofBool k) d s t (BitVec.ofBool a) (BitVec.ofBool b) (maskMe mask) (maskMk mask) 7#5
  | .vfredosum k d s t a b mask => packV 0x2a#6 (BitVec.ofBool k) d s t (BitVec.ofBool a) (BitVec.ofBool b) (maskMe mask) (maskMk mask) 8#5
  | .vfredmax k d s t a b mask => packV 0x2a#6 (BitVec.ofBool k) d s t (BitVec.ofBool a) (BitVec.ofBool b) (maskMe mask) (maskMk mask) 9#5
  | .vfredmin k d s t a b mask => packV 0x2a#6 (BitVec.ofBool k) d s t (BitVec.ofBool a) (BitVec.ofBool b) (maskMe mask) (maskMk mask) 10#5
  | .vfwredsum k d s t a b mask => packV 0x2a#6 (BitVec.ofBool k) d s t (BitVec.ofBool a) (BitVec.ofBool b) (maskMe mask) (maskMk mask) 11#5
  | .vfwredosum k d s t a b mask => packV 0x2a#6 (BitVec.ofBool k) d s t (BitVec.ofBool a) (BitVec.ofBool b) (maskMe mask) (maskMk mask) 12#5
  | .vslup k d x t b mask => packV 0x2b#6 (BitVec.ofBool k) d x t 0#1 (BitVec.ofBool b) (maskMe mask) (maskMk mask) 0#5
  | .vsldn k d x t b mask => packV 0x2b#6 (BitVec.ofBool k) d x t 0#1 (BitVec.ofBool b) (maskMe mask) (maskMk mask) 1#5
  | .vsl1up k d x t b mask => packV 0x2b#6 (BitVec.ofBool k) d x t 0#1 (BitVec.ofBool b) (maskMe mask) (maskMk mask) 2#5
  | .vsl1dn k d x t b mask => packV 0x2b#6 (BitVec.ofBool k) d x t 0#1 (BitVec.ofBool b) (maskMe mask) (maskMk mask) 3#5
  | .vpull k d s t a b mask => packV 0x2b#6 (BitVec.ofBool k) d s t (BitVec.ofBool a) (BitVec.ofBool b) (maskMe mask) (maskMk mask) 4#5
  | .vpush k d s t a b mask => packV 0x2b#6 (BitVec.ofBool k) d s t (BitVec.ofBool a) (BitVec.ofBool b) (maskMe mask) (maskMk mask) 5#5
  | .vcomp k d t b mask => packV 0x2b#6 (BitVec.ofBool k) d 0#5 t 0#1 (BitVec.ofBool b) (maskMe mask) (maskMk mask) 6#5
  | .vappend k d h t b mask => packV 0x2b#6 (BitVec.ofBool k) d h t 0#1 (BitVec.ofBool b) (maskMe mask) (maskMk mask) 7#5
  | .vmerge k d s t a b m => packV 0x2b#6 (BitVec.ofBool k) d s t (BitVec.ofBool a) (BitVec.ofBool b) 1#1 m 8#5
  | .vrank k d t mask => packV 0x2b#6 (BitVec.ofBool k) d 0#5 t 0#1 0#1 (maskMe mask) (maskMk mask) 9#5
  | .vindex k d mask => packV 0x2b#6 (BitVec.ofBool k) d 0#5 0#5 0#1 0#1 (maskMe mask) (maskMk mask) 10#5
  | .mand k d s t => packV 0x2c#6 (BitVec.ofBool k) d s t 0#1 0#1 0#1 0#2 0#5
  | .mor k d s t => packV 0x2c#6 (BitVec.ofBool k) d s t 0#1 0#1 0#1 0#2 1#5
  | .mxor k d s t => packV 0x2c#6 (BitVec.ofBool k) d s t 0#1 0#1 0#1 0#2 2#5
  | .mnot k d t => packV 0x2c#6 (BitVec.ofBool k) d 0#5 t 0#1 0#1 0#1 0#2 3#5
  | .mcount k d t mask => packV 0x2c#6 (BitVec.ofBool k) d 0#5 t 0#1 0#1 (maskMe mask) (maskMk mask) 4#5
  | .mlow k d t mask => packV 0x2c#6 (BitVec.ofBool k) d 0#5 t 0#1 0#1 (maskMe mask) (maskMk mask) 5#5
  | .mpre k d t => packV 0x2c#6 (BitVec.ofBool k) d 0#5 t 0#1 0#1 0#1 0#2 6#5
  | .mmov k d t => packV 0x2c#6 (BitVec.ofBool k) d 0#5 t 0#1 0#1 0#1 0#2 7#5
  | .mset k d => packV 0x2c#6 (BitVec.ofBool k) d 0#5 0#5 0#1 0#1 0#1 0#2 8#5
  | .mclr k d => packV 0x2c#6 (BitVec.ofBool k) d 0#5 0#5 0#1 0#1 0#1 0#2 9#5
  | .vmseqVV k d s t a b mask => packV 0x2d#6 (BitVec.ofBool k) d s t (BitVec.ofBool a) (BitVec.ofBool b) (maskMe mask) (maskMk mask) 0#5
  | .vmsneVV k d s t a b mask => packV 0x2d#6 (BitVec.ofBool k) d s t (BitVec.ofBool a) (BitVec.ofBool b) (maskMe mask) (maskMk mask) 1#5
  | .vmsltVV k d s t a b mask => packV 0x2d#6 (BitVec.ofBool k) d s t (BitVec.ofBool a) (BitVec.ofBool b) (maskMe mask) (maskMk mask) 2#5
  | .vmsleVV k d s t a b mask => packV 0x2d#6 (BitVec.ofBool k) d s t (BitVec.ofBool a) (BitVec.ofBool b) (maskMe mask) (maskMk mask) 3#5
  | .vmsltnVV k d s t a b mask => packV 0x2d#6 (BitVec.ofBool k) d s t (BitVec.ofBool a) (BitVec.ofBool b) (maskMe mask) (maskMk mask) 4#5
  | .vmfeqVV k d s t a b mask => packV 0x2d#6 (BitVec.ofBool k) d s t (BitVec.ofBool a) (BitVec.ofBool b) (maskMe mask) (maskMk mask) 5#5
  | .vmfltVV k d s t a b mask => packV 0x2d#6 (BitVec.ofBool k) d s t (BitVec.ofBool a) (BitVec.ofBool b) (maskMe mask) (maskMk mask) 6#5
  | .vmfle k d s t a b mask => packV 0x2d#6 (BitVec.ofBool k) d s t (BitVec.ofBool a) (BitVec.ofBool b) (maskMe mask) (maskMk mask) 7#5
  | .vmfne k d s t a b mask => packV 0x2d#6 (BitVec.ofBool k) d s t (BitVec.ofBool a) (BitVec.ofBool b) (maskMe mask) (maskMk mask) 8#5
  | .vmseqVX k d x t b mask => packV 0x2e#6 (BitVec.ofBool k) d x t 0#1 (BitVec.ofBool b) (maskMe mask) (maskMk mask) 0#5
  | .vmsneVX k d x t b mask => packV 0x2e#6 (BitVec.ofBool k) d x t 0#1 (BitVec.ofBool b) (maskMe mask) (maskMk mask) 1#5
  | .vmsltVX k d x t b mask => packV 0x2e#6 (BitVec.ofBool k) d x t 0#1 (BitVec.ofBool b) (maskMe mask) (maskMk mask) 2#5
  | .vmsleVX k d x t b mask => packV 0x2e#6 (BitVec.ofBool k) d x t 0#1 (BitVec.ofBool b) (maskMe mask) (maskMk mask) 3#5
  | .vmsgt k d x t b mask => packV 0x2e#6 (BitVec.ofBool k) d x t 0#1 (BitVec.ofBool b) (maskMe mask) (maskMk mask) 4#5
  | .vmsltnVX k d x t b mask => packV 0x2e#6 (BitVec.ofBool k) d x t 0#1 (BitVec.ofBool b) (maskMe mask) (maskMk mask) 5#5
  | .vmfeqVX k d x t b mask => packV 0x2e#6 (BitVec.ofBool k) d x t 0#1 (BitVec.ofBool b) (maskMe mask) (maskMk mask) 6#5
  | .vmfltVX k d x t b mask => packV 0x2e#6 (BitVec.ofBool k) d x t 0#1 (BitVec.ofBool b) (maskMe mask) (maskMk mask) 7#5
  | .vmfgt k d x t b mask => packV 0x2e#6 (BitVec.ofBool k) d x t 0#1 (BitVec.ofBool b) (maskMe mask) (maskMk mask) 8#5
  | .vmv k d t b mask => packV 0x2f#6 (BitVec.ofBool k) d 0#5 t 0#1 (BitVec.ofBool b) (maskMe mask) (maskMk mask) 0#5
  | .vmvxs k d t b => packV 0x2f#6 (BitVec.ofBool k) d 0#5 t 0#1 (BitVec.ofBool b) 0#1 0#2 1#5
  | .vmvsx k d x => packV 0x2f#6 (BitVec.ofBool k) d x 0#5 0#1 0#1 0#1 0#2 2#5
  | .vbcast k d x mask => packV 0x2f#6 (BitVec.ofBool k) d x 0#5 0#1 0#1 (maskMe mask) (maskMk mask) 3#5
  | .vqpop k d q => packV 0x2f#6 (BitVec.ofBool k) d (0#2 ++ q) 0#5 0#1 0#1 0#1 0#2 4#5
  | .vqpush k q t b => packV 0x2f#6 (BitVec.ofBool k) 0#5 (0#3 ++ q) t 0#1 (BitVec.ofBool b) 0#1 0#2 5#5
  | .vnsrd k d => packV 0x2f#6 (BitVec.ofBool k) d 0#5 0#5 0#1 0#1 0#1 0#2 6#5
  | .vnswr k t b => packV 0x2f#6 (BitVec.ofBool k) 0#5 0#5 t 0#1 (BitVec.ofBool b) 0#1 0#2 7#5
  | .vupdSgdm k d s t a b mask => packV 0x30#6 (BitVec.ofBool k) d s t (BitVec.ofBool a) (BitVec.ofBool b) (maskMe mask) (maskMk mask) 0#5
  | .vupdAdamw k d s t a b mask => packV 0x30#6 (BitVec.ofBool k) d s t (BitVec.ofBool a) (BitVec.ofBool b) (maskMe mask) (maskMk mask) 1#5
  | .vsplit k d t b mask => packV 0x30#6 (BitVec.ofBool k) d 0#5 t 0#1 (BitVec.ofBool b) (maskMe mask) (maskMk mask) 2#5
  | .vjoin k d t b mask => packV 0x30#6 (BitVec.ofBool k) d 0#5 t 0#1 (BitVec.ofBool b) (maskMe mask) (maskMk mask) 3#5
  | .tcross k t s u l a b mask => packTT 0x31#6 (BitVec.ofBool k) t s u l (BitVec.ofBool a) (BitVec.ofBool b) (maskMe mask) (maskMk mask) 0#5
  | .tcrossm k t s u l a b mask => packTT 0x31#6 (BitVec.ofBool k) t s u l (BitVec.ofBool a) (BitVec.ofBool b) (maskMe mask) (maskMk mask) 1#5
  | .tcrossI k t s u l a b mask => packTT 0x31#6 (BitVec.ofBool k) t s u l (BitVec.ofBool a) (BitVec.ofBool b) (maskMe mask) (maskMk mask) 2#5
  | .tcrossS k t s u a b mask => packTT 0x31#6 (BitVec.ofBool k) t s u 0#2 (BitVec.ofBool a) (BitVec.ofBool b) (maskMe mask) (maskMk mask) 3#5
  | .tzero k t => packTT 0x32#6 (BitVec.ofBool k) t 0#5 0#5 0#2 0#1 0#1 0#1 0#2 0#5
  | .tmvrow k t x v b mask => packTT 0x32#6 (BitVec.ofBool k) t x v 0#2 0#1 (BitVec.ofBool b) (maskMe mask) (maskMk mask) 1#5
  | .tmvcol k t x v b mask => packTT 0x32#6 (BitVec.ofBool k) t x v 0#2 0#1 (BitVec.ofBool b) (maskMe mask) (maskMk mask) 2#5
  | .trdrow k t x v mask => packTT 0x32#6 (BitVec.ofBool k) t x v 0#2 0#1 0#1 (maskMe mask) (maskMk mask) 3#5
  | .trdcol k t x v mask => packTT 0x32#6 (BitVec.ofBool k) t x v 0#2 0#1 0#1 (maskMe mask) (maskMk mask) 4#5
  | .tcfg k t x => packTT 0x33#6 (BitVec.ofBool k) t x 0#5 0#2 0#1 0#1 0#1 0#2 0#5
  | .tscale k t x => packTT 0x33#6 (BitVec.ofBool k) t x 0#5 0#2 0#1 0#1 0#1 0#2 1#5
  | .tstat k t x => packTT 0x33#6 (BitVec.ofBool k) t x 0#5 0#2 0#1 0#1 0#1 0#2 2#5
  | .loadPerform _ => 0#32
  | .storeDrain => 0#32
  | .amoPerform _ => 0#32
  | .vOperationPerform _ => 0#32
  | .fenceAllComplete => 0#32
  | .subnormalAssist => 0#32
  | .barrierArrival _ _ => 0#32
  | .eventDelivery _ => 0#32
  | .vappendCommit => 0#32
  | .engineStart _ => 0#32
  | .engineUnit _ _ _ _ => 0#32
  | .engineTokenComplete _ => 0#32
  | .absentFaultResolve _ _ _ => 0#32
  | .engineInternalError _ => 0#32
  | .pubFlip _ => 0#32
  | .tokwWatchdog => 0#32
  | .pageMove _ => 0#32
  | .pageWalk _ _ _ _ => 0#32
  | .walkRetry => 0#32
  | .kvPageInComplete _ => 0#32
  | .kvretFrameFree _ => 0#32
  | .chainStart => 0#32
  | .callComplete => 0#32
  | .caskCopyComplete => 0#32
  | .abortUnwind => 0#32
  | .rendezvousMismatch => 0#32
  | .dispatcherWake _ => 0#32
  | .launchRecord _ => 0#32
  | .rerun _ => 0#32
  | .launchEligible _ => 0#32
  | .launchTokenComplete _ => 0#32
  | .placement _ _ _ => 0#32
  | .preload _ _ _ _ => 0#32
  | .aging => 0#32
  | .budgetTick => 0#32
  | .graceWindowEnd => 0#32
  | .yieldResolve => 0#32
  | .preEmption _ _ _ _ => 0#32
  | .divertedArrival _ _ _ _ => 0#32
  | .mergeOnResume _ => 0#32
  | .machineCheck _ => 0#32
  | .hostAccess _ _ _ _ => 0#32
  | .remoteAccess _ _ _ _ _ => 0#32
  | .fabricTimeout _ => 0#32
  | .cellarerWake => 0#32
  | .createContext _ => 0#32
  | .destroyContext _ => 0#32
  | .registerLaunchQueue _ _ => 0#32
  | .unregisterLaunchQueue _ => 0#32
  | .invalidate _ _ => 0#32
  | .mapWindow _ _ _ => 0#32
  | .loadFirmware _ _ => 0#32
  | .strandDisposition _ _ _ _ _ => 0#32
  | .moduleControlWrite _ _ _ => 0#32
  | .coldReset _ => 0#32
  | .functionLevelReset => 0#32
  | .powerClamp _ => 0#32
  | .thermalThrottle _ => 0#32
  | .thermalShutdown _ => 0#32
  | .sensorEvent _ _ => 0#32
  | .spdmRequest _ => 0#32
  | .pldmRequest _ => 0#32
  | .flashErase _ _ => 0#32
  | .illegalInstruction _ => 0#32
  | .engineFaultResolution _ _ => 0#32
  | .firmwareDisposition _ _ => 0#32
  | .firmwarePolicyChange _ _ _ => 0#32
  | .gtsSlewing _ => 0#32
  | .fabricLinkChange _ => 0#32
  | .hostLinkTraining _ _ => 0#32

/-- Whether a word is an instruction (R109), and, where it is not, the check of R110 that it fails. -/
def check (w : IWord) : Except DecodeError Unit :=
  match fields w with
  | none => .error .undefined
  | some false => .error .reserved
  | some true =>
    if w.extractLsb' 26 6 == 0x20#6 && w.getLsbD 25 then .error .convoy
    else if w.extractLsb' 26 6 == 0x17#6 && w.extractLsb' 5 6 == 5#6 && w.extractLsb' 11 5 != 12#5 then .error .queue
    else .ok ()

/-- The instruction that a word holds (R100-R109). An instruction built by Lean's runtime has a bounded tag, which 390
constructors exceed, so this definition is for the kernel: `step` runs the same words through `run`. -/
noncomputable def decode (w : IWord) : Except DecodeError Instr :=
  match check w with
  | .error e => .error e
  | .ok _ =>
    match pick w with
    | some i => .ok i
    | none => .error .undefined

/-- The instruction word that four bytes of memory hold: little-endian (R3, R100). -/
def wordOfBytes (b0 b1 b2 b3 : Byte) : IWord := b3 ++ b2 ++ b1 ++ b0

/-- Byte `n` of an instruction word as memory stores it (R3, R100). -/
def byteOfWord (w : IWord) (n : Nat) : Byte := w.extractLsb' (8 * n) 8

/-- What the decoder reads from an instruction whose bits are `w`, numbered as the opcode table numbers them; every
instruction is one 32-bit word, so bits at and above `nbits` are zero. -/
noncomputable def decodeTableWord (nbits w : Nat) : Option Instr :=
  match decode (BitVec.ofNat 32 (w % 2 ^ nbits)) with
  | .ok i => some i
  | .error _ => none

end Sys2Proof
end

