-- ==== Sys2Proof/Machine/State.lean ====
section
/-!
DEFINITION. The state of a DQ-6400 module, as plain data.

One strand is AT HAND (`me`, with `thr` the thread that steps next); every other strand stands in `peers`. The rules
speak of one strand at a time, and siblings never see each other's registers (chapter "Architectural state"), so the
instructions act on `me`; the module's parts (memory, engines, launches, tables) are shared by all.
-/

namespace Sys2Proof.Machine

/-! ## Threads, queues and pending operations -/

/-- The two threads of a strand (R29). -/
inductive Tid where
  | a
  | x
deriving DecidableEq, Repr

/-- The privilege of a thread (R129). -/
inductive Priv where
  | u
  | s
deriving DecidableEq, Repr

/-- Why a thread does not issue its next instruction (R37 names the wait conditions; the others are issue conditions). A thread that
waited at a barrier or at a `wfi` and looks again still stands there (`barrierAgain`, `interruptAgain`). -/
inductive Wait where
  | none
  | operand
  | queue
  | token
  | barrier
  | barrierAgain
  | fence
  | chain
  | event
  | interrupt
  | interruptAgain
  | walk
  | commands
  | agent
  | stopped
deriving DecidableEq, Repr

/-- One thread of a strand: its registers, program counter, privilege and own-copy CSRs (R46, R56, R58, R64). `wait` says
why it did not issue last; `early` counts the `fence.all` that it has passed without the other thread, since their scope was not in
force (R97), and that the other has not met; `synced` is the address of a `bar.sync` whose arrival is made and which waits (R96); `pend` is the
trap record of a trap that the thread has entered and whose page is moving, so that its write waits (R272, R295). -/
structure Thread where
  regs : Vector Word 32
  pc : Word
  priv : Priv
  lc : Vector Word 6
  lt : Vector Word 6
  tcause : Word
  tval : Word
  tepc : Word
  trec : Word
  halted : Bool
  wait : Wait
  early : Nat
  synced : Option Word
  pend : Option (BitVec 4096)
deriving DecidableEq, Repr

/-- A queue entry: a granule, the fence token it carries, its poison bit (R57, R93, R289). A token is the bound of the
operations it covers: those numbered below it. -/
structure Entry where
  val : Granule
  tok : Option Nat
  poison : Bool
deriving DecidableEq, Repr

/-- A queue: its entries, oldest first, and its closed flag (R57). -/
structure Queue where
  items : List Entry
  closed : Bool
deriving DecidableEq, Repr

/-- A location (R88): a byte of memory at a physical address, a byte of the capability list's copy in a context (R312), a plain byte of a compressed block read through the
aperture (R214; `w` is the bytes of an element, R212), a byte of a strand's scratchpad reservation (R34, R201), or the side of
a twin surface that does not translate, with the cause that an access which samples it takes (R95, R295). -/
inductive Loc where
  | mem (pa : Nat)
  | caps (off : Nat)
  | aperture (pa : Nat) (w : Nat)
  | pad (uid : Nat) (off : Nat)
  | absent (cause : Nat)
deriving DecidableEq, Repr

/-- Where an access goes: its location, and, for a twin surface, the surface record and the location on side 1 (R95,
R208); `pte` is the leaf entry whose dirty bit a write sets when it drains, `alt` that of side 1 (R298), and `pages` the ranges of
the translations it uses (R297). -/
structure Place where
  loc : Loc
  twin : Option (Nat × Loc)
  pte : Option Nat
  alt : Option Nat
  pages : List (Nat × Nat)
deriving DecidableEq, Repr

/-- What a pending A-thread operation does (R90, R117, R122, R94, R95). -/
inductive AKind where
  | load (rd : RegNo) (n : Nat) (sx : Bool) (acq : Bool)
  | store (n : Nat) (v : Word) (rel : Bool)
  | amo (rd : RegNo) (fn : Nat) (n : Nat) (v : Word) (cmp : Word) (acq : Bool) (rel : Bool)
  | sprd (q : Nat) (desc : Vector Word 4) (next : Nat) (count : Nat)
  | spwr (q : Nat) (desc : Vector Word 4) (next : Nat) (count : Nat)
  | cmd (token : Word)
  | pub (token : Word)
deriving DecidableEq, Repr

/-- A pending A-thread operation. `id` is its place in issue order; V operations numbered below `hold` come first
(a popped `fence.va` token, R93). Its order bits are those in force for the case under question (R97). -/
structure AOp where
  id : Nat
  pc : Word
  word : IWord
  kind : AKind
  va : Word
  place : Place
  hold : Nat
deriving DecidableEq, Repr

/-- What a pending V operation does: write a register-file range, write a scale of a scale register, write memory (R91),
or commit the entries that a `vappend` wrote (A2 of R161, with the count it waits for, what it adds, the watermark, the
watcher and the ranges of its entries). -/
inductive VKind where
  | load (bit : Nat) (w : Nat)
  | scale (sc : Nat) (k : Nat)
  | store (w : Nat) (v : Nat)
  | commit (r : Nat) (k : Nat) (wlen : Nat) (watcher : Nat) (slots : List (Loc × Nat))
deriving DecidableEq, Repr

/-- A pending element operation (R91): its number, its instruction's number and address, its place and bit offset, the place
of its second byte where it straddles a page end (R76), its element (for a scale the first of its block), whether its instruction is ordered (`vsxo`), the A-thread operations
it is held behind (a popped `fence.av` token, R93) and the V operations it is held behind (`fence.vv`). -/
structure VOp where
  id : Nat
  ins : Nat
  pc : Word
  kind : VKind
  va : Word
  place : Place
  far : Option Place
  bit : Nat
  elem : Nat
  ordered : Bool
  hold : Nat
  fence : Nat
deriving DecidableEq, Repr

/-- One barrier of a strand: for each thread the arrivals performed, and the arrival that waits for the thread's earlier
operations (R96, R125). `scopes` records which scopes the strand has used (bit 0 die, bit 1 pkg). -/
structure Barrier where
  aDone : Nat
  xDone : Nat
  aPend : Option Nat
  xPend : Option Nat
  scopes : BitVec 2
deriving DecidableEq, Repr

/-- The type state that a vector word works under, and, for a convoy in progress, where its next member stands (R42,
R63). The members of a convoy share what its first word captured, but each begins at the `vstart` and the lane-group
counters that stand when it begins, as if they ran one after another (R42 rule 6; log entry 30). -/
structure Convoy where
  next : Word
  vtype : Word
  vl : Nat
  vstart : Nat
  lgp : Vector Nat 4
  fcsr : Word
  lscale : Word
  tcols : Word
deriving DecidableEq, Repr

/-- An entry of the flight table (R278). -/
structure Flight where
  pc : Word
  word : IWord
  thread : Tid
  order : Nat
  rm : BitVec 3
  lscale : BitVec 8
  progress : Nat
  len : Nat
  op0 : Word
  op1 : Word
  op2 : Word
  lgp : Vector Nat 4
deriving DecidableEq, Repr

/-- What a `vlkv` that runs in parts keeps from one to the next (R148; log entry 60): the block as it read it, `kvpos` as it
began, whether it has read an entry and the data of a token, the pages counted for it (R300), and, for its history entry, the lowest
and the highest address it accessed and the elements that were active (R292). -/
structure KvNote where
  block : Nat
  start : Word
  entry : Bool
  token : Bool
  pages : List Nat
  span : Option (Nat × Nat)
  active : Nat
deriving DecidableEq, Repr

/-- What a vector word that was stopped part way keeps beside its flight-table entry: its address, the number of its operations,
under which the sides of the twin surfaces that it reads are sampled once (R95), the hyperparameters that a `vupd` word read
at issue (R178, R278), the marked registers that it has written so far and the `vstart` at its issue (R51), whether it is the handler's own word, stopped in S mode
(R274, R285), and what a `vlkv` keeps. -/
structure Stopped where
  pc : Word
  ins : Nat
  extra : List Word
  marks : BitVec 32
  start : Nat
  system : Bool
  kv : Option KvNote
deriving DecidableEq, Repr

/-- What a trap records. -/
structure Trap where
  cause : Nat
  sub : Nat
  tval : Word
  tepc : Word
  pages : List Word
  more : Bool
  resume : Bool
deriving DecidableEq, Repr

/-- What follows once the X-thread's words in flight have stopped, where that is no pre-emption: the `yield` of the A-thread (R38), or
the trap of the word before them (R274), whose entry has the `vstart` and the counters that it leaves, with the convoy it began in. -/
inductive Ending where
  | yield
  | trap (t : Trap) (f : Flight) (conv : Option Convoy)
deriving DecidableEq, Repr

/-- A `vappend` between A1 and its retirement (R161): its address, what it will write to xd, the addresses of its history entry, and
whether A2 is performed. -/
structure Append where
  pc : Word
  count : Nat
  first : Nat
  last : Nat
  done : Bool
deriving DecidableEq, Repr

/-- The states of R37 that a strand's record must tell apart; ready, running and waiting are derived from its threads.
`discarded` is a strand that has ended so and whose issued operations still count for its launch (R262). `void` is no strand at all: a
slot that holds nothing, or the strand at hand of a module that has placed none. -/
inductive Status where
  | void
  | unborn
  | placed
  | yielded
  | suspended
  | faulted
  | retired
  | discarded
deriving DecidableEq, Repr

/-- A strand: its identity, its resources, its context of R64 except the vector and tile state, which its slot and its
core hold (R279). `resuming` says that the X-thread's held entries run before its next fetch, `resumeAt` that they run after
the instruction at hand, with the address fetched then (R274); `kept` names the barriers whose phase counters a suspended
strand keeps, each with the phases that were complete then (R283); `stop` is a pre-emption that stops the next vector
instructions part way, each at the lane-group counts given for it (R277), `stopping` that one of them has stopped and the next
may, and `ahead` names the vector words that are in flight behind the next one when it traps or is stopped, each by the counts
at which it would stop (R274); `stopped` goes with the entries of the flight table, in order, and `restarts` is that of an entry whose
word has trapped and is restarted by the return (R274, R277); `ending` says what `stop` is for, where it is no pre-emption; `readyAt` is the time at which it
became ready to issue (R40); `half` is the half of the core's
scratchpad in which its reservation lies, none where it lies in both (R267); `waitTok` is the token that a `tokw` waits for,
with the time since when (R185). -/
structure Strand where
  uid : Nat
  status : Status
  ctx : Nat
  launch : Word
  die : Nat
  core : Nat
  slot : Nat
  eidx : Nat
  jidx : Nat
  cls : Nat
  vregs : BitVec 2
  ntiles : Nat
  scratch : Nat
  lanestore : Nat
  budget0 : Nat
  save : Option Nat
  bound : List Nat
  a : Thread
  x : Thread
  fcsr : Word
  lscale : Word
  tcols : Word
  kvpos : Word
  subn : Word
  xstate : Word
  event : Bool
  budget : Nat
  ydl : Word
  cfd : Nat
  cf : Vector Word 16
  queues : Vector Queue 13
  avTok : Vector (Option Nat) 13
  anext : Nat
  vnext : Nat
  vins : Nat
  aops : List AOp
  vops : List VOp
  ahold : Nat
  vhold : Nat
  vfence : Nat
  samples : List (Nat × Nat × Bool)
  sevs : List (Tid × Nat × Word)
  waitTok : Option (Word × Word)
  append : Option Append
  bars : Vector Barrier 8
  kept : List (Nat × Nat)
  conv : Option Convoy
  savedConv : Option Convoy
  /-- Of each live frame, innermost first: the slot that holds the first state of its segment, and the step to reverse next (R235). -/
  plans : List (Nat × Nat)
  chA : Option (IWord × Word)
  chX : Option (IWord × Word)
  assists : Nat
  resuming : Bool
  resumeAt : Option Word
  stop : List (Vector Nat 4)
  stopping : Bool
  stopped : List Stopped
  restarts : Option Stopped
  ending : Option Ending
  ahead : List (Vector Nat 4)
  readyAt : Word
  half : Option Bool
  pad : List Host.Cell
  lanes : List Host.Cell
  since : Word
  /-- How many of the noted old code words (R112) stood when the strand was placed. -/
  codeSeen : Nat
deriving DecidableEq, Repr

/-- The vector unit's state of one strand slot (R48-R55, R59-R61, R279): the owner and the registers. The register
file, the masks, the scales and the residues are bit strings (R50, R52, R54, R55). `dirty` is `vdirty`, which describes
the slot's contents, and `flight` holds the X-thread entries of the flight table (R278, R279). -/
structure VecUnit where
  owner : Option Nat
  regs : BitVec 524288
  marks : BitVec 32
  vl : Nat
  vtype : Word
  vstart : Nat
  vcfg : BitVec 2
  lgp : Vector Nat 4
  masks : Vector (BitVec 131072) 4
  scales : Vector (BitVec 8192) 4
  ns : Vector (BitVec 32) 16
  dirty : Word
  flight : List Flight
deriving DecidableEq, Repr

/-- One tile of a core (R33, R53): its holder and its name there, its header and its cells (cell (r, c) at bits
32 (128 r + c) and up). -/
structure Tile where
  holder : Option (Nat × Nat)
  header : BitVec 32
  cells : BitVec 524288
deriving DecidableEq, Repr

/-! ## The module -/

/-- A cached translation (R296): where it is cached, its range and the leaf entry's bits. -/
structure TlbEntry where
  die : Nat
  core : Option Nat
  ctx : Nat
  va : Nat
  size : Nat
  leaf : Word
  pte : Nat
deriving DecidableEq, Repr

/-- A live context: its number, the descriptor as last read (R317) and what firmware has set for it (R290). -/
structure Context where
  num : Nat
  descPa : Nat
  desc : BitVec 1024
  watchdog : Option Nat
deriving DecidableEq, Repr

/-- A registered launch queue (R257, R258): `tail` is the tail that the dispatcher read last. -/
structure LaunchQueue where
  num : Nat
  desc : Nat
  head : Word
  tail : Word
  awake : Bool
  stopped : Bool
deriving DecidableEq, Repr

/-- A launch that the dispatcher has taken and not yet completed (R258-R262, R270). `eligible` is the `gts` value of its
eligibility; `cause` is the cause of the first fault of a strand of it, `lost` says that a strand was discarded after one. -/
structure Launch where
  token : Word
  ctx : Nat
  queue : Nat
  pos : Nat
  record : BitVec 1024
  waits : List Word
  eligible : Option Word
  expanded : Bool
  cause : Option Nat
  lost : Bool
  aging : Nat
  /-- The strands it has ever made (R262, R270). -/
  uids : List Nat
deriving DecidableEq, Repr

/-- A surface record (R206), with its number and its physical address. -/
structure Surf where
  n : Nat
  addr : Nat
  base : Nat
  len : Nat
  alt : Nat
  replica : Nat
  etype : Nat
  flags : Nat
  side : Bool
  seq : Nat
deriving DecidableEq, Repr

/-- An accepted engine command (R94, R181-R199, R226-R228): what it keeps of its issue, where it stands and what it has
done. `kind` is the ENG function number, or 16 for a tier transfer of the KV agent. -/
structure Cmd where
  token : Word
  kind : Nat
  uid : Nat
  ctx : Nat
  die : Nat
  scope : BitVec 2
  flags : BitVec 3
  priv : Priv
  block : BitVec 512
  /-- Its number among the A-thread's operations, and the V operations that popped tokens hold it behind. -/
  aop : Nat
  hold : Nat
  /-- The surfaces it writes, with the sequence numbers it took (R192), and the records of its context as they stood when it was
  accepted (R207). -/
  surfs : List (Nat × Nat)
  recs : List Surf
  started : Bool
  /-- A collective member that has completed, or was rejected, is kept until its group is done (R196). -/
  done : Bool
  rejected : Bool
  /-- The visible sides that it sampled: of the surfaces it writes, at its start, and of each surface it reads (R95). -/
  destSides : List (Nat × Bool)
  samples : List (Nat × Bool)
  /-- The pages counted for it (R300), and those whose error it has reported (R288). -/
  pages : List Nat
  errs : List Nat
  /-- Granules popped from an index queue and from a value queue, with their poison (R193, R194, R289). -/
  popped : List (Granule × Bool)
  vals : List (Granule × Bool)
  /-- The members of its group, or the pages it moves. -/
  table : List Word
  /-- Read units performed and not yet written: unit, bytes and their poison. -/
  held : List (Nat × List (BitVec 8 × Bool))
  written : List Nat
  next : Nat
  /-- The unit at which it is paused (twice its number, plus 1 for a write), with the cause and the address (R186). -/
  paused : Option (Nat × Nat × Word)
  /-- The entry of its strand's absent-fault queue that its fault stands in (R287). -/
  absent : Option Nat
  /-- What the surface records take at its completion: of each page moved, the record, the tiers it left and reached and how many
  pages it holds (R191, R207); and the addresses of the whole pages written into tier 1 (R207, R209, R211). -/
  moved : List (Surf × Nat × Nat × Nat)
  flashed : List Word
  /-- The page being moved: its entry's address, the leaf and its size (R302). -/
  moving : Option (Nat × Word × Nat)
  /-- The first free value that stands for what other modules contribute. -/
  base : Nat
  poisoned : Bool
  fpflags : BitVec 5
  /-- The strands whose pending-event bit its completion sets (R228). -/
  watchers : List Nat
deriving DecidableEq, Repr

/-- The status of a token whose command has completed: the status word of R184, the address recorded with it, and the `gts`
value of the completion (R261). -/
structure TokenStatus where
  token : Word
  status : Word
  addr : Word
  time : Word
deriving DecidableEq, Repr

/-- A preload of a slot's next launch (R267, R268): the half of the scratchpad it fills with its image and the poisoned granules of that, the generations
of the launches it waits for, the 64-byte lines of code it fetched, and whether a store has reached one of them. -/
structure Preload where
  die : Nat
  core : Nat
  slot : Nat
  launch : Word
  half : Option Bool
  image : List Host.Cell
  poison : List Nat
  gens : List (Word × Nat)
  lines : List Nat
  stale : Bool
deriving DecidableEq, Repr

/-- A report that reaches the outside world: an MSI-X vector, a firmware event, a PLDM event, an SPDM or PLDM answer, the value
of a read by the host or by another module, or of a read of a BAR (R99, R291, R300, R311, R317, R326, R330). -/
inductive Report where
  | msix (vector : Nat)
  | firmware (event : Nat)
  | faulted (ctx : Nat) (source : Nat) (cause : Nat) (addr : Word)
  | engineFault (ctx : Nat) (token : Word) (cause : Nat) (addr : Word)
  | queueStopped (queue : Nat)
  | pldmEvent (sensor : Nat)
  | spdm (index : Nat) (value : BitVec 384) (signature : List Byte)
  | certificates (chain : List Byte)
  | pldm (sensor : Nat) (value : Nat)
  | inventory (part : Word) (stepping : Word) (version : BitVec 32)
  | readValue (pa : Nat) (n : Nat) (value : Nat) (poison : Bool)
  | barValue (bar : Nat) (offset : Nat) (n : Nat) (value : Nat)
deriving DecidableEq, Repr

/-- The running firmware (R323-R325): whether an image is loaded, whether the last verification failed, its digest, and
the policy that firmware has set: its own words, the fabric timeout in microseconds, the migration policy, and how often a read of
a replica is tried (R288). The classes, budgets and watchdog limits that it sets stand where they act. -/
structure Firmware where
  loaded : Bool
  lastFailed : Bool
  version : BitVec 32
  digest : BitVec 384
  policy : BitVec 384
  fabricTimeout : Nat
  migration : Word
  replicaRetry : Nat
deriving DecidableEq, Repr

/-- Power, clock, link and fabric state (R311, R314, R320, R322, R329, R330), what identifies the module, and what the flash
controllers keep of their erase blocks: how many pages were written since its last erase, by block number 262144 stack + block, and
the (stack, block) of those that were retired with no spare to replace them (R211, R332). -/
structure Platform where
  clamped : Bool
  hot : Bool
  clock : Nat
  sensors : List (Nat × Nat)
  fabricUp : Bool
  moduleNo : Nat
  linkWidth : Nat
  linkSpeed : Nat
  windows : List (Nat × Nat × Nat)
  partNo : Word
  stepping : Word
  domainSize : Nat
  flashUsed : List (Nat × Nat)
  flashGone : List (Nat × Nat)
deriving DecidableEq, Repr

/-- An agent of the memory model (R84, R86), as far as a scope can tell it from another: the threads and V pipes of a core, the
engines and the KV agent of a die, a Gleaner, an agent of the module beyond the dies (the I/O die, a dispatcher, the Cellarer, the
host), or another module. -/
inductive Agent where
  | core (die : Nat) (core : Nat)
  | engine (die : Nat)
  | gleaner (stack : Nat)
  | module
  | remote (num : Nat)
deriving DecidableEq, Repr

/-- One input: which thread of which strand steps next, an event of the table, or a choice of what the rules leave to the
environment: the agents of the case under question (R97), the words in flight behind the next X-thread word of a strand (R274,
R277), the S-mode runtime's forwarding of a thread's page fault (R301), and a corrected memory error (R331). -/
inductive Input where
  | turn (uid : Nat) (t : Tid)
  | event (i : Instr)
  | agents (l : List Agent)
  | flying (uid : Nat) (ahead : List (Vector Nat 4))
  | forward (uid : Nat) (t : Tid)
  | corrected (sram : Bool)
deriving DecidableEq, Repr

/-- The machine's state. -/
structure State where
  /-- The strand at hand and its thread at hand. -/
  me : Strand
  thr : Tid
  /-- The vector unit of the slot of the strand at hand. -/
  vu : VecUnit
  /-- Every other strand. -/
  peers : List Strand
  /-- The vector units of the other slots, by slot number 64 die + 4 core + slot. -/
  vus : List (Nat × VecUnit)
  /-- The tiles, by tile number 256 die + 16 core + tile; one not listed is zero and held by nobody. -/
  tiles : List (Nat × Tile)
  /-- Physical memory, in canonical form. -/
  mem : List Host.Cell
  /-- The 16-byte granules of memory that are poisoned, and those of scratchpads (strand, granule). -/
  poison : List Nat
  padPoison : List (Nat × Nat)
  /-- The block descriptors of compressed blocks, by block address; one not listed is 0 (R212). -/
  blocks : List (Nat × Nat)
  gts : Word
  tlb : List TlbEntry
  contexts : List Context
  queues : List LaunchQueue
  launches : List Launch
  /-- The generation of each launch that was ever rerun (R268, R270); one not listed is 0. -/
  gens : List (Word × Nat)
  cmds : List Cmd
  statuses : List TokenStatus
  /-- The last serial number given out by each context and source (R183). -/
  serials : List (Nat × Nat × Nat)
  preloads : List Preload
  /-- Round-robin and uid counters. -/
  nextUid : Nat
  /-- The module control block (R318): cmdring, fct, holdoff and sixteen regions of base, length and first record. -/
  cmdring : Word
  fct : Word
  holdoff : BitVec 32
  regions : Vector (Nat × Nat × Nat) 16
  /-- The command ring's saved head, and whether its tail line was written. -/
  cmdHead : Word
  /-- The vector-history rings: entries ever written, and the entries, per core (R292). -/
  rings : List (Nat × Nat)
  ringEntries : List (Nat × Nat × BitVec 512)
  /-- BAR 4: erase counters by (stack, block), error counters in the order of R331, poison log, overruns, spare. -/
  erases : List (Nat × Nat × Nat)
  /-- Where the flash controllers keep the tier-1 pages that were written: page number, stack and erase block (R211). -/
  flash : List (Nat × Nat × Nat)
  counters : Vector Nat 9
  plog : List (Nat × BitVec 256)
  overruns : List (Nat × Nat)
  spares : Vector Nat 4
  firmware : Firmware
  platform : Platform
  reports : List Report
  /-- The module has stopped (R329). -/
  stopped : Bool
  /-- The words of memory that stores have replaced, newest first, with what they were: a fetch of a strand placed before the
  store may still find them (R112). -/
  codeOld : List (Nat × IWord)
  /-- The MODEL'S own: how many instructions have issued since the turn last passed (log entry 49), how many free values have
  been drawn, and what happens next, oldest first. -/
  slice : Nat
  /-- The MODEL'S own: how often in a row the turn has passed over a strand of a lower class (log entry 49). -/
  skips : Nat
  free : Nat
  inputs : List Input
  /-- The agents of the case under question (R97); a scoped constraint is in force when its scope contains them all. -/
  agents : List Agent
  /-- The last arrival at each agent that takes arrivals in ascending (`gts`, source number): agent, time and source. -/
  arrivals : List (Nat × Word × Nat)
  /-- The counter records whose hold of a given end has been answered for (R300): record, `holduntil`. -/
  holds : List (Nat × Nat)
deriving DecidableEq, Repr

/-! ## Outcomes that stop a step -/

/-- A fault stops the machine. It is raised by `step` alone, and it is safe: nothing is claimed of what follows. -/
inductive Fault where
  /-- The module has stopped after a thermal shutdown, and the next input is not a cold reset (R329); safe. -/
  | moduleStopped
deriving DecidableEq, Repr

/-- A refusal: the model gives the instruction no meaning. -/
inductive Refusal where
  /-- Raised by an arm of `exec` whose instruction has no meaning yet; safe. -/
  | notModelled (mnemonic : String)
deriving DecidableEq, Repr

/-! ## Reset -/

/-- A thread of no strand: R65's zero scalar state. -/
def Thread.reset : Thread :=
  { regs := Vector.replicate 32 0, pc := 0, priv := .u, lc := Vector.replicate 6 0, lt := Vector.replicate 6 0,
    tcause := 0, tval := 0, tepc := 0, trec := 0, halted := false, wait := .none, early := 0,
    synced := none, pend := none }

/-- An empty, open queue (R57). -/
def Queue.reset : Queue := { items := [], closed := false }

/-- A barrier that nobody has used. -/
def Barrier.reset : Barrier := { aDone := 0, xDone := 0, aPend := none, xPend := none, scopes := 0 }

/-- A strand with the scalar state of R65 and R58 and no place. -/
def Strand.reset : Strand :=
  { uid := 0, status := .void, ctx := 0, launch := 0, die := 0, core := 0, slot := 0, eidx := 0, jidx := 0, cls := 0,
    vregs := 0, ntiles := 0, scratch := 0, lanestore := 0, budget0 := 0, save := none, bound := [],
    a := Thread.reset, x := Thread.reset, fcsr := 0, lscale := 0, tcols := 128, kvpos := 0, subn := 0,
    xstate := 0, event := false, budget := 0, ydl := 0, cfd := 0,
    cf := Vector.replicate 16 0, queues := Vector.replicate 13 Queue.reset, avTok := Vector.replicate 13 none,
    anext := 0, vnext := 0, vins := 0, aops := [], vops := [], ahold := 0, vhold := 0, vfence := 0, samples := [],
    sevs := [], waitTok := none, append := none, bars := Vector.replicate 8 Barrier.reset, kept := [], conv := none, savedConv := none, plans := [], chA := none, chX := none, assists := 0,
    resuming := false, resumeAt := none, stop := [], stopping := false, stopped := [], restarts := none, ending := none, ahead := [], readyAt := 0, half := none, pad := [], lanes := [], since := 0, codeSeen := 0 }

/-- The vector state of R65: all ones with every mark set, no valid type, zero masks, scales of 1.0, residues +0.0. -/
def VecUnit.reset : VecUnit :=
  { owner := none, regs := BitVec.allOnes 524288, marks := BitVec.allOnes 32, vl := 0, vtype := 0x8000000000000000,
    vstart := 0, vcfg := 0, lgp := Vector.replicate 4 0, masks := Vector.replicate 4 0,
    scales := Vector.replicate 4 (BitVec.ofNat 8192 ((2 ^ 8192 - 1) / 255 * 0x7F)), ns := Vector.replicate 16 0,
    dirty := 0, flight := [] }

/-- A tile with zero cells and a zero header (R65). -/
def Tile.reset : Tile := { holder := none, header := 0, cells := 0 }

/-- No firmware (R327). The fabric timeout is 100 microseconds by default (R321). -/
def Firmware.reset : Firmware :=
  { loaded := false, lastFailed := false, version := 0, digest := 0, policy := 0, fabricTimeout := 100,
    migration := 0, replicaRetry := 1 }

/-- The platform after a cold reset; the values the spec does not give stand in log entry 12. -/
def Platform.reset : Platform :=
  { clamped := false, hot := false, clock := 2500, sensors := [], fabricUp := false, moduleNo := 0, linkWidth := 16,
    linkSpeed := 128, windows := [], partNo := 0, stepping := 0, domainSize := 1, flashUsed := [], flashGone := [] }

/-- The bases and lengths of tiers 0-2, which hardware writes (R318): 1,024 GB, 4 TiB and 8 TiB (R1, R2); the spec gives no
address, log entry 13. -/
def tierRegions : Vector (Nat × Nat × Nat) 16 :=
  ((Vector.replicate 16 (0, 0, 0)).set 0 (0, 1024000000000, 0)).set 1 (2 ^ 44, 2 ^ 42, 15625000) |>.set 2 (2 ^ 45, 2 ^ 43, 15625000 + 2 ^ 26)

/-- The module right after a cold reset (R327): all state clear, firmware included; no strand, no context. -/
def State.reset : State :=
  { me := Strand.reset, thr := .a, vu := VecUnit.reset, peers := [], vus := [], tiles := [], mem := [], poison := [],
    padPoison := [], blocks := [], gts := 0, tlb := [], contexts := [], queues := [], launches := [], gens := [], cmds := [],
    statuses := [], serials := [], preloads := [], nextUid := 1, cmdring := 0, fct := 0, holdoff := 0,
    regions := tierRegions, cmdHead := 0, rings := [], ringEntries := [], erases := [], flash := [],
    counters := (Vector.replicate 9 0).set 7 2048, plog := [], overruns := [], spares := Vector.replicate 4 2048,
    firmware := Firmware.reset, platform := Platform.reset, reports := [], stopped := false, codeOld := [], slice := 0, skips := 0, free := 0, inputs := [],
    agents := [], arrivals := [], holds := [] }

end Sys2Proof.Machine
end

