-- ==== Sys2Proof/Machine/Ops.lean ====
section
/-!
DEFINITION. The named operations of the machine: memory, strands and registers, queues, translation, surfaces, tokens,
reports, and taking an exception and returning from one.
-/

namespace Sys2Proof.Machine

/-- The answer of `exec` and `step`. -/
abbrev Out := Host.Outcome State Fault Refusal

/-! ## Cells: memory in canonical form -/

/-- The byte at an address; an unlisted address reads as 0 (DESIGN CHOICE, log entry 1). -/
def cellGet : List Host.Cell → Nat → Byte
  | [], _ => 0
  | (b, v) :: m, a => if a = b then v else if a < b then 0 else cellGet m a

/-- Writes one byte, keeping the addresses rising and listing no zero byte. -/
def cellSet : List Host.Cell → Nat → Byte → List Host.Cell
  | [], a, v => if v = 0 then [] else [(a, v)]
  | (b, w) :: m, a, v =>
    if a < b then (if v = 0 then (b, w) :: m else (a, v) :: (b, w) :: m)
    else if a = b then (if v = 0 then m else (a, v) :: m)
    else (b, w) :: cellSet m a v

/-- The canonical form of a memory: addresses strictly rising and no zero byte listed. -/
def Memory.wf : List Host.Cell → Bool
  | [] => true
  | [(_, v)] => v != 0
  | (a, v) :: (b, w) :: m => v != 0 && decide (a < b) && Memory.wf ((b, w) :: m)

/-- The little-endian number in the `n` bytes from `a` on (R3). -/
def readLE (get : Nat → Byte) (a : Nat) : Nat → Nat
  | 0 => 0
  | n + 1 => (get a).toNat + 256 * readLE get (a + 1) n

/-- Writes the low `n` bytes of `v` from `a` on, low byte first (R3). -/
def writeLE (m : List Host.Cell) (a : Nat) : Nat → Nat → List Host.Cell
  | 0, _ => m
  | n + 1, v => writeLE (cellSet m a (BitVec.ofNat 8 v)) (a + 1) n (v / 256)

/-- Field of `n` bytes at byte offset `o` of a record held as one number. -/
def field (r : Nat) (o n : Nat) : Nat := r / 2 ^ (8 * o) % 2 ^ (8 * n)

/-- Bit field `hi:lo` of a number. -/
def bits (v : Nat) (hi lo : Nat) : Nat := v / 2 ^ lo % 2 ^ (hi + 1 - lo)

/-- Sign extension of the low `n` bits of a number to 64 bits. -/
def sx (n : Nat) (v : Nat) : Word := (BitVec.ofNat n v).signExtend 64

/-- The signed value of a word. -/
def sint (w : Word) : Int := w.toInt

/-! ## Lookup lists -/

/-- The value a keyed list gives a key. -/
def assoc {β : Type} : List (Nat × β) → Nat → Option β
  | [], _ => none
  | (k, v) :: l, a => if k = a then some v else assoc l a

/-- Sets the value of a key, in place or at the end. -/
def assocSet {β : Type} : List (Nat × β) → Nat → β → List (Nat × β)
  | [], a, v => [(a, v)]
  | (k, w) :: l, a, v => if k = a then (k, v) :: l else (k, w) :: assocSet l a v

/-! ## Strands and threads -/

/-- The thread at hand. -/
def State.cur (s : State) : Thread :=
  match s.thr with
  | .a => s.me.a
  | .x => s.me.x

/-- Replaces the thread at hand. -/
def State.setCur (s : State) (t : Thread) : State :=
  match s.thr with
  | .a => { s with me := { s.me with a := t } }
  | .x => { s with me := { s.me with x := t } }

/-- The program counter of the thread at hand. -/
def State.pc (s : State) : Word := s.cur.pc

/-- The flight-table entry that the X-thread runs again before its next fetch (R274). -/
def State.held (s : State) : Option Flight :=
  match s.thr with
  | .a => none
  | .x => if s.me.resuming then s.vu.flight.head? else none

/-- What the word at hand keeps from its first issue, where it runs again: from the flight table, or, restarted by a return, after
its trap (R274, R277). -/
def State.note (s : State) : Option Stopped :=
  match s.held with
  | some f => s.me.stopped.find? (fun k => k.pc == f.pc)
  | none => s.me.restarts.filter (fun k => s.thr == .x && k.pc == s.cur.pc && k.system == (s.cur.priv == .s))

/-- The number under which the operations of the word at hand are known: that of its first issue, where it runs again. -/
def State.insNo (s : State) : Nat := (s.note.map (·.ins)).getD s.me.vins

/-- The address of the instruction at hand. -/
def State.insPc (s : State) : Word :=
  match s.held with
  | some f => f.pc
  | none => s.cur.pc

/-- Sets the program counter of the thread at hand and lets it issue. -/
def State.setPc (s : State) (p : Word) : State := s.setCur { s.cur with pc := p, wait := .none }

/-- The instruction at hand retires: PC + 4 (R100). -/
def State.retire (s : State) : State := s.setPc (s.cur.pc + 4)

/-- The thread at hand stays at its instruction and waits. -/
def State.waitFor (s : State) (w : Wait) : State := s.setCur { s.cur with wait := w }

/-- The other thread. -/
def Tid.other : Tid → Tid
  | .a => .x
  | .x => .a

/-- A thread of the strand at hand. -/
def Strand.thread (m : Strand) : Tid → Thread
  | .a => m.a
  | .x => m.x

/-- All strands. -/
def State.strands (s : State) : List Strand := s.me :: s.peers

/-- A strand by its identity. -/
def State.strand (s : State) (uid : Nat) : Option Strand := s.strands.find? (fun t => t.uid == uid && t.status != .void)

/-- Changes a strand by its identity. -/
def State.modStrand (s : State) (uid : Nat) (f : Strand → Strand) : State :=
  if s.me.uid = uid then { s with me := f s.me }
  else { s with peers := s.peers.map (fun t => if t.uid = uid then f t else t) }

/-- A strand occupies its slot: it is ready, running, waiting, yielded or faulted (R38). -/
def Strand.resident (m : Strand) : Bool := m.status == .placed || m.status == .yielded || m.status == .faulted

/-- The slot number of a strand (key of `vus`). -/
def Strand.slotNo (m : Strand) : Nat := 64 * m.die + 4 * m.core + m.slot

/-- The agents that have a source number (R322): `d` a die, `c` a core, `s` a slot, `k` a cluster control core, `e` an engine and
`h` an HBM5 stack. -/
inductive Requester where
  | host
  | cellarer
  | moduleDispatcher
  | dieDispatcher (d : Nat)
  | strand (d c s : Nat)
  | cluster (d k : Nat)
  | engine (d e : Nat)
  | gleaner (h : Nat)
deriving DecidableEq, Repr

/-- The source number of an agent (R322). -/
def Requester.number : Requester → Nat
  | .host => 0x0000
  | .cellarer => 0x0001
  | .moduleDispatcher => 0x0002
  | .dieDispatcher d => 0x0010 + d
  | .strand d c s => 0x0100 + 0x100 * d + 4 * c + s
  | .cluster d k => 0x0E00 + 4 * d + k
  | .engine d e => 0x0800 + 0x40 * d + e
  | .gleaner h => 0x0F00 + h

/-- The source number of a strand (R322). -/
def Strand.source (m : Strand) : Nat := (Requester.strand m.die m.core m.slot).number

/-- Brings another strand to hand, with the vector unit of its slot; the strand that was at hand joins the peers. -/
def State.focus (s : State) (uid : Nat) (t : Tid) : State :=
  if s.me.uid = uid then { s with thr := t }
  else
    match s.peers.find? (fun p => p.uid == uid) with
    | none => s
    | some m =>
      let vus := assocSet s.vus s.me.slotNo s.vu
      { s with me := m, thr := t, peers := s.me :: s.peers.filter (fun p => p.uid != uid),
               vu := (assoc vus m.slotNo).getD VecUnit.reset, vus := vus }

/-- The vector unit of a slot. -/
def State.vuOf (s : State) (n : Nat) : VecUnit :=
  if s.me.slotNo = n then s.vu else (assoc s.vus n).getD VecUnit.reset

/-- Replaces the vector unit of a slot. -/
def State.setVuOf (s : State) (n : Nat) (v : VecUnit) : State :=
  if s.me.slotNo = n then { s with vu := v } else { s with vus := assocSet s.vus n v }

/-- A free value (nothing constrains it), and the state in which it has been drawn. -/
def State.drawFree (s : State) : Word × State := (Config.freeWord s.free, { s with free := s.free + 1 })

/-! ## Scopes (R86, R97) -/

/-- An agent lies inside a scope of the strand at hand (R86). -/
def State.inside (s : State) (sc : BitVec 2) (g : Agent) : Bool :=
  match g with
  | .core d c => d == s.me.die && c == s.me.core || d == s.me.die && sc != 0 || 2#2 ≤ sc
  | .engine d => d == s.me.die && sc != 0 || 2#2 ≤ sc
  | .gleaner k => k / 2 == s.me.die && sc != 0 || 2#2 ≤ sc
  | .module => 2#2 ≤ sc
  | .remote n => n == s.platform.moduleNo && 2#2 ≤ sc || sc == 3#2

/-- A scoped constraint is in force: its scope contains every agent of the case under question (R97). -/
def State.inForce (s : State) (sc : BitVec 2) : Bool := s.agents.all (s.inside sc)

/-! ## Physical memory and homes -/

/-- A remote address that names the module itself reaches its own tier 0 (R320). DESIGN CHOICE (log entry 94): a 64-bit field
that holds a physical address is used whole; bits above bit 51 name further addresses, which no region holds. -/
def State.normPa (s : State) (pa : Nat) : Nat :=
  if bits pa 51 51 = 1 && bits pa 50 41 = s.platform.moduleNo then (s.regions[0]).1 + bits pa 40 0 else pa

/-- A physical address is on another module (R320). -/
def State.remote (s : State) (pa : Nat) : Bool := bits pa 51 51 = 1 && bits pa 50 41 != s.platform.moduleNo

/-- The region of the module control block that holds a physical address (R318). -/
def State.regionOf (s : State) (pa : Nat) : Option Nat :=
  (List.range 16).find? (fun k =>
    let r := s.regions.toList.getD k (0, 0, 0)
    decide (r.1 ≤ pa) && decide (pa < r.1 + r.2.1))

/-- The tier of a physical address: the region's number up to 2, else 3 (R209, R318). -/
def State.tierOf (s : State) (pa : Nat) : Nat :=
  if s.remote pa then 0
  else
    match s.regionOf (s.normPa pa) with
    | some k => Nat.min k 3
    | none => 3

/-- The home die of a location (R335). -/
def State.homeDie (s : State) (pa : Nat) : Nat :=
  if s.regionOf (s.normPa pa) = some 0 then (s.normPa pa - (s.regions[0]).1) / 65536 % 8 / 2 else 0

/-- A byte of physical memory. -/
def State.byte (s : State) (pa : Nat) : Byte := cellGet s.mem (s.normPa pa)

/-- A little-endian number of physical memory. -/
def State.readPa (s : State) (pa n : Nat) : Nat := readLE (cellGet s.mem) (s.normPa pa) n

/-- A granule of memory is poisoned. -/
def State.poisonedPa (s : State) (pa : Nat) : Bool := s.poison.contains (s.normPa pa / 16)

/-- Marks or clears the poison of a granule. -/
def State.setPoison (s : State) (pa : Nat) (b : Bool) : State :=
  let g := s.normPa pa / 16
  { s with poison := if b then g :: s.poison.filter (· != g) else s.poison.filter (· != g) }

/-- Writes physical memory. A write of a whole granule clears its poison (DESIGN CHOICE, log entry 6). -/
def State.writePa (s : State) (pa n v : Nat) : State :=
  let p := s.normPa pa
  let s' := { s with mem := writeLE s.mem p n v }
  if n = 16 && p % 16 = 0 then s'.setPoison p false else s'

/-! ## Contexts and page tables -/

/-- A live context. -/
def State.context (s : State) (ctx : Nat) : Option Context := s.contexts.find? (fun c => c.num == ctx)

/-- A field of a context descriptor (R317). -/
def Context.fld (c : Context) (o n : Nat) : Nat := field c.desc.toNat o n

/-- A field of the descriptor of a context number; 0 when it is not live. -/
def State.ctxFld (s : State) (ctx o n : Nat) : Nat :=
  match s.context ctx with
  | some c => c.fld o n
  | none => 0

/-- An address is canonical (R136). -/
def canonical (va : Word) : Bool := va.extractLsb' 57 7 == (if va.getLsbD 56 then 0x7F#7 else 0#7)

/-- What a walk finds (R295). -/
inductive Walk where
  | leaf (entry : Word) (pte : Nat) (size : Nat)
  | moving (entry : Word) (pte : Nat) (size : Nat)
  | invalid
deriving DecidableEq, Repr

/-- A leaf entry at a level whose page has `2^k` bytes (R294, R295). -/
def leafWalk (e : Word) (pte k : Nat) : Walk :=
  if e.extractLsb' 52 12 != 0 || e.extractLsb' 10 6 != 0 || bits e.toNat (k - 1) 16 != 0 && k != 16 then .invalid
  else if e.getLsbD 8 then .moving e pte (2 ^ k)
  else .leaf e pte (2 ^ k)

/-- The next table of a table entry, when the entry is well formed (R294, R295). -/
def tableNext (e : Word) (align : Nat) : Option Nat :=
  if e.extractLsb' 52 12 != 0 || e.extractLsb' 2 7 != 0 then none
  else
    let n := bits e.toNat 51 9 * 512
    if n % align = 0 then some n else none

/-- The walk of R295 from the root of a context's tables: one entry per level, stopping at the first leaf. -/
def State.walkFrom (s : State) (root : Nat) (va : Word) : Walk :=
  let v := va.toNat
  let p3 := root + 8 * bits v 56 43
  let e3 := BitVec.ofNat 64 (s.readPa p3 8)
  if !e3.getLsbD 0 || e3.getLsbD 1 then .invalid
  else
    match tableNext e3 65536 with
    | none => .invalid
    | some t2 =>
      let p2 := t2 + 8 * bits v 42 30
      let e2 := BitVec.ofNat 64 (s.readPa p2 8)
      if !e2.getLsbD 0 then .invalid
      else if e2.getLsbD 1 then leafWalk e2 p2 30
      else
        match tableNext e2 2048 with
        | none => .invalid
        | some t1 =>
          let p1 := t1 + 8 * bits v 29 22
          let e1 := BitVec.ofNat 64 (s.readPa p1 8)
          if !e1.getLsbD 0 then .invalid
          else if e1.getLsbD 1 then leafWalk e1 p1 22
          else
            match tableNext e1 512 with
            | none => .invalid
            | some t0 =>
              let p0 := t0 + 8 * bits v 21 16
              let e0 := BitVec.ofNat 64 (s.readPa p0 8)
              if !e0.getLsbD 0 || !e0.getLsbD 1 then .invalid else leafWalk e0 p0 16

/-- The walk of a virtual address of a context. -/
def State.walk (s : State) (ctx : Nat) (va : Word) : Walk :=
  match s.context ctx with
  | none => .invalid
  | some c => if canonical va then s.walkFrom (c.fld 0 8) va else .invalid

/-- The frame address that a leaf gives a virtual address. -/
def leafPa (leaf : Word) (size : Nat) (va : Word) : Nat := bits leaf.toNat 51 16 * 65536 / size * size + va.toNat % size

/-- Hardware's own translation of a virtual address, through the tables and without permissions. -/
def State.rawPa (s : State) (ctx : Nat) (va : Word) : Option Nat :=
  match s.walk ctx va with
  | .leaf e _ size => some (s.normPa (leafPa e size va))
  | _ => none

/-- The leaf that maps a page, moving or not, with its address and size. -/
def State.leafOf (s : State) (ctx : Nat) (va : Word) : Option (Word × Nat × Nat) :=
  match s.walk ctx va with
  | .leaf e p n => some (e, p, n)
  | .moving e p n => some (e, p, n)
  | .invalid => none

/-- The kinds of access and what each needs (R295); the V pipe's own set no accessed bit at the walk (R298). -/
inductive Acc where
  | load
  | vload
  | store
  | vstore
  | vamo
  | amo
  | fetch
deriving DecidableEq, Repr

/-- The page fault of an access (R295). -/
def Acc.pageFault : Acc → Nat
  | .load => 0x04
  | .vload => 0x04
  | .fetch => 0x04
  | .store => 0x05
  | .vstore => 0x05
  | .vamo => 0x05
  | .amo => 0x05

/-- A leaf permits an access (R295). -/
def permits (leaf : Word) (acc : Acc) (p : Priv) : Bool :=
  (p == .s || !leaf.getLsbD 5) &&
  match acc with
  | .load => leaf.getLsbD 2
  | .vload => leaf.getLsbD 2
  | .store => leaf.getLsbD 3
  | .vstore => leaf.getLsbD 3
  | .vamo => leaf.getLsbD 3 && leaf.getLsbD 2
  | .amo => leaf.getLsbD 3 && leaf.getLsbD 2
  | .fetch => leaf.getLsbD 4

/-- The outcome of a translation. -/
inductive Trans where
  | ok (pa : Nat) (leaf : Word) (pte : Nat) (s : State)
  | fault (cause : Nat)
  | moving

/-- The cached translation that an access uses: of its core's TLB first, when a core makes it, then of its die's (R296). -/
def State.tlbHit (s : State) (ctx die : Nat) (core : Option Nat) (va : Word) : Option TlbEntry :=
  let here (e : TlbEntry) : Bool :=
    e.die == die && e.ctx == ctx && decide (e.va ≤ va.toNat) && decide (va.toNat < e.va + e.size)
  match s.tlb.find? (fun e => here e && e.core.isSome && e.core == core) with
  | some e => some e
  | none => s.tlb.find? (fun e => here e && e.core == none)

/-- Keeps the first `n` entries that satisfy a predicate, and all others. -/
def keepFirst {β : Type} (p : β → Bool) : Nat → List β → List β
  | _, [] => []
  | n, e :: l => if p e then (match n with | 0 => keepFirst p 0 l | k + 1 => e :: keepFirst p k l) else e :: keepFirst p n l

/-- Caches a leaf in the TLB of the core that asked (96 entries) and of its die (16,384), the oldest entry giving way
when one is full (R296; the choice is log entry 3). -/
def State.tlbFill (s : State) (ctx die : Nat) (core : Option Nat) (va leaf : Word) (pte size : Nat) : State :=
  let v := va.toNat / size * size
  let mk (c : Option Nat) : TlbEntry :=
    { die := die, core := c, ctx := ctx, va := v, size := size, leaf := leaf, pte := pte }
  let l := keepFirst (fun e => e.die == die && e.core == none) 16383
    (keepFirst (fun e => e.die == die && e.core.isSome && e.core == core) 95 s.tlb)
  { s with tlb := (core.map (fun c => mk (some c))).toList ++ mk none :: l }

/-- Sets bits of a leaf entry by atomic OR (R298), in memory and in the cached copies. -/
def State.orPte (s : State) (pte : Nat) (b : Nat) : State :=
  let s' := s.writePa pte 8 (Nat.lor (s.readPa pte 8) b)
  { s' with tlb := s'.tlb.map (fun e => if e.pte = pte then { e with leaf := e.leaf ||| BitVec.ofNat 64 b } else e) }

/-- An access whose walk sets the accessed bit as it caches an entry; the V pipe sets it by the scatter of R140 (R298). -/
def Acc.marks : Acc → Bool
  | .vload => false
  | .vstore => false
  | .vamo => false
  | _ => true

/-- The walk of an access that found no usable cached translation: it sets the accessed bit, caches the leaf and
answers the frame, or confirms the fault (R295, R296, R298). -/
def State.walkFor (s : State) (ctx die : Nat) (core : Option Nat) (va : Word) (acc : Acc) (p : Priv) : Trans :=
  match s.walk ctx va with
  | .invalid => .fault acc.pageFault
  | .moving _ _ _ => .moving
  | .leaf e pte size =>
    if permits e acc p then
      let e' := if acc.marks then e ||| 64 else e
      let s' := if e' == e then s else s.orPte pte 64
      .ok (s.normPa (leafPa e size va)) e' pte (s'.tlbFill ctx die core va e' pte size)
    else .fault 0x06

/-- The translation of an access (R293-R298): a cached translation that permits it, and that has the accessed bit where the access
sets it, else a walk. -/
def State.translate (s : State) (ctx die : Nat) (core : Option Nat) (va : Word) (acc : Acc) (p : Priv) : Trans :=
  if !canonical va then .fault acc.pageFault
  else
    match s.tlbHit ctx die core va with
    | some e => if permits e.leaf acc p && (!acc.marks || e.leaf.getLsbD 6) then .ok (s.normPa (leafPa e.leaf e.size va)) e.leaf e.pte s
                else s.walkFor ctx die core va acc p
    | none => s.walkFor ctx die core va acc p

/-- The translation of an access of the strand at hand. -/
def State.translateMe (s : State) (va : Word) (acc : Acc) (p : Priv) : Trans :=
  s.translate s.me.ctx s.me.die (some s.me.core) va acc p

/-! ## Writes by hardware through a context's tables -/

/-- Some byte of a hardware structure of a context lies in a page that is moving, so that the hardware's walk waits (R295). -/
def State.vaMoving (s : State) (ctx : Nat) (va : Word) (n : Nat) : Bool :=
  (List.range ((va.toNat % 65536 + n + 65535) / 65536)).any (fun k =>
    match s.walk ctx (if k = 0 then va else BitVec.ofNat 64 (va.toNat / 65536 * 65536 + 65536 * k)) with
    | .moving _ _ _ => true
    | _ => false)

/-- Reads a hardware structure of a context byte by byte; a byte whose page is not mapped reads as 0. -/
def State.readVa (s : State) (ctx : Nat) (va : Word) (n : Nat) : Nat :=
  readLE (fun i => match s.rawPa ctx (va + BitVec.ofNat 64 i) with | some pa => s.byte pa | none => 0) 0 n

/-- Writes one byte of a hardware structure of a context; a byte whose page is not mapped is dropped. -/
def State.writeVaByte (s : State) (ctx : Nat) (va : Word) (b : Nat) : State :=
  match s.rawPa ctx va with
  | some pa => s.writePa pa 1 b
  | none => s

/-- Writes a hardware structure of a context. -/
def State.writeVa (s : State) (ctx : Nat) (va : Word) : Nat → Nat → State
  | 0, _ => s
  | n + 1, v => (s.writeVaByte ctx va (v % 256)).writeVa ctx (va + 1) n (v / 256)

/-- The save area of a strand (R275, R317). -/
def State.saveArea (s : State) (m : Strand) : Word :=
  match m.save with
  | some i => BitVec.ofNat 64 (s.ctxFld m.ctx 24 8 + 11 * 2 ^ 20 * i)
  | none => 0

/-- The shadow image of a strand: the address that firmware wrote into its save area (R282). -/
def State.shadow (s : State) (m : Strand) : Nat := s.readVa m.ctx (s.saveArea m + 0xFF8) 8

/-! ## The home of a location (R88, R89, R98) -/

/-- The 2-bit code of chunk `c` in the header of a compressed block (R212). -/
def chunkCode (header c : Nat) : Nat := bits header (2 * c + 1) (2 * c)

/-- The bytes that a chunk of a code stores (R212). -/
def chunkSize (code : Nat) : Nat := if code = 0 then 64 else if code = 2 then 1 else 0

/-- The plain byte of a surface whose elements have `w` bytes, from the stored form of its block (R212); `none` when the
block is poisoned (R213). -/
def State.plainByte (s : State) (pa w : Nat) : Option Byte :=
  let p := s.normPa pa
  let block := p / 4096 * 4096
  let o := p % 4096
  let d := (assoc s.blocks block).getD 0
  if d = 0 then some (s.byte p)
  else if 7 < d then none
  else
    let header := s.readPa block 16
    if (List.range 64).any (fun c => chunkCode header c == 3) then none
    else
      let e := o / w
      let c := o % w * (64 / w) + e / 64
      let start := 16 + ((List.range c).map (fun k => chunkSize (chunkCode header k))).sum
      some (match chunkCode header c with
        | 0 => s.byte (block + start + e % 64)
        | 1 => 0
        | _ => s.byte (block + start))

/-- Where a scratchpad byte is: in its strand's reservation, or in the shadow image while the strand is away. -/
def State.padHome (s : State) (uid off : Nat) : Option (Sum Strand Nat) :=
  match s.strand uid with
  | none => none
  | some m => if m.status == .suspended then some (.inr (s.shadow m + off)) else some (.inl m)

/-! ## The capability list (R312-R314) -/

/-- Packs a list of numbers, each of `n` bytes, low first. -/
def packList (n : Nat) : List Nat → Nat
  | [] => 0
  | v :: l => v % 2 ^ (8 * n) + 2 ^ (8 * n) * packList n l

/-- Entry `k` of the list, in 16 bytes. -/
def State.capEntry (s : State) (k : Nat) : Nat :=
  let body1 := match k with
    | 2 => if s.platform.fabricUp then 1 else 0
    | 4 => (if s.firmware.loaded then 1 else 0) + (if s.firmware.lastFailed then 2 else 0)
    | _ => 0
  (k + 1) + 2 ^ 16 * (Config.capVersion k).toNat + 2 ^ 24 * (Config.capLength k).toNat
    + 2 ^ 32 * (if k < 4 then 16 * (k + 1) else 0) + 2 ^ 64 * (Config.capBody0 k).toNat + 2 ^ 96 * body1

/-- The five entries, in order. -/
def State.capList (s : State) : Nat := packList 16 ((List.range 5).map s.capEntry)

/-- The byte of the list at an offset. -/
def State.capByte (s : State) (off : Nat) : Byte := BitVec.ofNat 8 (s.capList / 2 ^ (8 * off))

/-- The offset in the list of an address of a context in which the read-only copy stands (R312, R317; log entry 44). -/
def State.capOffset (s : State) (ctx : Nat) (va : Word) : Option Nat :=
  let base := s.ctxFld ctx 112 8
  if base != 0 && decide (base ≤ va.toNat) && decide (va.toNat < base + 80) then some (va.toNat - base) else none

/-- A byte at the home of a location, `i` bytes on. -/
def State.homeByte (s : State) (l : Loc) (i : Nat) : Byte :=
  match l with
  | .mem pa => s.byte (pa + i)
  | .caps off => s.capByte (off + i)
  | .aperture pa w => (s.plainByte (pa + i) w).getD 0
  | .pad uid off =>
    match s.padHome uid (off + i) with
    | some (.inl m) => cellGet m.pad (off + i)
    | some (.inr pa) => s.byte pa
    | none => 0
  | .absent _ => 0

/-- Location of byte `k` of a place in memory. -/
def Loc.plus (l : Loc) (k : Nat) : Loc :=
  match l with
  | .mem pa => .mem (pa + k)
  | .caps off => .caps (off + k)
  | .aperture pa w => .aperture (pa + k) w
  | .pad u o => .pad u (o + k)
  | .absent c => .absent c

/-- A read at the home. -/
def State.readHome (s : State) (l : Loc) (n : Nat) : Nat := readLE (s.homeByte l) 0 n

/-- Writes a byte at the home, `i` bytes on. Nothing is written through the aperture. -/
def State.writeHomeByte (s : State) (l : Loc) (i : Nat) (b : Nat) : State :=
  match l with
  | .mem pa => s.writePa (pa + i) 1 b
  | .caps _ => s
  | .aperture _ _ => s
  | .pad uid off =>
    match s.padHome uid (off + i) with
    | some (.inl _) => s.modStrand uid (fun m => { m with pad := cellSet m.pad (off + i) (BitVec.ofNat 8 b) })
    | some (.inr pa) => s.writePa pa 1 b
    | none => s
  | .absent _ => s

/-- Writes `n` bytes at the home from the `i`-th on. -/
def State.writeHomeFrom (s : State) (l : Loc) (i : Nat) : Nat → Nat → State
  | 0, _ => s
  | n + 1, v => (s.writeHomeByte l i (v % 256)).writeHomeFrom l (i + 1) n (v / 256)

/-- Marks or clears the poison of the granule at the home of a location. -/
def State.setPoisonAt (s : State) (l : Loc) (b : Bool) : State :=
  match l with
  | .mem pa => s.setPoison pa b
  | .caps _ => s
  | .aperture _ _ => s
  | .absent _ => s
  | .pad uid off =>
    match s.padHome uid off with
    | some (.inl _) =>
      let l' := s.padPoison.filter (· != (uid, off / 16))
      { s with padPoison := if b then (uid, off / 16) :: l' else l' }
    | some (.inr pa) => s.setPoison pa b
    | none => s

/-- The location starts a granule. -/
def Loc.granular : Loc → Bool
  | .mem pa => pa % 16 == 0
  | .pad _ off => off % 16 == 0
  | _ => false

/-- A write at the home. A write of a whole granule clears its poison (log entry 6). -/
def State.writeHome (s : State) (l : Loc) (n v : Nat) : State :=
  let s' := s.writeHomeFrom l 0 n v
  if n = 16 && l.granular then s'.setPoisonAt l false else s'

/-- The plain byte at an address of a compressed block is poisoned: its own granule where the block stands plain, else any
granule of the sectors that hold the block's stored form, or a form that no code gives (R212, R213). -/
def State.blockPoisoned (s : State) (pa w : Nat) : Bool :=
  let p := s.normPa pa
  let block := p / 4096 * 4096
  let d := (assoc s.blocks block).getD 0
  if d = 0 then s.poisonedPa p
  else (s.plainByte pa w).isNone || (List.range (32 * Nat.min d 8)).any (fun g => s.poisonedPa (block + 16 * g))

/-- A byte of an access is poisoned at its home, `i` bytes on (R213, R284, R289). -/
def State.poisonedByte (s : State) (l : Loc) (i : Nat) : Bool :=
  match l with
  | .mem pa => s.poisonedPa (pa + i)
  | .caps _ => false
  | .aperture pa w => s.blockPoisoned (pa + i) w
  | .pad uid off =>
    match s.padHome uid (off + i) with
    | some (.inl _) => s.padPoison.contains (uid, (off + i) / 16)
    | some (.inr pa) => s.poisonedPa pa
    | none => false
  | .absent _ => false

/-- Some byte of an access is poisoned. -/
def State.poisonedAt (s : State) (l : Loc) (n : Nat) : Bool := (List.range n).any (s.poisonedByte l)

/-- Two ranges of bytes overlap. -/
def rangesMeet (a n b m : Nat) : Bool := decide (a < b + m) && decide (b < a + n)

/-- Two accesses touch a common location. -/
def Loc.meets (l : Loc) (n : Nat) (k : Loc) (m : Nat) : Bool :=
  match l, k with
  | .absent _, _ => false
  | _, .absent _ => false
  | .caps _, _ => false
  | _, .caps _ => false
  | .pad u o, .pad v p => u == v && rangesMeet o n p m
  | .pad _ _, _ => false
  | _, .pad _ _ => false
  | .mem a, .mem b => rangesMeet a n b m
  | .mem a, .aperture b _ => rangesMeet (a / 4096 * 4096) (4096 + n) (b / 4096 * 4096) (4096 + m)
  | .aperture a _, .mem b => rangesMeet (a / 4096 * 4096) (4096 + n) (b / 4096 * 4096) (4096 + m)
  | .aperture a _, .aperture b _ => rangesMeet a n b m

/-- The first access covers every byte of the second. -/
def Loc.covers (l : Loc) (n : Nat) (k : Loc) (m : Nat) : Option Nat :=
  match l, k with
  | .pad u o, .pad v p => if u = v && decide (o ≤ p) && decide (p + m ≤ o + n) then some (p - o) else none
  | .mem a, .mem b => if decide (a ≤ b) && decide (b + m ≤ a + n) then some (b - a) else none
  | _, _ => none

/-! ## Surfaces -/

/-- Record `n` of a context's surface table (R206). -/
def State.surfRec (s : State) (ctx n : Nat) : Surf :=
  let r := s.ctxFld ctx 8 8 + 64 * n
  let v := s.readPa r 64
  { n := n, addr := r, base := field v 0 8, len := field v 8 8, alt := field v 16 8, replica := field v 24 8,
    etype := field v 32 1, flags := field v 33 1, side := bits (field v 34 1) 0 0 = 1, seq := field v 36 4 }

/-- Flag bits of a surface record (R206). -/
def Surf.compressed (f : Surf) : Bool := f.flags % 2 = 1
def Surf.twin (f : Surf) : Bool := f.flags / 2 % 2 = 1
def Surf.tiered (f : Surf) : Bool := f.flags / 4 % 2 = 1
def Surf.readmostly (f : Surf) : Bool := f.flags / 8 % 2 = 1
def Surf.hasReplica (f : Surf) : Bool := f.flags / 16 % 2 = 1

/-- The bytes of an element of a compressed surface (R212): its type's width in bytes, or 1. -/
def Surf.elemBytes (f : Surf) : Nat :=
  match f.etype with
  | 0 | 9 | 13 => 4
  | 1 | 2 | 10 | 14 => 2
  | _ => 1

/-- The surfaces of a context, in record order. -/
def State.surfs (s : State) (ctx : Nat) : List Surf := (List.range (s.ctxFld ctx 16 4)).map (s.surfRec ctx)

/-- The surface an address lies in, among records in order: the lowest-numbered record that contains it (R208). -/
def surfIn (l : List Surf) (va : Word) : Option Surf :=
  l.find? (fun f => decide (f.base ≤ va.toNat) && decide (va.toNat < f.base + f.len))

/-- The twin surface whose side-1 range contains an address (R208). -/
def side1In (l : List Surf) (va : Word) : Option Surf :=
  l.find? (fun f => f.twin && decide (f.alt ≤ va.toNat) && decide (va.toNat < f.alt + f.len))

/-- The compressed surface whose decompressing aperture contains an address (R214). -/
def apertureIn (l : List Surf) (va : Word) : Option Surf :=
  l.find? (fun f => f.compressed && decide (f.base + 2 ^ 55 ≤ va.toNat) && decide (va.toNat < f.base + 2 ^ 55 + f.len))

/-- The record that an access samples sides by: the one whose range, or whose aperture, holds the address, with the offset there
and, in the aperture, the bytes of an element (R208, R214). -/
def surfAtIn (l : List Surf) (va : Word) : Option (Surf × Nat × Option Nat) :=
  match surfIn l va with
  | some f => some (f, va.toNat - f.base, none)
  | none => (apertureIn l va).map (fun f => (f, va.toNat - (f.base + 2 ^ 55), some f.elemBytes))

/-- The surface that an address of a context lies in (R208). -/
def State.surfOf (s : State) (ctx : Nat) (va : Word) : Option Surf := surfIn (s.surfs ctx) va

/-- The visible side of a record as it stands now (R95, R206). -/
def State.sideNow (s : State) (f : Surf) : Bool := s.readPa (f.addr + 34) 1 % 2 = 1

/-- The next transfer sequence number of a surface, written into its record (R192, R206). -/
def State.takeSeq (s : State) (f : Surf) : Nat × State :=
  let q := (f.seq + 1) % 2 ^ 32
  (q, s.writePa (f.addr + 36) 4 q)

/-- Sequence number `a` is lower than `b` (R192). -/
def seqLower (a b : Nat) : Bool :=
  let d := (b + 2 ^ 32 - a) % 2 ^ 32
  decide (1 ≤ d) && decide (d < 2 ^ 31)

/-! ## Reports, counters, tokens -/

/-- Adds one to an error counter of R331; counters saturate. -/
def State.bumpCounter (s : State) (k : Nat) : State :=
  { s with counters := s.counters.setIfInBounds k (Nat.min (s.counters.toList.getD k 0 + 1) (2 ^ 64 - 1)) }

/-- Sends a report. -/
def State.report (s : State) (r : Report) : State := { s with reports := s.reports ++ [r] }

/-- Raises a context's notification: its MSI-X vector, or its firmware event (R300, R317). -/
def State.notify (s : State) (ctx : Nat) : State :=
  if s.ctxFld ctx 22 2 % 2 = 1 then s.report (.firmware (s.ctxFld ctx 122 2)) else s.report (.msix (s.ctxFld ctx 120 2))

/-- Writes a migration request record, or counts it as dropped when the ring is full (R301, R317). -/
def State.migRequest (s : State) (ctx : Nat) (va : Word) (src kind : Nat) : State :=
  match s.context ctx with
  | none => s
  | some c =>
    let cap := c.fld 64 4
    let prod := s.readPa (c.descPa + 68) 4
    let cons := s.readPa (c.descPa + 72) 4
    if cap = 0 || decide (cap ≤ (prod + 2 ^ 32 - cons) % 2 ^ 32) then
      s.writePa (c.descPa + 76) 4 (s.readPa (c.descPa + 76) 4 + 1)
    else
      let r := va.toNat / 65536 * 65536 + 2 ^ 64 * s.gts.toNat + 2 ^ 128 * src + 2 ^ 144 * ctx + 2 ^ 160 * kind
        + 2 ^ 168 * (if kind = 2 || kind = 3 then 3 else 0)
      ((s.writePa (c.fld 56 8 + 32 * (prod % cap)) 32 r).writePa (c.descPa + 68) 4 (prod + 1)).notify ctx

/-- The counter record of a physical address, when there is one (R299, R318). -/
def State.counterRec (s : State) (pa : Nat) : Option Nat :=
  if s.fct = 0 then none
  else
    match s.regionOf (s.normPa pa) with
    | none => none
    | some k =>
      let r := s.regions.toList.getD k (0, 0, 0)
      some (s.fct.toNat + 16 * (r.2.2 + (s.normPa pa - r.1) / 65536))

/-- The frame of a counter record is held (R299, R304). -/
def State.heldFrame (s : State) (pa : Nat) : Bool :=
  match s.counterRec pa with
  | none => false
  | some r => decide (s.gts.toNat < s.readPa (r + 8) 8)

/-- Counts one access at a frame's home (R300): `host` tells the requester's kind, `va` is the page it named. A crossing
of the threshold raises a request unless the frame is held; where the count stands at or above its threshold when the hold ends,
the first access after that raises it. -/
def State.countAccess (s : State) (pa : Nat) (va : Word) (src : Nat) (host : Bool) : State :=
  match s.counterRec pa with
  | none => s
  | some r =>
    let o := r + (if host then 2 else 0)
    let old := s.readPa o 2
    let new := Nat.min (old + 1) 65535
    let s' := s.writePa o 2 new
    let ctx := s.readPa (r + 4) 2
    let thr := s.ctxFld ctx (if host then 38 else 36) 2
    let held := s.readPa (r + 8) 8
    let ended := decide (held ≤ s.gts.toNat)
    let first := ended && held != 0 && !s.holds.contains (o, held)
    let s1 := if first then { s' with holds := (o, held) :: s.holds.filter (fun e => e.1 != o) } else s'
    let crossed := decide (old < thr) && decide (thr ≤ new)
    let after := first && decide (thr ≤ old)
    if bits (s.readPa (r + 6) 1) 0 0 = 1 && thr != 0 && ended && (crossed || after) then
      s1.migRequest ctx va src (if host then 2 else 1)
    else s1

/-- The first `n` distinct elements of a list, in order. -/
def dedupNat : List Nat → List Nat
  | [] => []
  | a :: l => a :: (dedupNat l).filter (· != a)

/-- A token of R183. -/
def mkToken (ctx src serial : Nat) : Word := BitVec.ofNat 64 (ctx * 2 ^ 48 + src * 2 ^ 32 + serial)

def tokenCtx (t : Word) : Nat := bits t.toNat 63 48
def tokenSrc (t : Word) : Nat := bits t.toNat 47 32
def tokenSerial (t : Word) : Nat := bits t.toNat 31 0

/-! ## Arrivals at an agent in ascending time and source number (R192, R220, R284) -/

/-- The keys of the agents that order their arrivals: a surface record, a die's KV agent, the shadow image of a strand. -/
def surfKey (f : Surf) : Nat := 4 * f.addr
def kvKey (die : Nat) : Nat := 4 * die + 1
def shadowKey (uid : Nat) : Nat := 4 * uid + 2

/-- The place of a source number of a module among the arrivals of one `gts` value: by module number, then by source number (R322). -/
def sourceRank (m src : Nat) : Nat := 65536 * m + src

/-- An arrival of a rank keeps the order: none of a higher rank was taken at this `gts` value. -/
def State.rankInTurn (s : State) (key rank : Nat) : Bool :=
  s.arrivals.all (fun e => e.1 != key || e.2.1 != s.gts || decide (e.2.2 ≤ rank))

/-- Notes an arrival of a rank. -/
def State.tookRank (s : State) (key rank : Nat) : State :=
  { s with arrivals := (key, s.gts, rank) :: s.arrivals.filter (fun e => e.1 != key) }

/-- An arrival from a source of this module keeps the order. -/
def State.inTurn (s : State) (key src : Nat) : Bool := s.rankInTurn key (sourceRank s.platform.moduleNo src)

/-- Notes an arrival from a source of this module. -/
def State.took (s : State) (key src : Nat) : State := s.tookRank key (sourceRank s.platform.moduleNo src)

/-- The last serial number of a context and source; 0 when it has given none out. -/
def State.lastSerial (s : State) (ctx src : Nat) : Nat :=
  ((s.serials.find? (fun e => e.1 == ctx && e.2.1 == src)).map (fun e => e.2.2)).getD 0

/-- A new token: serial numbers count from 1 and wrap to 1 (R183). -/
def State.newToken (s : State) (ctx src : Nat) : Word × State :=
  let n := if s.lastSerial ctx src = 2 ^ 32 - 1 then 1 else s.lastSerial ctx src + 1
  (mkToken ctx src n,
   { s with serials := (ctx, src, n) :: s.serials.filter (fun e => !(e.1 == ctx && e.2.1 == src)) })

/-- The status word of R184. -/
def statusWord (st cause : Nat) (flags : BitVec 5) : Word := BitVec.ofNat 64 (st + 256 * flags.toNat + 65536 * cause)

/-- The state of a status word. -/
def statusState (w : Word) : Nat := bits w.toNat 2 0

/-- A token's command or launch has not completed. -/
def State.pendingToken (s : State) (t : Word) : Bool :=
  s.cmds.any (fun c => c.token == t && !c.done) || s.launches.any (fun l => l.token == t)

/-- The status of a token and the address recorded with it: pending, kept, or, for the null token, a token never issued
and a status no longer kept, complete (R183-R185). -/
def State.tokenStatus (s : State) (t : Word) : Word × Word :=
  if t = 0 then (1, 0)
  else if s.pendingToken t then (0, 0)
  else
    match s.statuses.find? (fun e => e.token == t) with
    | some e => (e.status, e.addr)
    | none => (1, 0)

/-- The `gts` value at which a token completed, where its status still stands (R261). -/
def State.tokenTime (s : State) (t : Word) : Option Word := (s.statuses.find? (fun e => e.token == t)).map (·.time)

/-- A token completes (R184): its status is kept until 65,536 later commands of its context and source complete. A member
of a collective stays for the others to read (R196). -/
def State.completeToken (s : State) (t : Word) (st cause : Nat) (flags : BitVec 5) (addr : Word) : State :=
  let same (e : TokenStatus) : Bool := tokenCtx e.token == tokenCtx t && tokenSrc e.token == tokenSrc t
  { s with
    cmds := s.cmds.filterMap (fun c => if c.token != t then some c else if c.kind = 5 then some { c with done := true } else none)
    launches := s.launches.filter (fun l => l.token != t)
    statuses := { token := t, status := statusWord st cause flags, addr := addr, time := s.gts } ::
      keepFirst same 65535 (s.statuses.filter (fun e => e.token != t)) }

/-! ## Faulted strands -/

/-- A strand becomes faulted and is reported to its context's fault handler (R38, R291); a grace window ends (R264). A machine
check is counted (R331). -/
def State.makeFaulted (s : State) (uid cause : Nat) (addr : Word) : State :=
  match s.strand uid with
  | none => s
  | some m =>
    if m.status == .retired || m.status == .discarded then s
    else
      let s' := s.modStrand uid (fun t => { t with status := .faulted, ydl := 0 })
      let s' := { s' with launches := s'.launches.map (fun (l : Launch) =>
        if l.token = m.launch && l.cause.isNone then { l with cause := some cause } else l) }
      let s' := if cause = 0x13 then s'.bumpCounter 4 else s'
      (s'.report (.faulted m.ctx m.source cause addr)).notify m.ctx

/-! ## What a write sets off -/

/-- A write of memory that is performed wakes the dispatcher when it reaches a tail line (R44), and makes stale the
preloads whose code lines it reaches (R267). -/
def State.wrote (s : State) (pa n : Nat) : State :=
  let p := s.normPa pa
  { s with
    queues := s.queues.map (fun q => if rangesMeet q.desc 64 p n then { q with awake := true } else q)
    preloads := s.preloads.map (fun l => if l.lines.any (fun k => rangesMeet k 64 p n) then { l with stale := true } else l) }

/-- The address of entry `k` of the diversion table of a strand (R283). -/
def State.diversionAt (s : State) (m : Strand) (k : Nat) : Word := s.saveArea m + BitVec.ofNat 64 (0x2000 + 32 * k)

/-- Counts a unit that an absent strand's scratchpad receives (R283, R284). -/
def State.countDiverted (s : State) (uid : Nat) : State :=
  match s.strand uid with
  | none => s
  | some m =>
    if m.status == .suspended then
      let a := s.diversionAt m 0 + 24
      s.writeVa m.ctx a 4 (s.readVa m.ctx a 4 + 1)
    else s

/-- The absent strand at whose shadow image a unit for a location is performed (R284). -/
def State.absentHome (s : State) (l : Loc) : Option Nat :=
  match l with
  | .pad uid _ => (s.strand uid).bind (fun m => if m.status == .suspended then some uid else none)
  | _ => none

/-- The home of a location can be reached: no page of the save area that names the shadow image of an absent strand is moving
(R295, R302). -/
def State.homeStill (s : State) (l : Loc) : Bool :=
  match (s.absentHome l).bind s.strand with
  | some m => !s.vaMoving m.ctx (s.saveArea m + 0xFF8) 8
  | none => true

/-- A write, an engine unit or an atomic from a source may reach a location now: those for a shadow image are taken in ascending
(`gts`, source number) (R284). -/
def State.mayReach (s : State) (l : Loc) (src : Nat) : Bool :=
  s.homeStill l &&
  match s.absentHome l with
  | some uid => s.inTurn (shadowKey uid) src
  | none => true

/-- Notes that it did. -/
def State.reached (s : State) (l : Loc) (src : Nat) : State :=
  match s.absentHome l with
  | some uid => s.took (shadowKey uid) src
  | none => s

/-- Notes the words that a write of memory is about to replace: a fetch may find them still (R112). -/
def State.noteCode (s : State) (pa n : Nat) : State :=
  let p := s.normPa pa / 4 * 4
  let old := (List.range ((s.normPa pa % 4 + n + 3) / 4)).map (fun k => (p + 4 * k, BitVec.ofNat 32 (s.readPa (p + 4 * k) 4)))
  { s with codeOld := old ++ s.codeOld }

/-- A write of `n` bytes at the home of a location: the dirty bit of the page (R298), the bytes, and what they set off. -/
def State.performWrite (s : State) (l : Loc) (pte : Option Nat) (n v : Nat) : State :=
  let s0 := match l with
    | .mem pa => s.noteCode pa n
    | _ => s
  let s1 := match pte with | some p => s0.orPte p 128 | none => s0
  let s2 := s1.writeHome l n v
  match l with
  | .mem pa => s2.wrote pa n
  | .aperture pa _ => s2.wrote pa n
  | .pad uid _ => s2.countDiverted uid
  | .caps _ => s2
  | .absent _ => s2

/-- A write of the strand at hand at the home of a location. -/
def State.storeTo (s : State) (l : Loc) (pte : Option Nat) (n v : Nat) : State := (s.performWrite l pte n v).reached l s.me.source

/-- The result of a check made before an effect. -/
inductive Chk (α : Type) where
  | ok (v : α)
  | trap (cause sub : Nat) (tval : Word)
  | stall (w : Wait)

/-- Chains checks. -/
def Chk.bind {α β : Type} (c : Chk α) (k : α → Chk β) : Chk β :=
  match c with
  | .ok v => k v
  | .trap a b t => .trap a b t
  | .stall w => .stall w

/-- A check whose trap names an address of its own. -/
def Chk.at' {α : Type} (c : Chk α) (va : Word) : Chk α :=
  match c with
  | .trap a b _ => .trap a b va
  | d => d

/-! ## Places: where a thread's access goes -/

/-- An address in the range reserved for the scratchpad window (R200). -/
def inWindow (va : Word) : Bool := va.extractLsb' 32 32 == 0xFF000000#32

/-- The strand that a rank of the scratchpad window reaches (R201). -/
def State.rankStrand (s : State) (m : Strand) (rank : Nat) : Option Strand :=
  if rank = m.core % 4 then some m
  else
    s.strands.find? (fun t =>
      t.launch == m.launch && t.die == m.die && t.core == m.core / 4 * 4 + rank && t.slot == m.slot &&
      (t.resident || t.status == .suspended))

/-- A scratchpad access of a strand (R200, R201). -/
def State.padPlace (s : State) (m : Strand) (va : Word) (n : Nat) : Option Loc :=
  let o := va.toNat % 2 ^ 32
  if 2 ^ 25 ≤ o then none
  else
    match s.rankStrand m (o / 2 ^ 23) with
    | none => none
    | some t => if o % 2 ^ 23 + n ≤ t.scratch then some (.pad t.uid (o % 2 ^ 23)) else none

/-- The location that a translated address reaches: the aperture's plain byte when the leaf is an aperture page (R214,
R294). -/
def placeLoc (pa : Nat) (leaf : Word) (w : Nat) : Loc := if leaf.getLsbD 9 then .aperture pa w else .mem pa

/-- An access that writes. -/
def Acc.writes : Acc → Bool
  | .store => true
  | .vstore => true
  | .vamo => true
  | .amo => true
  | _ => false

/-- The range of the cached translation that an access of the strand at hand uses. -/
def State.leafRange (s : State) (va : Word) : List (Nat × Nat) :=
  ((s.tlbHit s.me.ctx s.me.die (some s.me.core) va).map (fun e => (e.va, e.size))).toList

/-- The location of one side of an access, with its leaf's address, or `.absent` with the cause of the fault; a write of a tier-1
page is a store page fault before any protection fault (R209, R273). `none` while the page is moving. -/
def State.sideLoc (s : State) (va : Word) (acc : Acc) (p : Priv) (plain : Option Nat) : Option (Loc × Option Nat × State) :=
  match s.capOffset s.me.ctx va with
  | some o => some (if acc.writes then .absent 0x06 else .caps o, none, s)
  | none =>
  match s.translateMe va acc p with
  | .moving => none
  | .fault c =>
    let slow := match s.rawPa s.me.ctx va with | some pa => acc.writes && s.tierOf pa == 1 | none => false
    some (.absent (if c = 0x06 && slow then 0x05 else c), none, s)
  | .ok pa leaf pte s1 =>
    if acc.writes && s.tierOf pa == 1 then some (.absent 0x05, none, s1)
    else some (match plain with | some w => .aperture pa w | none => placeLoc pa leaf 1, some pte, s1)

/-- The side of a twin surface that an access of the word at hand meets: the one that a vector load has sampled, else the visible one
(R95). -/
def State.sideFor (s : State) (acc : Acc) (f : Surf) : Bool :=
  match acc with
  | .vload => ((s.me.samples.find? (fun e => e.1 == s.insNo && e.2.1 == f.n)).map (·.2.2)).getD f.side
  | _ => f.side

/-- A generic access of a strand (R116, R136, R208, R209, R214, R273): the fault of its translation first, then protection, and
the two sides of a twin surface, its aperture included (DEDUCED, log entry 88). -/
def State.memPlace (s : State) (va : Word) (acc : Acc) (p : Priv) : Chk (Place × State) :=
  let at? := surfAtIn (s.surfs s.me.ctx) va
  let plain := match at? with | some (_, _, w) => w | none => none
  match s.sideLoc va acc p plain with
  | none => .stall .walk
  | some (l0, pte, s1) =>
    let other := match at? with
      | some (f, o, w) => if f.twin then some (f, s1.sideLoc (BitVec.ofNat 64 (f.alt + o)) acc p w) else none
      | none => none
    let barred := (side1In (s.surfs s.me.ctx) va).isSome ||
      (match at? with | some (f, _, w) => f.compressed && w.isNone || acc.writes && (f.twin || w.isSome) | none => false)
    let finish (vis : Loc) (q : Place × State) : Chk (Place × State) :=
      match vis with
      | .absent c => .trap c 0 va
      | .aperture _ _ => if barred || acc.writes then .trap 0x06 0 va else .ok q
      | _ => if barred then .trap 0x06 0 va else .ok q
    match other with
    | none => finish l0 ({ loc := l0, twin := none, pte := pte, alt := none, pages := s1.leafRange va }, s1)
    | some (_, none) => .stall .walk
    | some (f, some (l1, alt, s2)) =>
      let o := (at?.map (fun t => t.2.1)).getD 0
      let ranges := s1.leafRange va ++ s2.leafRange (BitVec.ofNat 64 (f.alt + o))
      finish (if s.sideFor acc f then l1 else l0) ({ loc := l0, twin := some (f.n, l1), pte := pte, alt := alt, pages := ranges }, s2)

/-- An access of `n` bytes by the strand at hand, in its scratchpad window or in generic memory (R200). -/
def State.place (s : State) (va : Word) (n : Nat) (acc : Acc) (p : Priv) : Chk (Place × State) :=
  if inWindow va then
    match s.padPlace s.me va n with
    | none => .trap 0x06 0 va
    | some l => .ok ({ loc := l, twin := none, pte := none, alt := none, pages := [] }, s)
  else s.memPlace va acc p

/-- The visible side of a twin surface of a context (R95). -/
def State.sideOf (s : State) (ctx n : Nat) : Bool := (s.surfRec ctx n).side

/-- The address at which a record of a context is found: that of the visible side of a twin surface (R95, R208). -/
def State.visible (s : State) (ctx : Nat) (va : Word) : Word :=
  match surfIn (s.surfs ctx) va with
  | some f => if f.twin && f.side then BitVec.ofNat 64 (f.alt + (va.toNat - f.base)) else va
  | none => va

/-- Reads `n` bytes of a context, on the side in view where they lie in a twin surface (R208). -/
def State.viewVa (s : State) (ctx : Nat) (va : Word) (n : Nat) : Nat := s.readVa ctx (s.visible ctx va) n

/-- The location that an access performed now reaches, its twin surface's side being sampled now (R95). -/
def State.placeNow (s : State) (ctx : Nat) (p : Place) : Loc :=
  match p.twin with
  | some (n, l1) => if s.sideOf ctx n then l1 else p.loc
  | none => p.loc

/-- A scalar access of the A-thread (R116, R117): alignment, then the place. -/
def State.scalarPlace (s : State) (va : Word) (n : Nat) (acc : Acc) : Chk (Place × State) :=
  if va.toNat % n ≠ 0 then .trap 0x03 0 va else s.place va n acc s.cur.priv

/-- The pieces of a range of `n` bytes that lie in one page each: offset and length. -/
def pagePieces (va : Word) (n : Nat) : List (Nat × Nat) :=
  let k := Nat.min n (65536 - va.toNat % 65536)
  (0, k) :: (List.range ((n - k + 65535) / 65536)).map (fun i => (k + 65536 * i, Nat.min 65536 (n - k - 65536 * i)))

/-- The places of the pieces of a range. -/
def State.placePieces (s : State) (va : Word) (acc : Acc) (p : Priv) : List (Nat × Nat) → Chk (List (Place × Nat × Nat) × State)
  | [] => .ok ([], s)
  | (o, k) :: l =>
    (s.place (va + BitVec.ofNat 64 o) k acc p).bind fun (q, s1) =>
      (s1.placePieces va acc p l).bind fun (qs, s2) => .ok ((q, o, k) :: qs, s2)

/-! ## The hardware's accesses on a strand's behalf -/

/-- What a write comes to: done, a fault and its address, or a wait while a page is moving (R295). -/
inductive HwWrite where
  | ok (s : State)
  | fault (cause : Nat) (va : Word)
  | moving

/-- What a read comes to. -/
inductive HwRead where
  | ok (v : Nat) (s : State)
  | fault (cause : Nat) (va : Word)
  | moving

/-- Writes `n` bytes with the rights of S mode: every byte must translate and permit it, and none may be poisoned (R132,
R272). -/
def State.hwWrite (s : State) (va : Word) (n v : Nat) : HwWrite :=
  match s.placePieces va .store .s (pagePieces va n) with
  | .trap c _ t => .fault c t
  | .stall _ => .moving
  | .ok (qs, s1) =>
    match qs.find? (fun q => s1.poisonedAt (s1.placeNow s1.me.ctx q.1) q.2.2) with
    | some q => .fault 0x09 (va + BitVec.ofNat 64 q.2.1)
    | none => .ok (qs.foldl (fun t q => t.performWrite q.1.loc q.1.pte q.2.2 (v / 2 ^ (8 * q.2.1))) s1)

/-- Reads `n` bytes with the rights of S mode. -/
def State.hwRead (s : State) (va : Word) (n : Nat) : HwRead :=
  match s.placePieces va .load .s (pagePieces va n) with
  | .trap c _ t => .fault c t
  | .stall _ => .moving
  | .ok (qs, s1) =>
    let l (q : Place × Nat × Nat) : Loc := s1.placeNow s1.me.ctx q.1
    match qs.find? (fun q => s1.poisonedAt (l q) q.2.2) with
    | some q => .fault 0x09 (va + BitVec.ofNat 64 q.2.1)
    | none => .ok (qs.foldl (fun v q => v + 2 ^ (8 * q.2.1) * s1.readHome (l q) q.2.2) 0) s1

/-! ## Taking an exception (R129, R271, R272) -/

/-- A trap at the instruction at hand, with no page list. -/
def State.trapAt (s : State) (cause sub : Nat) (tval : Word) : Trap :=
  { cause := cause, sub := sub, tval := tval, tepc := s.insPc, pages := [], more := false, resume := false }

/-- The four lane-group counters as they stand in a record (R272, R278, R281). -/
def packLgp (v : Vector Nat 4) : Nat := packList 4 v.toList

/-- The tile number that a tile name of a strand is bound to. -/
def Strand.tileNo (m : Strand) (j : Nat) : Nat := 256 * m.die + 16 * m.core + m.bound.getD j 0

/-- A tile. -/
def State.tile (s : State) (n : Nat) : Tile := (assoc s.tiles n).getD Tile.reset

/-- Replaces a tile. -/
def State.setTile (s : State) (n : Nat) (t : Tile) : State := { s with tiles := assocSet s.tiles n t }

/-- The holder of the tile bound to name `j`, as R272 records it: its save area with the tile index, or 0. -/
def State.towner (s : State) (m : Strand) (j : Nat) : Nat :=
  if m.ntiles ≤ j then 0
  else
    match (s.tile (m.tileNo j)).holder with
    | some (u, k) => if u = m.uid then 0 else match s.strand u with
        | some o => (s.saveArea o).toNat + k
        | none => 0
    | none => 0

/-- The save area of the owner of the slot's vector state, or 0 (R272). -/
def State.vowner (s : State) (m : Strand) : Nat :=
  match (s.vuOf m.slotNo).owner with
  | some u => if u = m.uid then 0 else match s.strand u with
      | some o => (s.saveArea o).toNat
      | none => 0
  | none => 0

/-- The 512 bytes of the trap record of R272, for the thread at hand. Entries are held while they run again, and while the
instruction that trapped before them is restarted (R274). -/
def State.trapRecord (s : State) (t : Trap) : Nat :=
  let vvalid := s.me.xstate.getLsbD 0
  let waits := s.thr = Tid.x && s.me.resumeAt.isSome && (!(vvalid && s.vu.flight.isEmpty) || s.me.resumeAt != some (t.tepc + 4))
  let held := waits || (s.thr = Tid.x && (t.resume || (vvalid && s.me.resuming && !s.vu.flight.isEmpty)))
  let flags := (if vvalid then 1 else 0) + (if s.thr = Tid.x then 2 else 0) + (if t.more then 4 else 0)
    + (if held then 8 else 0) + (if t.resume then 16 else 0)
  let vec := if vvalid then s.vu.vtype.toNat + 2 ^ 64 * s.vu.vl + 2 ^ 96 * s.vu.vstart + 2 ^ 128 * packLgp s.vu.lgp else 0
  t.cause + 2 ^ 8 * t.sub + 2 ^ 16 * flags + 2 ^ 32 * Nat.min t.pages.length 16
    + 2 ^ 64 * t.tval.toNat + 2 ^ 128 * t.tepc.toNat
    + 2 ^ 192 * (if waits then (s.me.resumeAt.getD 0).toNat else if held then s.me.x.pc.toNat else t.tepc.toNat)
    + 2 ^ 256 * vec + 2 ^ 512 * s.gts.toNat
    + 2 ^ 576 * packList 8 ((t.pages.take 16).map (fun p => p.toNat / 65536 * 65536))
    + 2 ^ 1600 * (if t.cause = 0x07 then s.vowner s.me else 0)
    + 2 ^ 1664 * (if t.cause = 0x08 then packList 8 ((List.range 8).map (s.towner s.me)) else 0)

/-- The S-mode handler entry of a thread (R317). -/
def State.handler (s : State) : Word := BitVec.ofNat 64 (s.ctxFld s.me.ctx (if s.thr = Tid.a then 40 else 48) 8)

/-- Writes the record of the trap that the thread at hand has entered, after its CSRs, and goes on at the handler (R272). The
thread waits while the record's page is moving (R295); a record that cannot be written makes the strand faulted. -/
def State.writeRecord (s : State) (rec : BitVec 4096) : State :=
  match (if s.cur.trec.toNat % 64 ≠ 0 then .fault 0x03 s.cur.trec else s.hwWrite s.cur.trec 512 rec.toNat) with
  | .fault c _ => (s.setCur { s.cur with pend := none }).makeFaulted s.me.uid c s.cur.trec
  | .moving => s.setCur { s.cur with pend := some rec, wait := .walk }
  | .ok s1 => s1.setCur { s1.cur with pc := s1.handler, pend := none, wait := .none }

/-- Takes a trap in the thread at hand (R129, R271, R272). In U mode the trap CSRs and the privilege are written, then the
record, and the thread continues at its handler; a trap in S mode, a machine check, and a record that cannot be written
make the strand faulted. A thread that traps has not arrived at a rendezvous any more (R238). -/
def State.takeTrap (s : State) (t : Trap) : State :=
  if t.cause = 0x13 then s.makeFaulted s.me.uid 0x13 t.tval
  else
    match s.cur.priv with
    | .s => s.makeFaulted s.me.uid t.cause t.tval
    | .u =>
      let isX := decide (s.thr = Tid.x)
      let saved := if isX then s.me.conv else s.me.savedConv
      let conv := if isX then none else s.me.conv
      let s0 := if isX && s.me.resuming && !t.resume then { s with vu := { s.vu with flight := s.vu.flight.tail } } else s
      let restarts := if isX && !t.resume then s.note.map (fun k => { k with kv := none }) else s.me.restarts
      let gone (k : Stopped) : Bool := isX && !t.resume && s.me.resuming && some k == s.note
      let s1 := { s0 with me := { s0.me with
        savedConv := saved, conv := conv, restarts := restarts, stopped := s.me.stopped.eraseP gone
        chA := if isX then s.me.chA else none, chX := if isX then none else s.me.chX } }
      let s2 := s1.setCur { s1.cur with
        tcause := BitVec.ofNat 64 t.cause, tval := t.tval, tepc := t.tepc, priv := .s, wait := .none }
      let s3 := if isX then { s2 with me := { s2.me with resuming := false, resumeAt := none } } else s2
      s3.writeRecord (BitVec.ofNat 4096 (s0.trapRecord t))

/-- The fields of `vtype` that a write keeps: no field but `ill` while it is set, and no reserved bit (R4, R59). -/
def legalVtype (v : Word) : Word := if v.getLsbD 63 then 0x8000000000000000 else v &&& 0xFFF

/-- The vector state of a record whose vvalid flag is set (R272). -/
def State.restoreVec (s : State) (r : Nat) : State :=
  { s with vu := { s.vu with
      vtype := legalVtype (BitVec.ofNat 64 (field r 32 8)), vl := field r 40 4 % 2 ^ 18, vstart := field r 44 4 % 2 ^ 18,
      lgp := #v[field r 48 4, field r 52 4, field r 56 4, field r 60 4] } }

/-- The held entries of the flight table after a return (R274): with flags bit 3 they resume, and then the fetch goes on
from rpc, at once when bit 4 is set and else after the instruction at `tepc`; without it they are discarded. -/
def State.returnHeld (s : State) (flags : Nat) (rpc : Word) : State :=
  if flags / 8 % 2 = 1 then
    if flags / 16 % 2 = 1 then
      let s1 := s.setPc rpc
      { s1 with me := { s1.me with resuming := true } }
    else { s with me := { s.me with resumeAt := some rpc } }
  else
    let s1 := { s with me := { s.me with resuming := false, resumeAt := none, stopped := [] } }
    if s1.vu.owner = some s1.me.uid then { s1 with vu := { s1.vu with flight := [] } } else s1

/-- Return from a trap (R129, R272, R274): privilege U and the saved pc; in the X-thread, vvalid in the record at `trec`
restores the vector state, the convoy of the interrupted code goes on, a word that it restarts keeps what it has sampled (R95), and flags bit 3 resumes the held entries. The return waits
while the record's page is moving (R295), and a record that cannot be read is a trap in S mode (DEDUCED, log entry 95). -/
def State.trapReturn (s : State) : State :=
  let back (t : State) : State := t.setCur { t.cur with priv := .u, pc := t.cur.tepc, wait := .none }
  match s.thr with
  | .a => back s
  | .x =>
    match s.hwRead s.cur.trec 64 with
    | .moving => s.waitFor .walk
    | .fault c _ => s.makeFaulted s.me.uid c s.cur.trec
    | .ok r s0 =>
      let s1 := back s0
      let flags := field r 2 2
      let s2 := if flags % 2 = 1 then s1.restoreVec r else s1
      let s3 := { s2 with me := { s2.me with conv := s2.me.savedConv, savedConv := none,
                                             restarts := s2.me.restarts.filter (fun k => k.pc == s2.me.x.pc) } }
      s3.returnHeld flags (BitVec.ofNat 64 (field r 24 8))

/-! ## The outcome of an issued instruction -/

/-- What a meaning's body answers: it retired, it trapped (leaving a state, which for a precise trap is the state it
began in), or it stalls at its instruction. -/
inductive Res where
  | done (s : State)
  | trap (t : Trap) (s : State)
  | stall (w : Wait) (s : State)

/-- The state that an outcome leaves. -/
def Res.state : Res → State
  | .done s => s
  | .trap t s => s.takeTrap t
  | .stall w s => s.waitFor w

/-- Continues after a check, trapping or stalling in the state the instruction began in. -/
def Chk.then {α : Type} (c : Chk α) (s : State) (k : α → Res) : Res :=
  match c with
  | .ok v => k v
  | .trap cause sub tval => .trap (s.trapAt cause sub tval) s
  | .stall w => .stall w s

/-! ## The A-thread's pending operations (R90, R122) -/

/-- The address of granule `n` of a `sprd` or `spwr` descriptor, without wrapping (R122). -/
def granuleAddr (d : Vector Word 4) (n : Nat) : Nat :=
  let g := bits d[1].toNat 47 32
  let r := bits d[2].toNat 47 32
  let rot := bits d[3].toNat 2 0
  let c := n % g
  let rr := n / g % r
  let cc := if rot = 0 then c else (c + rr * 2 ^ (rot - 1)) % g
  d[0].toNat + n / (g * r) * bits d[2].toNat 31 0 + rr * bits d[1].toNat 31 0 + 16 * cc

/-- The location of granule `n` of a stream whose reservation starts at `l` (R122). -/
def granuleLoc (l : Loc) (d : Vector Word 4) (n : Nat) : Loc :=
  match l with
  | .pad uid _ => .pad uid (d[0].toNat % 2 ^ 23 + (granuleAddr d n - d[0].toNat))
  | l => l

/-- The byte ranges of an access of `n` bytes, on either side of a twin surface. -/
def Place.sides (p : Place) (n : Nat) : List (Loc × Nat) := (p.loc, n) :: (p.twin.map (fun t => (t.2, n))).toList

/-- The byte ranges that a pending operation still has to touch. -/
def AOp.spans (o : AOp) : List (Loc × Nat) :=
  let rest (d : Vector Word 4) (next count : Nat) : List (Loc × Nat) :=
    (List.range (count - next)).map (fun k => (granuleLoc o.place.loc d (next + k), 16))
  match o.kind with
  | .load _ n _ _ => o.place.sides n
  | .store n _ _ => o.place.sides n
  | .amo _ _ n _ _ _ _ => o.place.sides n
  | .sprd _ d next count => rest d next count
  | .spwr _ d next count => rest d next count
  | .cmd _ => []
  | .pub _ => []

/-- The operation is a load, a `sprd` included (R90). -/
def AOp.reads (o : AOp) : Bool :=
  match o.kind with
  | .load _ _ _ _ => true
  | .sprd _ _ _ _ => true
  | _ => false

/-- The operation is an AMO. -/
def AOp.amo (o : AOp) : Bool :=
  match o.kind with
  | .amo _ _ _ _ _ _ _ => true
  | _ => false

/-- The operation is an entry of the store buffer. -/
def AOp.stores (o : AOp) : Bool :=
  match o.kind with
  | .store _ _ _ => true
  | .spwr _ _ _ _ => true
  | _ => false

/-- The operation has order acquire (R87). -/
def AOp.acquires (o : AOp) : Bool :=
  match o.kind with
  | .load _ _ _ acq => acq
  | .amo _ _ _ _ _ acq _ => acq
  | _ => false

/-- The operation has order release (R87). -/
def AOp.releases (o : AOp) : Bool :=
  match o.kind with
  | .store _ _ rel => rel
  | .amo _ _ _ _ _ _ rel => rel
  | _ => false

/-- The operation still touches a byte range. -/
def AOp.touches (o : AOp) (l : Loc) (n : Nat) : Bool := o.spans.any (fun r => r.1.meets r.2 l n)

/-- The youngest store-buffer entry issued before number `id` that overlaps a range (R90). -/
def State.bufferHit (s : State) (id : Nat) (l : Loc) (n : Nat) : Option AOp :=
  (s.me.aops.filter (fun o => o.stores && decide (o.id < id) && o.touches l n)).getLast?

/-- The physical address of a location in memory. -/
def Loc.pa : Loc → Option Nat
  | .mem pa => some pa
  | .caps _ => none
  | .aperture pa _ => some pa
  | .pad _ _ => none
  | .absent _ => none

/-- Counts the access of the strand at hand to a place's frame (R300). -/
def State.countPlace (s : State) (l : Loc) (va : Word) (src : Nat) : State :=
  match l.pa with
  | some pa => s.countAccess pa va src false
  | none => s

/-- Counts a load or store of the A-thread, unless it hits the A-thread data cache, which is a free value where the frame
has a counter (R300, R215; log entry 24). -/
def State.countMaybe (s : State) (l : Loc) (va : Word) (src : Nat) : State :=
  match l.pa with
  | none => s
  | some pa =>
    if (s.counterRec pa).isNone then s
    else if s.drawFree.1.getLsbD 0 then s.drawFree.2.countAccess pa va src false else s.drawFree.2

/-! ## The vector-history ring (R292) -/

/-- The entries that a core has ever written. -/
def State.ringCount (s : State) (die core : Nat) : Nat := (assoc s.rings (16 * die + core)).getD 0

/-- Writes one entry of the ring of the strand's core, and advances the count. -/
def State.ringWrite (s : State) (entry : Nat) : State :=
  let c := 16 * s.me.die + s.me.core
  let n := s.ringCount s.me.die s.me.core
  let k := n % 1024
  { s with rings := assocSet s.rings c (n + 1)
           ringEntries := (c, k, BitVec.ofNat 512 entry) :: s.ringEntries.filter (fun e => !(e.1 == c && e.2.1 == k)) }

end Sys2Proof.Machine
end

