-- ==== Sys2Proof/Machine/Flags.lean ====
section
/-!
DEFINITION. Number formats, rounding and the floating-point flags (R66-R83): every value an arithmetic instruction
computes, and the flags it raises, in the order of `fcsr` bits 3-7: of (0), uf (1), nx (2), dz (3), nv (4).
-/

namespace Sys2Proof.Machine

/-! ## Formats and element types -/

/-- The floating-point formats (R66). -/
inductive Fmt where
  | f32
  | bf16
  | f16
  | e4m3
  | e5m2
  | mk8
  | e3m2
  | e2m3
  | e2m1
deriving DecidableEq, Repr

/-- Width of a format in bits (R66). -/
def Fmt.width : Fmt → Nat
  | .f32 => 32
  | .bf16 => 16
  | .f16 => 16
  | .e4m3 => 8
  | .e5m2 => 8
  | .mk8 => 8
  | .e3m2 => 6
  | .e2m3 => 6
  | .e2m1 => 4

/-- Fraction bits (R66); MK8 has its own grid (R68). -/
def Fmt.mbits : Fmt → Nat
  | .f32 => 23
  | .bf16 => 7
  | .f16 => 10
  | .e4m3 => 3
  | .e5m2 => 2
  | .mk8 => 3
  | .e3m2 => 2
  | .e2m3 => 3
  | .e2m1 => 1

/-- Exponent of the smallest normal value (R67). -/
def Fmt.emin : Fmt → Int
  | .f32 => -126
  | .bf16 => -126
  | .f16 => -14
  | .e4m3 => -6
  | .e5m2 => -14
  | .mk8 => -19
  | .e3m2 => -2
  | .e2m3 => 0
  | .e2m1 => 0

/-- The magnitude code of the largest finite value (R67). -/
def Fmt.maxFin : Fmt → Nat
  | .f32 => 0x7F7FFFFF
  | .bf16 => 0x7F7F
  | .f16 => 0x7BFF
  | .e4m3 => 0x7E
  | .e5m2 => 0x7B
  | .mk8 => 0x7E
  | .e3m2 => 0x1F
  | .e2m3 => 0x1F
  | .e2m1 => 0x7

/-- The magnitude code of infinity, where the format has one (R67). -/
def Fmt.infCode : Fmt → Option Nat
  | .f32 => some 0x7F800000
  | .bf16 => some 0x7F80
  | .f16 => some 0x7C00
  | .e5m2 => some 0x7C
  | _ => none

/-- The canonical NaN, where the format has one (R67). -/
def Fmt.nanCode : Fmt → Option Nat
  | .f32 => some 0x7FC00000
  | .bf16 => some 0x7FC0
  | .f16 => some 0x7E00
  | .e4m3 => some 0x7F
  | .e5m2 => some 0x7E
  | .mk8 => some 0x7F
  | _ => none

/-- FP32, BF16 and FP16: the formats with quiet and signalling NaNs, and the ones that `fz` and assists concern. -/
def Fmt.wide : Fmt → Bool
  | .f32 => true
  | .bf16 => true
  | .f16 => true
  | _ => false

/-- The format of an element type code (R59). -/
def fmtOf : Nat → Option Fmt
  | 0 => some .f32
  | 1 => some .bf16
  | 2 => some .f16
  | 3 => some .e4m3
  | 4 => some .e5m2
  | 5 => some .mk8
  | 6 => some .e3m2
  | 7 => some .e2m3
  | 8 => some .e2m1
  | _ => none

/-- The width of an element type code (R59). -/
def etypeWidth : Nat → Nat
  | 0 => 32
  | 1 => 16
  | 2 => 16
  | 3 => 8
  | 4 => 8
  | 5 => 8
  | 6 => 6
  | 7 => 6
  | 8 => 4
  | 9 => 32
  | 10 => 16
  | 11 => 8
  | 12 => 4
  | 13 => 32
  | 14 => 16
  | 15 => 8
  | _ => 8

/-- The integer types (R59): `some` signed. -/
def intOf : Nat → Option Bool
  | 9 => some true
  | 10 => some true
  | 11 => some true
  | 12 => some true
  | 13 => some false
  | 14 => some false
  | 15 => some false
  | _ => none

/-- The fill value of an element type (R59). -/
def fillValue (et : Nat) : Nat :=
  if et = 16 then 0xFF
  else match fmtOf et with
    | some f => f.nanCode.getD 0
    | none => 0

/-! ## Values -/

/-- A value: NaN (signalling or not), an infinity, or a finite number of magnitude `m 2^e`, or, when `st` is set, of a
magnitude strictly between `m 2^e` and `(m + 1) 2^e`. -/
inductive Val where
  | nan (sig : Bool)
  | inf (neg : Bool)
  | fin (neg : Bool) (m : Nat) (e : Int) (st : Bool)
deriving DecidableEq, Repr

/-- Zero of a sign. -/
def Val.zero (neg : Bool) : Val := .fin neg 0 0 false

/-- An integer. -/
def Val.ofInt (i : Int) : Val := .fin (decide (i < 0)) i.natAbs 0 false

def Val.isNan : Val → Bool
  | .nan _ => true
  | _ => false

def Val.isSig : Val → Bool
  | .nan b => b
  | _ => false

def Val.isInf : Val → Bool
  | .inf _ => true
  | _ => false

def Val.neg : Val → Bool
  | .nan _ => false
  | .inf b => b
  | .fin b _ _ _ => b

def Val.isZero : Val → Bool
  | .fin _ m _ st => m == 0 && !st
  | _ => false

/-- The value with the other sign. -/
def Val.negate : Val → Val
  | .nan b => .nan b
  | .inf b => .inf (!b)
  | .fin b m e st => .fin (!b) m e st

/-- Scales a value by a power of two. -/
def Val.scale (k : Int) : Val → Val
  | .fin b m e st => .fin b m (e + k) st
  | v => v

/-- The grid of MK8 (R68) at binade `E`: its first code and its fraction width. -/
def mk8Grid (E : Int) : Nat × Nat :=
  if 18 ≤ E then (0x7E, 0)
  else if 16 ≤ E then (0x7C + (E - 16).toNat, 0)
  else if 12 ≤ E then (0x78 + (E - 12).toNat, 0)
  else if 8 ≤ E then (0x70 + 2 * (E - 8).toNat, 1)
  else if 4 ≤ E then (0x60 + 4 * (E - 4).toNat, 2)
  else if 0 ≤ E then (0x40 + 8 * E.toNat, 3)
  else if -4 ≤ E then (0x20 + 8 * (E + 4).toNat, 3)
  else if -8 ≤ E then (0x10 + 4 * (E + 8).toNat, 2)
  else if -12 ≤ E then (0x08 + 2 * (E + 12).toNat, 1)
  else if -16 ≤ E then (0x04 + (E + 16).toNat, 0)
  else if -18 ≤ E then (0x02 + (E + 18).toNat, 0)
  else (0x01, 0)

/-- The value of an MK8 magnitude code below NaN (R68). -/
def mk8Value (neg : Bool) (c : Nat) : Val :=
  if c = 0 then .zero neg
  else
    let (E, base, fw) : Int × Nat × Nat :=
      if c = 0x7E then (18, 0x7E, 0)
      else if 0x7C ≤ c then (16 + (c - 0x7C), c, 0)
      else if 0x78 ≤ c then (12 + (c - 0x78), c, 0)
      else if 0x70 ≤ c then (8 + ((c - 0x70) / 2 : Nat), c / 2 * 2, 1)
      else if 0x60 ≤ c then (4 + ((c - 0x60) / 4 : Nat), c / 4 * 4, 2)
      else if 0x40 ≤ c then (((c - 0x40) / 8 : Nat), c / 8 * 8, 3)
      else if 0x20 ≤ c then (((c - 0x20) / 8 : Nat) - 4, c / 8 * 8, 3)
      else if 0x10 ≤ c then (((c - 0x10) / 4 : Nat) - 8, c / 4 * 4, 2)
      else if 0x08 ≤ c then (((c - 0x08) / 2 : Nat) - 12, c / 2 * 2, 1)
      else if 0x04 ≤ c then (((c - 0x04) : Nat) - 16, c, 0)
      else if 0x02 ≤ c then (((c - 0x02) : Nat) - 18, c, 0)
      else (-19, c, 0)
    .fin neg (2 ^ fw + (c - base)) (E - fw) false

/-- The value of a code (R66-R68). -/
def Fmt.decode (f : Fmt) (code : Nat) : Val :=
  let c := code % 2 ^ (f.width - 1)
  let neg := bits code (f.width - 1) (f.width - 1) = 1
  if f = .mk8 then (if c = 0x7F then .nan false else mk8Value neg c)
  else if some c = f.infCode then .inf neg
  else if f.nanCode.isSome && decide (f.maxFin < c) then .nan (f.wide && bits c (f.mbits - 1) (f.mbits - 1) = 0)
  else
    let ex := c / 2 ^ f.mbits
    let fr := c % 2 ^ f.mbits
    if ex = 0 then .fin neg fr (f.emin - f.mbits) false
    else .fin neg (2 ^ f.mbits + fr) (f.emin - f.mbits + (ex - 1 : Nat)) false

/-- The code is a subnormal of a wide format. -/
def Fmt.subnormal (f : Fmt) (code : Nat) : Bool :=
  let c := code % 2 ^ (f.width - 1)
  f.wide && decide (0 < c) && decide (c < 2 ^ f.mbits)

/-- An input under `fz`: a subnormal becomes zero of its sign (R78). -/
def Fmt.input (f : Fmt) (fz : Bool) (code : Nat) : Val :=
  if fz && f.subnormal code then .zero (bits code (f.width - 1) (f.width - 1) = 1) else f.decode code

/-! ## Rounding (R69-R71, R78) -/

/-- Floor of `m 2^e` in units of `2^q`, and how the rest compares with half a unit: 0 exact, 1 below, 2 half, 3 above. -/
def floorAt (m : Nat) (e : Int) (st : Bool) (q : Int) : Nat × Nat :=
  if q ≤ e then (m * 2 ^ (e - q).toNat, if st then 1 else 0)
  else
    let k := (q - e).toNat
    let r := m % 2 ^ k
    let h := 2 ^ (k - 1)
    (m / 2 ^ k, if r = 0 && !st then 0 else if r < h then 1 else if r = h && !st then 2 else 3)

/-- Whether a floor goes up by one: `odd` is bit 0 of its code, `neg` the sign (R71). -/
def roundsUp (rm : Nat) (neg odd : Bool) (rest : Nat) : Bool :=
  match rm with
  | 1 => neg && rest != 0
  | 2 => !neg && rest != 0
  | 3 => false
  | _ => rest == 3 || (rest == 2 && odd)

/-- The flags: of 1, uf 2, nx 4, dz 8, nv 16. -/
abbrev FF := BitVec 5

def ffOf : FF := 1#5
def ffUf : FF := 2#5
def ffNx : FF := 4#5
def ffDz : FF := 8#5
def ffNv : FF := 16#5

/-- Flag when a condition holds. -/
def ffIf (b : Bool) (f : FF) : FF := if b then f else 0#5

/-- What rounding a finite non-zero magnitude gives before the overflow rule: the code, and whether it is exact. For a
magnitude with sticky bit and too few bits the callers supply at least 60 bits. -/
def Fmt.roundMag (f : Fmt) (rm : Nat) (neg : Bool) (m : Nat) (e : Int) (st : Bool) : Nat × Bool :=
  let E : Int := (Nat.log2 m : Int) + e
  let (q, base, sig) : Int × Nat × Nat :=
    if f = .mk8 then
      (if m = 0 || decide (E < -19) then (-19, 0, 0)
       else let (c, fw) := mk8Grid E
            if 18 ≤ E then (18, c, 1) else (E - fw, c, 2 ^ fw))
    else if m = 0 || decide (E < f.emin) then (f.emin - f.mbits, 0, 0)
    else (E - f.mbits, ((E - f.emin).toNat + 1) * 2 ^ f.mbits, 2 ^ f.mbits)
  let (fl, rest) := floorAt m e st q
  let code := base + (fl - sig)
  (if roundsUp rm neg (code % 2 = 1) rest then code + 1 else code, rest = 0)

/-- Rounding with unbounded exponent gives a magnitude below the smallest normal value (R78). -/
def Fmt.tiny (f : Fmt) (rm : Nat) (neg : Bool) (m : Nat) (e : Int) (st : Bool) : Bool :=
  let E : Int := (Nat.log2 m : Int) + e
  if f.emin ≤ E then false
  else if E + 1 < f.emin then true
  else
    let (fl, rest) := floorAt m e st (E - f.mbits)
    let up := roundsUp rm neg (fl % 2 = 1) rest
    !(up && fl + 1 = 2 ^ (f.mbits + 1))

/-- The sign bit of a code. -/
def Fmt.signed (f : Fmt) (neg : Bool) (c : Nat) : Nat := if neg then 2 ^ (f.width - 1) + c else c

/-- The magnitude code that overflow gives (R69, R71). -/
def Fmt.overflowCode (f : Fmt) (rm : Nat) (neg : Bool) : Nat :=
  match f.infCode with
  | none => f.maxFin
  | some c =>
    if !f.wide then f.maxFin
    else match rm with
      | 1 => if neg then c else f.maxFin
      | 2 => if neg then f.maxFin else c
      | 3 => f.maxFin
      | _ => c

/-- `Round(fmt, rm, v)` (R69-R71), with the flush of R78 when `fz` is set: the code and the flags. -/
def Fmt.round (f : Fmt) (fz : Bool) (rm : Nat) (v : Val) : Nat × FF :=
  match v with
  | .nan sg => match f.nanCode with
      | some c => (c, ffIf sg ffNv)
      | none => (0, ffNv)
  | .inf neg => (f.signed neg (f.infCode.getD f.maxFin), 0)
  | .fin neg m e st =>
    if m = 0 && !st then (f.signed neg 0, 0)
    else if fz && f.wide && f.tiny rm neg m e st then (f.signed neg 0, ffUf ||| ffNx)
    else
      let (c, exact) := f.roundMag rm neg m e st
      let ovf := decide (f.maxFin < c) ||
        (f = .mk8 && !exact && decide (18 ≤ (Nat.log2 m : Int) + e))
      if ovf then (f.signed neg (f.overflowCode rm neg), ffOf ||| ffNx)
      else
        let uf := if f = .mk8 then decide ((Nat.log2 m : Int) + e < -19) else decide (c < 2 ^ f.mbits)
        (f.signed neg c, if exact then 0 else ffNx ||| ffIf uf ffUf)

/-- Rounding overflowed (R73). -/
def Fmt.overflows (f : Fmt) (v : Val) : Bool :=
  match v with
  | .fin _ _ _ _ => (f.round false 0 v).2.getLsbD 0
  | _ => false

/-- A finite value rounded to an integer under a mode (R70), and whether it was exact. -/
def roundInt (rm : Nat) (neg : Bool) (m : Nat) (e : Int) (st : Bool) : Int × Bool :=
  let (fl, rest) := floorAt m e st 0
  let n := if roundsUp rm neg (fl % 2 = 1) rest then fl + 1 else fl
  (if neg then -(n : Int) else n, rest = 0)

/-- Conversion to an integer in `lo .. hi` (R70): saturation and NaN set `nv`. -/
def toInteger (rm : Nat) (lo hi : Int) (v : Val) : Int × FF :=
  match v with
  | .nan _ => (0, ffNv)
  | .inf neg => (if neg then lo else hi, ffNv)
  | .fin neg m e st =>
    let (i, exact) := roundInt rm neg m e st
    if i < lo then (lo, ffNv) else if hi < i then (hi, ffNv) else (i, ffIf (!exact) ffNx)

/-- NS acts as RNE (R71, R118). -/
def plainRm (rm : Nat) : Nat := if rm = 4 then 0 else rm

/-! ## Exact operations (R72) -/

/-- The signed integer of a finite value in units of `2^q`, for `q` at most its exponent. -/
def unitsAt (neg : Bool) (m : Nat) (e q : Int) : Int :=
  let n : Int := m * 2 ^ (e - q).toNat
  if neg then -n else n

/-- A finite value from signed units; a zero takes the given sign. -/
def ofUnits (i q : Int) (zneg : Bool) : Val := if i = 0 then .zero zneg else .fin (decide (i < 0)) i.natAbs q false

/-- Exact sum; the sign of an exact zero is that of both operands when they agree, else minus only under RDN. -/
def Val.add (rm : Nat) (a b : Val) : Val × FF :=
  match a, b with
  | .nan s, .nan t => (.nan false, ffIf (s || t) ffNv)
  | .nan s, _ => (.nan false, ffIf s ffNv)
  | _, .nan t => (.nan false, ffIf t ffNv)
  | .inf p, .inf q => if p = q then (.inf p, 0) else (.nan false, ffNv)
  | .inf p, _ => (.inf p, 0)
  | _, .inf q => (.inf q, 0)
  | .fin p m e _, .fin r n k _ =>
    let q := min e k
    let zneg := if a.isZero && b.isZero && p = r then p else rm = 1
    (ofUnits (unitsAt p m e q + unitsAt r n k q) q zneg, 0)

/-- Exact product. -/
def Val.mul (a b : Val) : Val × FF :=
  match a, b with
  | .nan s, .nan t => (.nan false, ffIf (s || t) ffNv)
  | .nan s, _ => (.nan false, ffIf s ffNv)
  | _, .nan t => (.nan false, ffIf t ffNv)
  | .inf p, _ => if b.isZero then (.nan false, ffNv) else (.inf (p != b.neg), 0)
  | _, .inf q => if a.isZero then (.nan false, ffNv) else (.inf (a.neg != q), 0)
  | .fin p m e _, .fin r n k _ => (.fin (p != r) (m * n) (e + k) false, 0)

/-- Quotient, to 80 bits and a sticky bit; a finite non-zero operand over zero sets `dz`. -/
def Val.div (a b : Val) : Val × FF :=
  match a, b with
  | .nan s, .nan t => (.nan false, ffIf (s || t) ffNv)
  | .nan s, _ => (.nan false, ffIf s ffNv)
  | _, .nan t => (.nan false, ffIf t ffNv)
  | .inf _, .inf _ => (.nan false, ffNv)
  | .inf p, _ => (.inf (p != b.neg), 0)
  | _, .inf q => (.zero (a.neg != q), 0)
  | .fin p m e _, .fin r n k _ =>
    if n = 0 then (if m = 0 then (.nan false, ffNv) else (.inf (p != r), ffDz))
    else if m = 0 then (.zero (p != r), 0)
    else
      let sh : Nat := 80 + Nat.log2 n
      let x := m * 2 ^ sh
      (.fin (p != r) (x / n) (e - k - sh) (x % n != 0), 0)

/-- Newton's iteration for the integer square root, from above. -/
def isqrtGo (n : Nat) : Nat → Nat → Nat
  | 0, x => x
  | k + 1, x =>
    let y := (x + n / x) / 2
    if y < x then isqrtGo n k y else x

/-- Floor of the square root. -/
def isqrt (n : Nat) : Nat := if n = 0 then 0 else isqrtGo n 600 (2 ^ (Nat.log2 n / 2 + 1))

/-- Square root, to at least 80 bits and a sticky bit. -/
def Val.sqrt (a : Val) : Val × FF :=
  match a with
  | .nan s => (.nan false, ffIf s ffNv)
  | .inf p => if p then (.nan false, ffNv) else (.inf false, 0)
  | .fin p m e _ =>
    if m = 0 then (.zero p, 0)
    else if p then (.nan false, ffNv)
    else
      let sh : Nat := if e % 2 = 0 then 160 else 161
      let x := m * 2 ^ sh
      let y := isqrt x
      (.fin false y ((e - sh) / 2) (y * y != x), 0)

/-- Two values that are not NaN compare: less, equal or greater; zeros are equal. -/
def Val.cmp (a b : Val) : Ordering :=
  match a, b with
  | .inf p, .inf q => if p = q then .eq else if p then .lt else .gt
  | .inf p, _ => if p then .lt else .gt
  | _, .inf q => if q then .gt else .lt
  | .fin p m e _, .fin r n k _ =>
    let q := min e k
    compare (unitsAt p m e q) (unitsAt r n k q)
  | _, _ => .eq

/-! ## Operations on codes -/

/-- A binary operation of a format: inputs under `fz`, one rounding (R72, R78). -/
def Fmt.op2 (f : Fmt) (fz : Bool) (rm : Nat) (op : Val → Val → Val × FF) (a b : Nat) : Nat × FF :=
  let (v, g) := op (f.input fz a) (f.input fz b)
  let (c, h) := f.round fz rm v
  (c, g ||| h)

/-- Sum, difference, product, quotient. -/
def Fmt.add (f : Fmt) (fz : Bool) (rm a b : Nat) : Nat × FF := f.op2 fz rm (Val.add rm) a b
def Fmt.sub (f : Fmt) (fz : Bool) (rm a b : Nat) : Nat × FF := f.op2 fz rm (fun x y => Val.add rm x y.negate) a b
def Fmt.mul (f : Fmt) (fz : Bool) (rm a b : Nat) : Nat × FF := f.op2 fz rm Val.mul a b
def Fmt.div (f : Fmt) (fz : Bool) (rm a b : Nat) : Nat × FF := f.op2 fz rm Val.div a b

/-- Square root. -/
def Fmt.sqrt (f : Fmt) (fz : Bool) (rm a : Nat) : Nat × FF :=
  let (v, g) := (f.input fz a).sqrt
  let (c, h) := f.round fz rm v
  (c, g ||| h)

/-- Fused `a b + c`, or `c - a b` when `negp` is set; operands are values, one rounding into `f` (R72). -/
def fusedVal (rm : Nat) (negp : Bool) (a b c : Val) : Val × FF :=
  let (p, g) := Val.mul a b
  let (r, h) := Val.add rm (if negp then p.negate else p) c
  (r, g ||| h ||| ffIf (a.isSig || b.isSig || c.isSig) ffNv)

/-- Fused multiply-add of one format. -/
def Fmt.fma (f : Fmt) (fz : Bool) (rm : Nat) (negp : Bool) (a b c : Nat) : Nat × FF :=
  let (v, g) := fusedVal rm negp (f.input fz a) (f.input fz b) (f.input fz c)
  let (r, h) := f.round fz rm v
  (r, g ||| h)

/-- The place of a code in the order of R72, in which -0 is less than +0. -/
def Fmt.rank (f : Fmt) (code : Nat) : Int :=
  let c := code % 2 ^ (f.width - 1)
  if bits code (f.width - 1) (f.width - 1) = 1 then -(c : Int) - 1 else c

/-- Lesser or greater of two codes (R72). -/
def Fmt.minMax (f : Fmt) (fz : Bool) (wantMax : Bool) (a b : Nat) : Nat × FF :=
  let flush (c : Nat) : Nat := if fz && f.subnormal c then c / 2 ^ (f.width - 1) * 2 ^ (f.width - 1) else c
  let a := flush a
  let b := flush b
  let va := f.decode a
  let vb := f.decode b
  let g := ffIf (va.isSig || vb.isSig) ffNv
  if va.isNan && vb.isNan then (f.nanCode.getD 0, g)
  else if va.isNan then (b, g)
  else if vb.isNan then (a, g)
  else if wantMax then (if f.rank a < f.rank b then b else a, g)
  else (if f.rank b < f.rank a then b else a, g)

/-- Class of a code (R118): 0 zero, 1 subnormal, 2 normal, 3 infinity, 4 quiet NaN, 5 signalling NaN. -/
def Fmt.kind (f : Fmt) (code : Nat) : Nat :=
  match f.decode code with
  | .nan sg => if sg then 5 else 4
  | .inf _ => 3
  | .fin _ m _ _ => if m = 0 then 0 else if f.subnormal code then 1 else 2

/-- Equality with the flag of `feq`, `vmfeq` and `vmfne`: only a signalling NaN sets `nv` (R118). -/
def Fmt.eqQuiet (f : Fmt) (fz : Bool) (a b : Nat) : Bool × FF :=
  let va := f.input fz a
  let vb := f.input fz b
  if va.isNan || vb.isNan then (false, ffIf (va.isSig || vb.isSig) ffNv) else (va.cmp vb == .eq, 0)

/-- Less than, or less or equal: any NaN gives false and sets `nv` (R118). -/
def Fmt.less (f : Fmt) (fz : Bool) (orEq : Bool) (a b : Nat) : Bool × FF :=
  let va := f.input fz a
  let vb := f.input fz b
  if va.isNan || vb.isNan then (false, ffNv)
  else (match va.cmp vb with | .lt => true | .eq => orEq | .gt => false, 0)

/-! ## Special functions (R83) -/

/-- The fixed-point precision of the special functions, in bits. -/
def spPrec : Nat := 400

/-- Multiplies the roots `2^(2^-i)` of the set bits of a fraction of `k` bits, highest bit first; `root` and `acc` are in
units of `2^-spPrec`. -/
def exp2Go (fr : Nat) : Nat → Nat → Nat → Nat
  | 0, _, acc => acc
  | k + 1, root, acc =>
    let r := isqrt (root * 2 ^ spPrec)
    exp2Go fr k r (if bits fr k k = 1 then acc * r / 2 ^ spPrec else acc)

/-- `2^x` (R83). -/
def Val.exp2 (a : Val) : Val × FF :=
  match a with
  | .nan s => (.nan false, ffIf s ffNv)
  | .inf p => if p then (.zero false, 0) else (.inf false, 0)
  | .fin p m e _ =>
    if m = 0 then (.fin false 1 0 false, 0)
    else if 12 ≤ (Nat.log2 m : Int) + e then
      -- beyond every exponent of the format: an overflow or an underflow to round
      (.fin false (2 ^ 80) (if p then -4176 else 4096) true, 0)
    else
      let k := (-e).toNat
      let x : Int := unitsAt p m e (min e 0)
      let i := x.fdiv (2 ^ k)
      let fr := (x - i * 2 ^ k).toNat
      if fr = 0 then (.fin false 1 i false, 0)
      else (.fin false (exp2Go fr k (2 ^ (spPrec + 1)) (2 ^ spPrec)) (i - spPrec) true, 0)

/-- Binary digits of log2 of a number in [1, 2), in units of `2^-spPrec`, by repeated squaring. -/
def log2Go : Nat → Nat → Nat → Nat
  | 0, _, acc => acc
  | k + 1, y, acc =>
    let z := y * y / 2 ^ spPrec
    if 2 ^ (spPrec + 1) ≤ z then log2Go k (z / 2) (2 * acc + 1) else log2Go k z (2 * acc)

/-- `log2 x` (R83). -/
def Val.log2 (a : Val) : Val × FF :=
  match a with
  | .nan s => (.nan false, ffIf s ffNv)
  | .inf p => if p then (.nan false, ffNv) else (.inf false, 0)
  | .fin p m e _ =>
    if m = 0 then (.inf true, ffDz)
    else if p then (.nan false, ffNv)
    else
      let l := Nat.log2 m
      let E : Int := (l : Int) + e
      if m = 2 ^ l then (.ofInt E, 0)
      else
        let n : Int := E * 2 ^ 180 + log2Go 180 (m * 2 ^ spPrec / 2 ^ l) 0
        if n < 0 then (.fin true (-n - 1).toNat (-180) true, 0) else (.fin false n.toNat (-180) true, 0)

/-- `1 / x` (R83). -/
def Val.recip (a : Val) : Val × FF := Val.div (.fin false 1 0 false) a

/-- `1 / √x` (R83). -/
def Val.rsqrt (a : Val) : Val × FF :=
  match a with
  | .nan s => (.nan false, ffIf s ffNv)
  | .inf p => if p then (.nan false, ffNv) else (.zero false, 0)
  | .fin p m e _ =>
    if m = 0 then (.inf p, ffDz)
    else if p then (.nan false, ffNv)
    else
      let sh : Nat := 2 * (90 + Nat.log2 m) + (if e % 2 = 0 then 0 else 1)
      let y := isqrt (2 ^ sh / m)
      (.fin false y ((-e - sh) / 2) (y * y * m != 2 ^ sh), 0)

/-- A special function of a format. -/
def Fmt.special (f : Fmt) (fz : Bool) (rm : Nat) (fn : Val → Val × FF) (a : Nat) : Nat × FF :=
  let (v, g) := fn (f.input fz a)
  let (c, h) := f.round fz rm v
  (c, g ||| h)

/-! ## Noise-shaped rounding (R73) -/

/-- The magnitude of `x` lies below 2^-19, zero included (R69). -/
def Val.belowMk8 : Val → Bool
  | .fin _ m e _ => m == 0 || decide ((Nat.log2 m : Int) + e < -19)
  | _ => false

/-- The value `t` that noise-shaped rounding narrows (R73). -/
def shapedSum (x : Val) (ns : Nat) : Nat := (Fmt.f32.round false 0 (Val.add 0 x (Fmt.f32.decode ns)).1).1

/-- The FP32 patterns that noise-shaped rounding consumes or produces beside its source and its code: the residue before and after, and
`t`; a NaN or an infinity takes no residue (R73, R77). -/
def shapedParts (x : Val) (ns ns' : Nat) : List Nat :=
  match x with
  | .fin _ _ _ _ => [ns, shapedSum x ns, ns']
  | _ => []

/-- Narrows `x` into `f` under the residue `ns`: the code, the new residue and the flags, which compare the code with
`x`. DESIGN CHOICE (log entry 92): an overflow sets `of` and `nx` also where the clamped code equals `x`; a `t` that is NaN
through its residue gives the flags of no inexact result; a flush of a `t` that came from the residue of a zero `x` sets no
flag, since the code equals `x`. -/
def Fmt.noiseShaped (f : Fmt) (fz : Bool) (x : Val) (ns : Nat) : Nat × Nat × FF :=
  match x with
  | .nan _ => let (c, g) := f.round fz 0 x; (c, ns, g)
  | .inf _ => let (c, g) := f.round fz 0 x; (c, ns, g)
  | .fin _ _ _ _ =>
    let t := shapedSum x ns
    let tv := Fmt.f32.decode t
    let q := (f.round fz 0 tv).1
    let qv := f.decode q
    if tv.isInf || f.overflows tv then (q, 0, ffOf ||| ffNx)
    else
      let ns' := (Fmt.f32.round false 0 (Val.add 0 tv qv.negate).1).1
      let inexact := !tv.isNan && qv.cmp x != .eq
      let small := if f = .mk8 then qv.isZero || x.belowMk8 else decide (q % 2 ^ (f.width - 1) < 2 ^ f.mbits)
      (q, ns', ffIf inexact ffNx ||| ffIf (inexact && small) ffUf)

/-! ## Integers (R70) -/

/-- The signed value of the low `w` bits. -/
def signedOf (w v : Nat) : Int := if bits v (w - 1) (w - 1) = 1 then (v % 2 ^ w : Nat) - 2 ^ w else (v % 2 ^ w : Nat)

/-- The value of an integer element. -/
def intValue (signed : Bool) (w v : Nat) : Int := if signed then signedOf w v else (v % 2 ^ w : Nat)

/-- The low `w` bits of an integer. -/
def wrapInt (w : Nat) (i : Int) : Nat := (i % 2 ^ w).toNat

/-- The limits of an integer type. -/
def intLow (signed : Bool) (w : Nat) : Int := if signed then -(2 ^ (w - 1)) else 0
def intHigh (signed : Bool) (w : Nat) : Int := if signed then 2 ^ (w - 1) - 1 else 2 ^ w - 1

/-- Saturation to an integer type. -/
def saturate (signed : Bool) (w : Nat) (i : Int) : Int := max (intLow signed w) (min (intHigh signed w) i)

/-! ## Conversion between element types (R70, R71, R74) -/

/-- The rows of R74 marked exact. -/
def exactPair (s d : Nat) : Bool :=
  ((s == 1 || s == 2) && d == 0) || ((s == 3 || s == 4) && d ≤ 2) || (s == 5 && (d == 0 || d == 1)) ||
  (6 ≤ s && s ≤ 8 && d ≤ 3)

/-- The rows of R74 that round. -/
def roundPair (s d : Nat) : Bool :=
  (s == 0 && 1 ≤ d && d ≤ 8) || ((s == 1 || s == 2) && 3 ≤ d && d ≤ 8) || (s == 1 && d == 2) || (s == 2 && d == 1) ||
  (s ≤ 2 && 9 ≤ d && d ≤ 15) || (9 ≤ s && s ≤ 15 && d ≤ 2) || (9 ≤ s && s ≤ 15 && 9 ≤ d && d ≤ 15)

/-- An element converted from one type to another: an exact row sets no flag but those of a flushed result (R74, R78). An
integer widens by sign or zero extension and narrows by saturation (R70); DESIGN CHOICE (log entry 93): between types of one
width it saturates, as when it narrows. -/
def convertCode (s d : Nat) (fz : Bool) (rm : Nat) (x : Nat) : Nat × FF :=
  match fmtOf s, fmtOf d with
  | some f, some g =>
    let r := g.round fz rm (f.input fz x)
    if exactPair s d then (r.1, r.2 &&& (ffUf ||| ffNx)) else r
  | some f, none =>
    let sg := (intOf d).getD true
    let w := etypeWidth d
    let (i, g) := toInteger rm (intLow sg w) (intHigh sg w) (f.input fz x)
    (wrapInt w i, g)
  | none, some g => g.round fz rm (.ofInt (intValue ((intOf s).getD true) (etypeWidth s) x))
  | none, none =>
    let i := intValue ((intOf s).getD true) (etypeWidth s) x
    let w := etypeWidth d
    (wrapInt w (if etypeWidth s < w then i else saturate ((intOf d).getD true) w i), 0)

/-! ## The flags in `fcsr` (R62) -/

/-- ORs the flags of an instruction into an `fcsr` value. -/
def orFlags (fcsr : Word) (f : FF) : Word := fcsr ||| (f.zeroExtend 64 <<< 3)

/-- The rounding mode of an `fcsr` value. -/
def rmOf (fcsr : Word) : Nat := bits fcsr.toNat 2 0

end Sys2Proof.Machine
end

