-- ==== Sys2Proof/Machine/Operands.lean ====
section
/-!
DEFINITION. Operands: the checks of R110 that every word passes before it issues, the shapes of the vector and tile
words (R49, R105, R106, R149, R169, R177), the scalar operand forms with the queue ports (R46, R47), queues (R30, R92,
R93), and the captured type state (R63).
-/

namespace Sys2Proof.Machine

/-! ## Fields of a word -/

def wMaj (w : IWord) : Nat := (w.extractLsb' 26 6).toNat
def wFn6 (w : IWord) : Nat := (w.extractLsb' 5 6).toNat
def wFn5 (w : IWord) : Nat := (w.extractLsb' 0 5).toNat
def wRd (w : IWord) : RegNo := w.extractLsb' 21 5
def wRa (w : IWord) : RegNo := w.extractLsb' 16 5
def wRb (w : IWord) : RegNo := w.extractLsb' 11 5
def wVd (w : IWord) : RegNo := w.extractLsb' 20 5
def wV1 (w : IWord) : RegNo := w.extractLsb' 15 5
def wV2 (w : IWord) : RegNo := w.extractLsb' 10 5
def wTd (w : IWord) : Nat := (w.extractLsb' 22 3).toNat
def wT1 (w : IWord) : RegNo := w.extractLsb' 17 5
def wT2 (w : IWord) : RegNo := w.extractLsb' 12 5
def wSel (w : IWord) : BitVec 2 := w.extractLsb' 10 2
def wCsr (w : IWord) : Nat := (w.extractLsb' 0 12).toNat
def wK (w : IWord) : Bool := w.getLsbD 25

/-! ## Threads, privilege, units (R107, R110 checks 2, 4, 5) -/

/-- The threads that may execute a word (R107). -/
inductive Column where
  | both
  | a
  | x
deriving DecidableEq, Repr

/-- The threads that may name a CSR (R58). -/
def csrColumn (c : Nat) : Column :=
  if c ≤ 0x007 || c = 0x00D || (0x020 ≤ c && c ≤ 0x022) || (0x040 ≤ c && c ≤ 0x043) then .x else .both

/-- The Threads column of R107. -/
def column (w : IWord) : Column :=
  match wMaj w with
  | 0x0A => .a
  | 0x0B => .a
  | 0x0C => .a
  | 0x0D => .x
  | 0x17 => if wFn6 w = 5 || wFn6 w = 7 || wFn6 w = 8 then .a else if wFn6 w = 6 then .x else .both
  | 0x18 => csrColumn (wCsr w)
  | 0x19 => if wFn6 w = 0 || wFn6 w = 8 then .a else if wFn6 w = 1 || wFn6 w = 2 then .x else .both
  | 0x1A => if wFn6 w = 5 then .a else if wFn6 w = 6 || wFn6 w = 7 then .x else .both
  | 0x1B => .a
  | 0x1C => .a
  | m => if 0x20 ≤ m && m ≤ 0x33 then .x else .both

/-- A column admits a thread. -/
def Column.admits (c : Column) (t : Tid) : Bool :=
  match c with
  | .both => true
  | .a => t == .a
  | .x => t == .x

/-- The words that only S mode may execute, and the CSRs of access SRW (R107, R58). -/
def needsS (w : IWord) : Bool :=
  match wMaj w with
  | 0x17 => wFn6 w = 9
  | 0x18 => (0x020 ≤ wCsr w && wCsr w ≤ 0x022) || (0x030 ≤ wCsr w && wCsr w ≤ 0x033)
  | 0x1A => wFn6 w = 5 || wFn6 w = 6 || wFn6 w = 7 || wFn6 w = 8
  | 0x1B => wFn6 w = 9
  | _ => false

/-- The words that need the vector unit, the CSRs that R280 names among them. -/
def needsVec (w : IWord) : Bool :=
  let m := wMaj w
  (0x20 ≤ m && m ≤ 0x32) ||
  (m = 0x18 && (wCsr w = 0 || wCsr w = 1 || wCsr w = 2 || wCsr w = 3 || (0x040 ≤ wCsr w && wCsr w ≤ 0x043)))

/-- The words that need the tile unit. -/
def needsTile (w : IWord) : Bool := 0x31 ≤ wMaj w && wMaj w ≤ 0x33

/-! ## Queues and port destinations (R108, R47, R110 check 3) -/

/-- The queue that a QOP word names may be named by its function and thread (R108). -/
def queueOk (w : IWord) (t : Tid) : Bool :=
  let q := (wRb w).toNat
  match wFn6 w with
  | 0 => if t = .a then q ≤ 7 else 8 ≤ q && q ≤ 11
  | 1 => if t = .a then 8 ≤ q && q ≤ 11 else q ≤ 7 || q = 12
  | 2 => if t = .a then 8 ≤ q && q ≤ 11 else q ≤ 7 || q = 12
  | 3 => q ≤ 12
  | 10 => q ≤ 12
  | 4 => if t = .a then q ≤ 7 || q = 12 else 8 ≤ q && q ≤ 11
  | 9 => q ≤ 12
  | 5 => q = 12
  | 7 => q ≤ 7 && (wRa w).toNat ≤ 28
  | 8 => 8 ≤ q && q ≤ 11 && (wRa w).toNat ≤ 28
  | _ => true

/-- The scalar register that a word writes, if any (R101, R149, R169). -/
def xdest (w : IWord) : Option RegNo :=
  match wMaj w with
  | 0x0B => none
  | 0x0C => if wFn6 w = 11 then none else some (wRd w)
  | 0x0E => none
  | 0x0F => none
  | 0x10 => none
  | 0x11 => none
  | 0x12 => none
  | 0x13 => none
  | 0x16 => if w.extractLsb' 24 2 = 2#2 then some (wRa w) else none
  | 0x17 => if wFn6 w = 1 || wFn6 w = 2 || wFn6 w = 3 || wFn6 w = 10 then some (wRd w) else none
  | 0x19 => none
  | 0x1A => none
  | 0x1D => if wFn6 w = 2 then some (wRd w) else none
  | 0x20 => if wFn5 w = 2 then none else some (wVd w)
  | 0x2B => if wFn5 w = 7 then some (wVd w) else none
  | 0x2C => if wFn5 w = 4 || wFn5 w = 5 then some (wVd w) else none
  | 0x2F => if wFn5 w = 1 then some (wVd w) else none
  | 0x33 => if wFn5 w = 2 then some (wT1 w) else none
  | m => if 0x21 ≤ m then none else some (wRd w)

/-- Check 3: the queue and its direction, and no write of `x28`-`x31` by the X-thread. -/
def dirOk (w : IWord) (t : Tid) : Bool :=
  (wMaj w != 0x17 || queueOk w t) &&
  (t == .a || match xdest w with | some r => decide (r.toNat < 28) | none => true)

/-! ## Type state (R48, R49, R59, R63) -/

/-- The type state that an instruction captures: that of the flight-table entry it runs again from (R278), that of its
convoy, or that of its slot. -/
def State.cap (s : State) (w : IWord) : Convoy :=
  let now : Convoy := { next := s.me.x.pc, vtype := s.vu.vtype, vl := s.vu.vl, vstart := s.vu.vstart, lgp := s.vu.lgp,
                        fcsr := s.me.fcsr, lscale := s.me.lscale, tcols := s.me.tcols }
  match s.held with
  | some f => { now with
      vtype := f.op0, vl := f.len % 2 ^ 18, vstart := f.progress % 2 ^ 18, lgp := f.lgp, fcsr := f.rm.zeroExtend 64,
      lscale := f.lscale.zeroExtend 64 }
  | none =>
    if wK w then
      match s.me.conv with
      | some c => { c with vstart := s.vu.vstart, lgp := s.vu.lgp }
      | none => now
    else now

def Convoy.ill (c : Convoy) : Bool := c.vtype.getLsbD 63
def Convoy.et (c : Convoy) : Nat := bits c.vtype.toNat 4 0
def Convoy.g (c : Convoy) : Nat := 2 ^ bits c.vtype.toNat 6 5
def Convoy.tfill (c : Convoy) : Bool := c.vtype.getLsbD 7
def Convoy.mfill (c : Convoy) : Bool := c.vtype.getLsbD 8
def Convoy.fz (c : Convoy) : Bool := c.vtype.getLsbD 9
def Convoy.w (c : Convoy) : Nat := etypeWidth c.et
def Convoy.rm (c : Convoy) : Nat := rmOf c.fcsr

/-- Register count and register bits of a `vcfg` code (R48). -/
def regCount (c : BitVec 2) : Nat := 32 / 2 ^ c.toNat
def regBits (c : BitVec 2) : Nat := 16384 * 2 ^ c.toNat

/-- VLMAX (R49). -/
def vlmax (c : BitVec 2) (w g : Nat) : Nat := regBits c * g / w

/-! ## Shapes of vector and tile words -/

/-- The lane unit classes of R42. -/
inductive LaneClass where
  | memory
  | alu
  | special
  | permute
  | tile
  | config
deriving DecidableEq, Repr

/-- The lane unit class of a word (R42). -/
def laneClass (w : IWord) : LaneClass :=
  match wMaj w with
  | 0x20 => .config
  | 0x21 => .memory
  | 0x22 => .memory
  | 0x23 => .memory
  | 0x24 => if 5 ≤ wFn5 w && wFn5 w ≤ 8 then .special else .alu
  | 0x27 => if wFn5 w = 3 || wFn5 w = 4 || (12 ≤ wFn5 w && wFn5 w ≤ 15) then .special else .alu
  | 0x2A => .permute
  | 0x2B => .permute
  | 0x2F => if wFn5 w = 0 || wFn5 w = 3 then .alu else if wFn5 w = 1 || wFn5 w = 2 then .permute else .memory
  | 0x31 => .tile
  | 0x32 => .tile
  | 0x33 => .tile
  | _ => .alu

/-- A vector operand group: its first register, how many registers, the multiple its start must be of, and whether the
word writes it. -/
structure Grp where
  reg : Nat
  n : Nat
  align : Nat
  dst : Bool
deriving DecidableEq, Repr

/-- What a vector or tile word asks of its type state. -/
structure Shape where
  /-- The word depends on type state (R105). -/
  dep : Bool
  /-- Its function accepts the element type (R105, R155). -/
  types : Bool
  groups : List Grp
  /-- Pairs of groups (by position) that must not overlap (R106, R142, R154, R158, R177). -/
  apart : List (Nat × Nat)
  /-- The mask-register and scale-register fields, which hold 0-3. -/
  masks : List RegNo
  tile : Option Nat
  /-- `vstart` must be 0 (R61). -/
  zeroStart : Bool
  /-- A scaled instruction: `vl` at most 32,768 (R54). -/
  scaled : Bool
deriving DecidableEq, Repr

def Shape.plain : Shape :=
  { dep := true, types := true, groups := [], apart := [], masks := [], tile := none, zeroStart := false, scaled := false }

/-- Element type sets of R105. -/
def etByte (et : Nat) : Bool := 8 ≤ etypeWidth et
def etInt (et : Nat) : Bool := et = 9 || et = 10 || et = 11 || et = 13 || et = 14 || et = 15
def etHalfInt (et : Nat) : Bool := et = 10 || et = 11 || et = 14 || et = 15
def etFloat (et : Nat) : Bool := et ≤ 2
def etHalf (et : Nat) : Bool := et = 1 || et = 2
def etSub (et : Nat) : Bool := et = 6 || et = 7 || et = 8 || et = 12
def etAnyInt (et : Nat) : Bool := 9 ≤ et && et ≤ 15
def etNarrowFloat (et : Nat) : Bool := 3 ≤ et && et ≤ 8

/-- The registers of an index group (R142). -/
def indexRegs (g w : Nat) : Nat := g * 32 / w

/-- The registers of the wide side of a conversion (R154): `G 2^⌈log2 (ww / wn)⌉`. -/
def wideRegs (g wn ww : Nat) : Nat :=
  if ww ≤ wn then g else if ww ≤ 2 * wn then 2 * g else if ww ≤ 4 * wn then 4 * g else 8 * g

/-- Source and destination element types of a VCVT word under an element type (R155); `none` for an unlisted pair. -/
def cvtPair (w : IWord) (et : Nat) : Option (Nat × Nat) :=
  let o := (wV1 w).toNat
  match wFn5 w with
  | 0 => -- the exact rows of R74 that widen
    if (et = 1 && o = 0) || (et = 2 && o = 0) || ((et = 3 || et = 4) && o ≤ 2) || (et = 5 && (o = 0 || o = 1)) ||
       ((6 ≤ et && et ≤ 8) && (o ≤ 3)) then some (et, o) else none
  | 1 =>
    if (o = 0 && 1 ≤ et && et ≤ 8) || (o = 1 && 2 ≤ et && et ≤ 8) ||
       (o = 2 && (et = 1 || et = 3 || et = 4 || (6 ≤ et && et ≤ 8))) then some (o, et) else none
  | 2 => -- float to integer: the narrower type is in vtype, and for equal widths the destination
    if etFloat o && etAnyInt et && etypeWidth et ≤ etypeWidth o then some (o, et)
    else if etFloat et && etAnyInt o && etypeWidth et < etypeWidth o then some (et, o) else none
  | 3 =>
    if etFloat et && etAnyInt o && etypeWidth et ≤ etypeWidth o then some (o, et)
    else if etFloat o && etAnyInt et && etypeWidth et < etypeWidth o then some (et, o) else none
  | 4 =>
    if etAnyInt et && etAnyInt o && et != o then
      if etypeWidth et = etypeWidth o then (if w.getLsbD 9 then none else some (o, et))
      else if etypeWidth et < etypeWidth o then (if w.getLsbD 9 then some (o, et) else some (et, o))
      else none
    else none
  | 5 => if etFloat o && (etNarrowFloat et || et = 11 || et = 12) then some (o, et) else none
  | 6 => if etFloat o && (etNarrowFloat et || et = 11 || et = 12) then some (et, o) else none
  | _ => none

/-- A destination group and a source group of a word. -/
def gDst (r : RegNo) (n : Nat) : Grp := { reg := r.toNat, n := n, align := n, dst := true }
def gSrc (r : RegNo) (n : Nat) : Grp := { reg := r.toNat, n := n, align := n, dst := false }

/-- The shape of a vector or tile word under a type state. DESIGN CHOICE (log entry 114): `vlla` accepts no `e8m0`. -/
def shape (w : IWord) (et g : Nat) : Shape :=
  let p := Shape.plain
  let wd := etypeWidth et
  let fn := wFn5 w
  let d := wVd w
  let v1 := wV1 w
  let v2 := wV2 w
  let ix := indexRegs g wd
  match wMaj w with
  | 0x20 => { p with dep := false, zeroStart := true }
  | 0x21 =>
    match fn with
    | 2 => { p with types := etByte et, groups := [{ reg := d.toNat, n := ((w.extractLsb' 10 3).toNat + 1) * g, align := g, dst := true }] }
    | 3 => { p with types := etByte et, groups := [gDst d g, gSrc v2 ix], apart := [(0, 1)] }
    | 4 => { p with types := etSub et, groups := [gDst d g] }
    | 5 => { p with groups := [gDst d g] }
    | 6 => { p with masks := [d], scaled := true }
    | _ => { p with types := etByte et, groups := [gDst d g] }
  | 0x22 =>
    match fn with
    | 2 => { p with types := etByte et, groups := [{ reg := d.toNat, n := ((w.extractLsb' 10 3).toNat + 1) * g, align := g, dst := false }] }
    | 3 => { p with types := etByte et, groups := [gSrc d g, gSrc v2 ix], apart := [(0, 1)] }
    | 4 => { p with types := etByte et, groups := [gSrc d g, gSrc v2 ix], apart := [(0, 1)] }
    | 5 => { p with types := etSub et, groups := [gSrc d g] }
    | 6 => { p with masks := [d], scaled := true }
    | _ => { p with types := etByte et, groups := [gSrc d g] }
  | 0x23 =>
    { p with types := if fn = 2 then etInt et || etFloat et else etByte et,
             groups := [if fn = 1 then gSrc d g else gDst d g, gSrc v2 ix], apart := [(0, 1)] }
  | 0x24 =>
    if 20 ≤ fn && fn ≤ 22 then
      { p with types := etHalfInt et, groups := [gDst d (2 * g), gSrc v1 g, gSrc v2 g], apart := [(0, 1), (0, 2)] }
    else if fn = 23 then
      { p with types := etHalfInt et, groups := [gDst d g, gSrc v1 g, gSrc v2 (2 * g)], apart := [(0, 1), (0, 2)] }
    else { p with types := etInt et, groups := [gDst d g, gSrc v1 g, gSrc v2 g] }
  | 0x25 => { p with types := etInt et, groups := [gDst d g, gSrc v2 g] }
  | 0x26 => { p with types := etInt et, groups := [gDst d g, gSrc v2 g] }
  | 0x27 =>
    if 9 ≤ fn && fn ≤ 11 then
      { p with types := etHalf et, groups := [gDst d (2 * g), gSrc v1 g, gSrc v2 g], apart := [(0, 1), (0, 2)] }
    else if fn = 4 || (12 ≤ fn && fn ≤ 15) || fn = 17 then { p with types := etFloat et, groups := [gDst d g, gSrc v2 g] }
    else { p with types := etFloat et, groups := [gDst d g, gSrc v1 g, gSrc v2 g] }
  | 0x28 => { p with types := etFloat et, groups := [gDst d g, gSrc v2 g] }
  | 0x29 =>
    match cvtPair w et with
    | none => { p with types := false, groups := [gDst d 1, gSrc v2 1] }
    | some (src, dst) =>
      let n (t : Nat) : Nat := if t = et then g else wideRegs g wd (etypeWidth t)
      { p with groups := [gDst d (n dst), gSrc v2 (n src)],
               apart := if etypeWidth src = etypeWidth dst then [] else [(0, 1)], scaled := fn = 5 || fn = 6 }
  | 0x2A =>
    if fn = 11 || fn = 12 then
      { p with types := etHalf et, groups := [gDst d (2 * g), gSrc v1 (2 * g), gSrc v2 g], apart := [(0, 1), (0, 2)],
               zeroStart := true }
    else { p with types := if 7 ≤ fn then etFloat et else etInt et, groups := [gDst d g, gSrc v1 g, gSrc v2 g],
                  zeroStart := true }
  | 0x2B =>
    match fn with
    | 0 => { p with types := etByte et, groups := [gDst d g, gSrc v2 g], apart := [(0, 1)] }
    | 1 => { p with types := etByte et, groups := [gDst d g, gSrc v2 g] }
    | 2 => { p with types := etByte et, groups := [gDst d g, gSrc v2 g], apart := [(0, 1)] }
    | 3 => { p with types := etByte et, groups := [gDst d g, gSrc v2 g] }
    | 4 => { p with types := etByte et, groups := [gDst d g, gSrc v1 g, gSrc v2 g], apart := [(0, 1), (0, 2)] }
    | 5 => { p with types := etByte et, groups := [gDst d g, gSrc v1 g, gSrc v2 g], apart := [(0, 1), (0, 2)] }
    | 6 => { p with types := etByte et, groups := [gDst d g, gSrc v2 g], apart := [(0, 1)], zeroStart := true }
    | 7 => { p with types := etByte et, groups := [gSrc v2 g], zeroStart := true }
    | 8 => { p with types := etByte et, groups := [gDst d g, gSrc v1 g, gSrc v2 g] }
    | 9 => { p with types := etByte et, groups := [gDst d g], masks := [v2], zeroStart := true }
    | _ => { p with types := etByte et, groups := [gDst d g] }
  | 0x2C =>
    if fn = 4 || fn = 5 then { p with masks := [v2] }
    else if fn ≤ 2 then { p with masks := [d, v1, v2] }
    else if fn = 8 || fn = 9 then { p with masks := [d] }
    else { p with masks := [d, v2] }
  | 0x2D => { p with types := if fn ≤ 4 then etInt et else etFloat et, groups := [gSrc v1 g, gSrc v2 g], masks := [d] }
  | 0x2E => { p with types := if fn ≤ 5 then etInt et else etFloat et, groups := [gSrc v2 g], masks := [d] }
  | 0x2F =>
    match fn with
    | 0 => { p with types := etByte et, groups := [gDst d g, gSrc v2 g] }
    | 1 => { p with types := etByte et, groups := [gSrc v2 g] }
    | 5 => { p with types := etByte et, groups := [gSrc v2 g] }
    | 6 => { p with dep := false, groups := [gDst d 1] }
    | 7 => { p with dep := false, groups := [gSrc v2 1] }
    | _ => { p with types := etByte et, groups := [gDst d g] }
  | 0x30 =>
    let t := et = 1
    match fn with
    | 0 => { p with types := t, groups := [gDst d (2 * g), gDst v1 g, gSrc v2 (2 * g)], apart := [(0, 1), (0, 2), (1, 2)] }
    | 1 => { p with types := t, groups := [gDst d (2 * g), gDst v1 (2 * g), gSrc v2 (2 * g)], apart := [(0, 1), (0, 2), (1, 2)] }
    | _ => { p with types := t, groups := [gDst d (2 * g), gSrc v2 (2 * g)], apart := [(0, 1)] }
  | 0x31 =>
    let ga := if (wSel w).getLsbD 0 then [] else [gSrc (wT1 w) g]
    let gb := if (wSel w).getLsbD 1 then [] else [gSrc (wT2 w) g]
    { p with tile := some (wTd w), zeroStart := true, groups := ga ++ gb, scaled := fn = 3,
             types := match fn with
               | 2 => et = 11 || et = 12
               | 3 => et = 3 || et = 4 || et = 5 || et = 8 || et = 11 || et = 12
               | _ => et ≤ 5 || et = 8 }
  | 0x32 =>
    { p with tile := some (wTd w), zeroStart := true, types := et = 0 || et = 9 || et = 13,
             groups := if fn = 0 then [] else if fn ≤ 2 then [gSrc (wT2 w) g] else [gDst (wT2 w) g] }
  | _ => { p with dep := false, tile := some (wTd w) }

/-- Two groups share a register. -/
def Grp.meets (a b : Grp) : Bool := decide (a.reg < b.reg + b.n) && decide (b.reg < a.reg + a.n)

/-- Check 6 for a vector or tile word: registers, tiles and mask fields in range. -/
def Shape.rangeOk (sh : Shape) (n ntiles : Nat) : Bool :=
  sh.groups.all (fun g => decide (g.reg < n)) && sh.masks.all (fun m => decide (m.toNat ≤ 3)) &&
  (match sh.tile with | some t => decide (t < ntiles) | none => true)

/-- The pairing of a group with a scale register (R54). -/
def scaleOf (v n : Nat) : Nat := 4 * v / n

/-- Check 7 for a vector or tile word (R49, R54, R61, R105, R106, R174). The limit of 8 registers is one of a single group: the
groups of a segment access need only lie below the register count. -/
def Shape.typeOk (sh : Shape) (w : IWord) (c : Convoy) (n : Nat) : Bool :=
  (!sh.zeroStart || c.vstart == 0) &&
  (!sh.dep || (!c.ill && sh.types &&
    sh.groups.all (fun g => decide (g.reg % g.align = 0) && decide (g.reg + g.n ≤ n) && (decide (g.n ≤ 8) || g.align != g.n)) &&
    sh.apart.all (fun p => !((sh.groups.getD p.1 ⟨0, 0, 1, false⟩).meets (sh.groups.getD p.2 ⟨0, 0, 1, false⟩))) &&
    (!sh.scaled || decide (c.vl ≤ 32768)) &&
    !(wMaj w == 0x31 && wFn5 w == 3 && scaleOf (wT1 w).toNat n == scaleOf (wT2 w).toNat n)))

/-! ## The checks of R110 -/

/-- Checks 2 to 7 of R110 for one word: the cause and sub-code of the first that fails. -/
def wordChecks (w : IWord) (s : State) (c : Convoy) : Option (Nat × Nat) :=
  let n := regCount s.vu.vcfg
  let sh := shape w c.et c.g
  if !(column w).admits s.thr then some (0x01, 2)
  else if !dirOk w s.thr then some (0x01, 3)
  else if needsS w && s.cur.priv == .u then some (0x11, 0)
  else if needsVec w && !s.me.xstate.getLsbD 0 then some (0x07, 0)
  else if needsTile w && !s.me.xstate.getLsbD 1 then some (0x08, 0)
  else if 0x20 ≤ wMaj w && !sh.rangeOk n s.me.ntiles then some (0x01, 4)
  else if 0x20 ≤ wMaj w && !sh.typeOk w c n then some (0x01, 5)
  else none

/-- The words of the convoy that follow a vector word in memory: every immediately following word with K = 1 that has a
K field (R42), at most `k` of them. -/
def convoyTail (get : Word → Option IWord) (pc : Word) : Nat → List IWord
  | 0 => []
  | k + 1 =>
    match get pc with
    | none => []
    | some w => if 0x20 ≤ wMaj w && wMaj w ≤ 0x33 && wK w then w :: convoyTail get (pc + 4) k else []

/-- The word at an address, as a fetch reads it: through the tables as hardware sees them, on the side in view (R208). -/
def State.codeAt (s : State) (va : Word) (p : Priv) : Option IWord :=
  match s.translateMe (s.visible s.me.ctx va) .fetch p with
  | .ok pa _ _ _ => some (BitVec.ofNat 32 (s.readPa pa 4))
  | _ => none

/-- The fetch of a convoy's next word. -/
def State.peekWord (s : State) (va : Word) : Option IWord := s.codeAt va s.me.x.priv

/-- At most one member of each lane unit class, two of ALU (R42 rule 2); a configuration word joins no convoy. -/
def classesOk (ws : List IWord) : Bool :=
  let count (c : LaneClass) : Nat := (ws.filter (fun w => laneClass w == c)).length
  count .memory ≤ 1 && count .alu ≤ 2 && count .special ≤ 1 && count .permute ≤ 1 && count .tile ≤ 1 && count .config = 0

/-- The vector-register sources of a word that carry a chain bit of 1 (R43, R102), by their places in it: bit 9 is the chain bit of the
first, vs1 or a store's data, bit 8 that of the last, vs2; a `vupd` reads the group of its vs1, which it also writes (R177), and bit 9
of a conversion is no chain bit (R155). -/
def chainedSources (w : IWord) (et g : Nat) : List Grp :=
  let m := wMaj w
  let gs := (shape w et g).groups
  let srcs := if m = 0x30 then gs.drop 1 else gs.filter (!·.dst)
  (if w.getLsbD 9 && m != 0x29 then srcs.take 1 else []) ++
  (if w.getLsbD 8 && m != 0x22 && m != 0x23 then srcs.getLast?.toList else [])

/-- The groups that a word writes. -/
def destinations (w : IWord) (et g : Nat) : List Grp := (shape w et g).groups.filter (·.dst)

/-- R42 rule 5: no member's source with chain bit 1 names the destination of an earlier member. -/
def chainsOk (et g : Nat) : List IWord → Bool
  | [] => true
  | w :: ws => ws.all (fun v => (chainedSources v et g).all (fun k => !(destinations w et g).any (·.meets k))) && chainsOk et g ws

/-- The first member of a convoy that fails one of checks 1 to 7, with what it records. -/
def memberFault (s : State) (c : Convoy) : List IWord → Option (Nat × Nat × IWord)
  | [] => none
  | w :: ws =>
    match check w with
    | .error .undefined => some (0x01, 0, w)
    | .error .reserved => some (0x01, 1, w)
    | _ =>
      match wordChecks w s c with
      | some (cause, sub) => some (cause, sub, w)
      | none => memberFault s c ws

/-- A vector or tile word (R102). -/
def isVec (w : IWord) : Bool := 0x20 ≤ wMaj w && wMaj w ≤ 0x33

/-- Checks 2 to 7 of the word alone. -/
def aloneChecks (w : IWord) (s : State) : Option (Nat × Nat × IWord) :=
  match wordChecks w s (s.cap w) with
  | some (cause, sub) => some (cause, sub, w)
  | none => none

/-- The convoy in progress expects the word at hand (R42 rule 3); so it does the member that a return restarts while later members
are held (R274). -/
def State.expected (s : State) (w : IWord) : Bool :=
  match s.me.conv with
  | some c => (c.next == s.me.x.pc || s.me.resumeAt.isSome) && wMaj w != 0x20
  | none => false

/-- How many words of the address space may follow one. -/
def convoySpan : Nat := 4611686018427387903

/-- The checks of the first word of a convoy for its later members, which begin at element 0 (R42, R110). -/
def convoyChecks (w : IWord) (s : State) : Option (Nat × Nat × IWord) :=
  let c := s.cap w
  let tail := convoyTail s.peekWord (s.me.x.pc + 4) convoySpan
  match memberFault s { c with vstart := 0, lgp := Vector.replicate 4 0 } tail with
  | some f => some f
  | none => if tail.isEmpty || (classesOk (w :: tail) && chainsOk c.et c.g (w :: tail)) then none else some (0x02, 0, w)

/-- The checks that a word of the thread at hand passes before it issues: cause, sub-code and the word that R110 puts
into `tval`. A convoy is checked as a whole at its first word; a later member must be the one the convoy expects. A word
that runs again from the flight table has passed them, but for those of its own operands. DEDUCED (log entry 115): check 8 applies to
`vnsrd` and `vnswr` too. -/
def checks (w : IWord) (s : State) : Option (Nat × Nat × IWord) :=
  match aloneChecks w s with
  | some f => some f
  | none =>
    if !isVec w || s.thr != .x || s.held.isSome then none
    else if wK w then (if s.expected w then none else some (0x02, 0, w))
    else if wMaj w = 0x20 then none
    else convoyChecks w s

/-- Runs a checked word: a failing check traps (R110), otherwise the body runs, with the convoy ended unless the body
continues it. A queued request to stop is left to `step`. -/
def perform (w : IWord) (s : State) (body : State → Res) : Out :=
  match checks w s with
  | some (cause, sub, v) => .next (s.takeTrap (s.trapAt cause sub (v.zeroExtend 64)))
  | none => .next (body s).state

/-! ## Scalar registers and queue ports (R46, R47) -/

/-- A register's value; register 0 reads as zero. -/
def Thread.reg (t : Thread) (r : RegNo) : Word := if r = 0 then 0 else t.regs.toList.getD r.toNat 0

/-- Writes a register; a write of register 0 is discarded. -/
def Thread.setReg (t : Thread) (r : RegNo) (v : Word) : Thread :=
  if r = 0 then t else { t with regs := t.regs.setIfInBounds r.toNat v }

/-- A register field of the thread at hand names a queue port. -/
def State.isPort (s : State) (r : RegNo) : Bool := s.thr == .x && decide (24 ≤ r.toNat)

/-- A queue of the strand at hand. -/
def State.queue (s : State) (q : Nat) : Queue := s.me.queues.toList.getD q Queue.reset

/-- Replaces a queue of the strand at hand. -/
def State.setQueue (s : State) (q : Nat) (k : Queue) : State :=
  { s with me := { s.me with queues := s.me.queues.setIfInBounds q k } }

/-- The capacity of a queue (R30). -/
def capacity (q : Nat) : Nat := if q ≤ 7 then 1024 else if q ≤ 11 then 512 else 64

/-- A command pushes onto a queue or pops it: `cpyq`, `gath` with `qdst` or `qidx`, `scad` with `qidx` or `qval` (R189, R193,
R194). -/
def Cmd.bound (c : Cmd) (q : Nat) : Bool :=
  let f (o : Nat) : Nat := field c.block.toNat o 8
  (c.kind == 1 && f 8 == q) || (c.kind == 3 && c.flags.getLsbD 1 && f 16 == q) ||
  ((c.kind == 3 || c.kind == 4) && c.flags.getLsbD 0 && 8 + f 8 == q) || (c.kind == 4 && c.flags.getLsbD 1 && 8 + f 16 == q)

/-- An engine command, `sprd` or `spwr` bound to a queue is outstanding (R121). -/
def State.boundTo (s : State) (q : Nat) : Bool :=
  s.cmds.any (fun c => c.uid == s.me.uid && c.bound q) ||
  s.me.aops.any (fun o => match o.kind with | .sprd k _ _ _ => k == q | .spwr k _ _ _ => k == q | _ => false)

/-- Closed and empty (R121): the pop of such a queue raises queue protocol. -/
def State.closedEmpty (s : State) (q : Nat) : Bool := (s.queue q).closed && (s.queue q).items.isEmpty && !s.boundTo q

/-- The effect of a carried token (R93): the popping thread's later operations are held behind the covered ones. -/
def State.tokenEffect (s : State) (q : Nat) (t : Option Nat) : State :=
  match t with
  | none => s
  | some b =>
    if 8 ≤ q && q ≤ 11 then { s with me := { s.me with ahold := Nat.max s.me.ahold b } }
    else { s with me := { s.me with vhold := Nat.max s.me.vhold b } }

/-- Pops the head of a queue; the caller has seen that there is one. -/
def State.pop (s : State) (q : Nat) : Granule × State :=
  match (s.queue q).items with
  | [] => (0, s)
  | e :: l => (e.val, (s.setQueue q { s.queue q with items := l }).tokenEffect q e.tok)

/-- Pushes an entry, which takes the latest pending token of its queue (R93). -/
def State.push (s : State) (q : Nat) (v : Granule) (poison : Bool) : State :=
  let e : Entry := { val := v, tok := (s.me.avTok.toList.getD q none), poison := poison }
  let s' := s.setQueue q { s.queue q with items := (s.queue q).items ++ [e] }
  { s' with me := { s'.me with avTok := s'.me.avTok.setIfInBounds q none } }

/-- A pop of `n` entries may issue (R30, R47, R289). -/
def State.popReady (s : State) (q n : Nat) : Chk Unit :=
  if (s.queue q).items.length < n then (if s.closedEmpty q then .trap 0x0A 0 (BitVec.ofNat 64 q) else .stall .queue)
  else .ok ()

/-- One of the next `n` entries of a queue is poisoned. -/
def State.poisonHead (s : State) (q n : Nat) : Bool := ((s.queue q).items.take n).any (·.poison)

/-- A push may issue: a closed queue raises queue protocol, a full one stalls (R30, R121). -/
def State.pushReady (s : State) (q : Nat) : Chk Unit :=
  if (s.queue q).closed then .trap 0x0A 0 (BitVec.ofNat 64 q)
  else if capacity q ≤ (s.queue q).items.length then .stall .queue else .ok ()

/-- A pending operation of the A-thread will write a register (R90). -/
def State.awaited (s : State) (r : RegNo) : Bool :=
  s.me.aops.any fun o =>
    match o.kind with
    | .load rd _ _ _ => rd == r
    | .amo rd _ _ _ _ _ _ => rd == r
    | _ => false

/-- The first check of a list that does not pass. -/
def firstBad : List (Chk Unit) → Chk Unit
  | [] => .ok ()
  | .ok _ :: l => firstBad l
  | c :: _ => c

/-- The issue gate of a scalar instruction (R47, R90): its source registers are available, its ports hold what it pops,
its destination is free. In the X-thread it also waits for assists and for vector results (R63, R77). -/
def State.gate (s : State) (srcs : List RegNo) (dst : Option RegNo) : Chk Unit :=
  match s.thr with
  | .a => if (srcs ++ dst.toList).any (fun r => r != 0 && s.awaited r) then .stall .operand else .ok ()
  | .x =>
    if s.me.assists != 0 then .stall .operand
    else
      let ports := srcs.filter s.isPort
      let need (r : RegNo) : Nat := (ports.filter (· == r)).length
      let avail := ports.map (fun r => s.popReady (r.toNat - 24) (need r))
      let poison := ports.map (fun r =>
        if s.poisonHead (r.toNat - 24) (need r) then Chk.trap 0x09 1 (BitVec.ofNat 64 (r.toNat - 24)) else .ok ())
      let out := match dst with
        | some r => if s.isPort r then [s.pushReady (r.toNat - 24 + 8)] else []
        | none => []
      firstBad (avail ++ out ++ poison)

/-- Reads a register field of the thread at hand, popping its port. -/
def State.take (s : State) (r : RegNo) : Word × State :=
  if s.isPort r then
    let (g, s') := s.pop (r.toNat - 24)
    (g.extractLsb' 0 64, s')
  else (s.cur.reg r, s)

/-- Writes a register field of the thread at hand, pushing its port. -/
def State.put (s : State) (r : RegNo) (v : Word) : State :=
  if s.isPort r then s.push (r.toNat - 24 + 8) (v.zeroExtend 128) false else s.setCur (s.cur.setReg r v)

/-- Ends the convoy, as every scalar word does (R104). -/
def State.endConvoy (s : State) : State := if s.thr = .x then { s with me := { s.me with conv := none } } else s

/-- The scalar operand form: a word with source fields, in the order they pop (R14), and a destination field. The body
computes from the state after the pops and the source values (0 where there is none); a precise trap of it goes back to
`s`, the state before them. -/
def scalarOp (w : IWord) (srcs : List RegNo) (dst : Option RegNo) (s : State)
    (body : State → Word → Word → Word → Res) : Out :=
  perform w s fun s0 =>
    (s0.gate srcs dst).then s0 fun _ =>
      match srcs with
      | [] => body s0.endConvoy 0 0 0
      | [a] => body (s0.endConvoy.take a).2 (s0.endConvoy.take a).1 0 0
      | [a, b] =>
        let p := s0.endConvoy.take a
        let q := p.2.take b
        body q.2 p.1 q.1 0
      | a :: b :: c :: _ =>
        let p := s0.endConvoy.take a
        let q := p.2.take b
        let r := q.2.take c
        body r.2 p.1 q.1 r.1

/-- A word that computes a register from two sources and retires. -/
def regOp (w : IWord) (srcs : List RegNo) (d : RegNo) (s : State) (f : Word → Word → Word) : Out :=
  scalarOp w srcs (some d) s fun s1 x y _ => .done ((s1.put d (f x y)).retire)

/-- A jump of the thread at hand; a misaligned target raises 0x03 and leaves the pc (R100). -/
def State.jump (s : State) (t : Word) : Chk State :=
  if t.extractLsb' 0 2 != 0 then .trap 0x03 0 t else .ok (s.setPc t)

end Sys2Proof.Machine
end

