-- ==== Sys2Proof/Machine/Memory.lean ====
section
/-!
DEFINITION. Scalar memory (R116) and atomics (R117), and the transitions of the reference machine that perform them
(R87-R90): a load, store or AMO issues here as a pending operation, and is performed by an event.
-/

namespace Sys2Proof.Machine

/-! ## Issue -/

/-- Adds an operation to the A-thread's pending ones, held behind the V operations of the last token popped (R93). -/
def State.issueA (s : State) (w : IWord) (k : AKind) (va : Word) (p : Place) : State :=
  let o : AOp := { id := s.me.anext, pc := s.pc, word := w, kind := k, va := va, place := p, hold := s.me.ahold }
  { s with me := { s.me with aops := s.me.aops ++ [o], anext := s.me.anext + 1 } }

/-- The bytes of an AMO word's operand (R117). -/
def amoBytes (w : Bool) : Nat := if w then 8 else 4

/-- A load word (R116): address, place, pending load. -/
def loadForm (w : IWord) (d a : RegNo) (off : Word) (n : Nat) (sgn acq : Bool) (s : State) : Out :=
  scalarOp w [a] (some d) s fun s1 x _ _ =>
    (s1.scalarPlace (x + off) n .load).then s fun (p, s2) =>
      .done ((s2.issueA w (.load d n sgn acq) (x + off) p).retire)

/-- A store word (R116): the store joins the store buffer. -/
def storeForm (w : IWord) (v a : RegNo) (off : Word) (n : Nat) (rel : Bool) (s : State) : Out :=
  scalarOp w [a, v] none s fun s1 x y _ =>
    (s1.scalarPlace (x + off) n .store).then s fun (p, s2) =>
      .done ((s2.issueA w (.store n (y &&& BitVec.ofNat 64 (2 ^ (8 * n) - 1)) rel) (x + off) p).retire)

/-- A read-modify-write word (R117); `amo.cas` captures its expected value from rd. Its order is in force when its scope contains
the agents of the case (R97). -/
def amoForm (fn : BitVec 6) (d a b : RegNo) (o s2 : BitVec 2) (w : Bool) (s : State) : Out :=
  let word := packS3 0x0c#6 d a b fn (o ++ s2 ++ BitVec.ofBool w)
  scalarOp word [a, b, d] (some d) s fun s1 x y z =>
    (s1.scalarPlace x (amoBytes w) .amo).then s fun (p, s3) =>
      .done ((s3.issueA word (.amo d fn.toNat (amoBytes w) y z (o.getLsbD 0 && s.inForce s2) (o.getLsbD 1 && s.inForce s2)) x p).retire)

/-! ## The instructions -/

/-- `ldb` (R116). -/
def execLdb (d : RegNo) (a : RegNo) (o : BitVec 13) (s : State) : Out :=
  loadForm (packSM 0x0a#6 d a 0#3 o) d a (o.signExtend 64) 1 true false s

/-- `ldbn` (R116). -/
def execLdbn (d : RegNo) (a : RegNo) (o : BitVec 13) (s : State) : Out :=
  loadForm (packSM 0x0a#6 d a 1#3 o) d a (o.signExtend 64) 1 false false s

/-- `ldh` (R116). -/
def execLdh (d : RegNo) (a : RegNo) (o : BitVec 13) (s : State) : Out :=
  loadForm (packSM 0x0a#6 d a 2#3 o) d a (o.signExtend 64) 2 true false s

/-- `ldhn` (R116). -/
def execLdhn (d : RegNo) (a : RegNo) (o : BitVec 13) (s : State) : Out :=
  loadForm (packSM 0x0a#6 d a 3#3 o) d a (o.signExtend 64) 2 false false s

/-- `ldw` (R116). -/
def execLdw (d : RegNo) (a : RegNo) (o : BitVec 13) (s : State) : Out :=
  loadForm (packSM 0x0a#6 d a 4#3 o) d a (o.signExtend 64) 4 true false s

/-- `ldwn` (R116). -/
def execLdwn (d : RegNo) (a : RegNo) (o : BitVec 13) (s : State) : Out :=
  loadForm (packSM 0x0a#6 d a 5#3 o) d a (o.signExtend 64) 4 false false s

/-- `ldd` (R116). -/
def execLdd (d : RegNo) (a : RegNo) (o : BitVec 13) (s : State) : Out :=
  loadForm (packSM 0x0a#6 d a 6#3 o) d a (o.signExtend 64) 8 true false s

/-- `stb` (R116). -/
def execStb (v a : RegNo) (o : BitVec 13) (s : State) : Out :=
  storeForm (packSM 0x0b#6 v a 0#3 o) v a (o.signExtend 64) 1 false s

/-- `sth` (R116). -/
def execSth (v a : RegNo) (o : BitVec 13) (s : State) : Out :=
  storeForm (packSM 0x0b#6 v a 1#3 o) v a (o.signExtend 64) 2 false s

/-- `stw` (R116). -/
def execStw (v a : RegNo) (o : BitVec 13) (s : State) : Out :=
  storeForm (packSM 0x0b#6 v a 2#3 o) v a (o.signExtend 64) 4 false s

/-- `std` (R116). -/
def execStd (v a : RegNo) (o : BitVec 13) (s : State) : Out :=
  storeForm (packSM 0x0b#6 v a 3#3 o) v a (o.signExtend 64) 8 false s

/-- `amo.add` (R117). -/
def execAmoAdd (d a b : RegNo) (o sc : BitVec 2) (w : Bool) (s : State) : Out := amoForm 0#6 d a b o sc w s

/-- `amo.and` (R117). -/
def execAmoAnd (d a b : RegNo) (o sc : BitVec 2) (w : Bool) (s : State) : Out := amoForm 1#6 d a b o sc w s

/-- `amo.or` (R117). -/
def execAmoOr (d a b : RegNo) (o sc : BitVec 2) (w : Bool) (s : State) : Out := amoForm 2#6 d a b o sc w s

/-- `amo.xor` (R117). -/
def execAmoXor (d a b : RegNo) (o sc : BitVec 2) (w : Bool) (s : State) : Out := amoForm 3#6 d a b o sc w s

/-- `amo.min` (R117). -/
def execAmoMin (d a b : RegNo) (o sc : BitVec 2) (w : Bool) (s : State) : Out := amoForm 4#6 d a b o sc w s

/-- `amo.max` (R117). -/
def execAmoMax (d a b : RegNo) (o sc : BitVec 2) (w : Bool) (s : State) : Out := amoForm 5#6 d a b o sc w s

/-- `amo.minn` (R117). -/
def execAmoMinn (d a b : RegNo) (o sc : BitVec 2) (w : Bool) (s : State) : Out := amoForm 6#6 d a b o sc w s

/-- `amo.maxn` (R117). -/
def execAmoMaxn (d a b : RegNo) (o sc : BitVec 2) (w : Bool) (s : State) : Out := amoForm 7#6 d a b o sc w s

/-- `amo.swap` (R117). -/
def execAmoSwap (d a b : RegNo) (o sc : BitVec 2) (w : Bool) (s : State) : Out := amoForm 8#6 d a b o sc w s

/-- `amo.cas` (R117). -/
def execAmoCas (d a b : RegNo) (o sc : BitVec 2) (w : Bool) (s : State) : Out := amoForm 9#6 d a b o sc w s

/-- `ld.acq` (R117): a load with order acquire, sign-extended. -/
def execLdAcq (d a : RegNo) (sc : BitVec 2) (w : Bool) (s : State) : Out :=
  loadForm (packS3 0x0c#6 d a 0#5 10#6 (1#2 ++ sc ++ (BitVec.ofBool w))) d a 0 (amoBytes w) true (s.inForce sc) s

/-- `st.rel` (R117): a store that drains under the release rule. -/
def execStRel (a b : RegNo) (sc : BitVec 2) (w : Bool) (s : State) : Out :=
  storeForm (packS3 0x0c#6 0#5 a b 11#6 (2#2 ++ sc ++ (BitVec.ofBool w))) b a 0 (amoBytes w) (s.inForce sc) s

/-! ## Performing (R90) -/

/-- A trap of the A-thread, whichever thread is at hand. -/
def State.trapA (s : State) (t : Trap) : State := { { s with thr := .a }.takeTrap t with thr := s.thr }

/-- The A-thread's operations issued before a number. -/
def State.before (s : State) (id : Nat) : List AOp := s.me.aops.filter (fun o => decide (o.id < id))

/-- Removes a pending operation. -/
def State.dropA (s : State) (id : Nat) : State :=
  { s with me := { s.me with aops := s.me.aops.filter (fun o => o.id != id) } }

/-- The strand at hand is not away: what it left pending when it was suspended waits for its return (R98; log entry 40). -/
def State.present (s : State) : Bool := s.me.status != .suspended

/-- No V operation that the operation is held behind is pending (R93). -/
def State.unheld (s : State) (o : AOp) : Bool := !s.me.vops.any (fun v => decide (v.id < o.hold))

/-- The next access of a reading operation: one granule of a `sprd`, else the whole. -/
def AOp.nextRead (o : AOp) : List (Loc × Nat) :=
  match o.kind with
  | .sprd _ d next _ => [(granuleLoc o.place.loc d next, 16)]
  | _ => o.spans

/-- Two operations are streams into, or out of, one queue: their granules keep the order of issue (R122). -/
def AOp.sameStream (o e : AOp) : Bool :=
  match o.kind, e.kind with
  | .sprd q _ _ _, .sprd k _ _ _ => q == k
  | .spwr q _ _ _, .spwr k _ _ _ => q == k
  | _, _ => false

/-- A pending load, or the next granule of a `sprd`, may be performed (R90, R93). The order of an AMO and a later load is that of
acquires alone, as the table of R90 has it (log entry 22). -/
def State.loadReady (s : State) (o : AOp) : Bool :=
  s.present && s.unheld o && o.nextRead.all (fun r => s.homeStill r.1) && (s.before o.id).all (fun e =>
    !e.acquires && !o.sameStream e && !(e.reads && o.nextRead.any (fun r => e.touches r.1 r.2)))

/-- The value of a read at a location: that of the youngest covering store-buffer entry, that of the home, or none while
an entry that covers only some bytes, or one whose value is not there yet, has not drained (R90). -/
def State.loadValue (s : State) (o : AOp) (l : Loc) (n : Nat) : Option (Nat × Bool) :=
  match s.bufferHit o.id l n with
  | none => some (s.readHome l n, true)
  | some e =>
    match e.kind, e.place.loc.covers (match e.kind with | .store m _ _ => m | _ => 0) l n with
    | .store _ v _, some k => some (v.toNat / 2 ^ (8 * k) % 2 ^ (8 * n), false)
    | _, _ => none

/-- The value that a load of `n` bytes puts into its register. -/
def extend (n : Nat) (sgn : Bool) (v : Nat) : Word := if sgn then sx (8 * n) v else BitVec.ofNat 64 v

/-- Writes a register of the A-thread. -/
def State.setA (s : State) (r : RegNo) (v : Word) : State := { s with me := { s.me with a := s.me.a.setReg r v } }

/-- A precise trap of a pending operation when it is performed (R116, R117): the operation is gone and the trap names its
instruction. -/
def State.lateTrap (s : State) (o : AOp) (cause : Nat) : State :=
  (s.dropA o.id).trapA { cause := cause, sub := 0, tval := o.va, tepc := o.pc, pages := [], more := false, resume := false }

/-- The byte ranges that the element of a pending V operation of `w` bits touches. -/
def VOp.touched (o : VOp) (w : Nat) : List (Loc × Nat) :=
  match o.far with
  | none => o.place.sides ((o.bit + w + 7) / 8)
  | some q => o.place.sides 1 ++ q.sides 1

/-- The byte ranges that a V operation touches: for the commit of a `vappend`, its entries and bytes 16-47 of the header
(R161, R162). -/
def VOp.spans (o : VOp) : List (Loc × Nat) :=
  match o.kind with
  | .load _ w => o.touched w
  | .scale _ _ => o.touched 8
  | .store w _ => o.touched w
  | .commit _ _ _ _ slots => (o.place.loc, 32) :: slots

/-- Two V operations touch an overlapping location. -/
def VOp.meets (a b : VOp) : Bool := a.spans.any (fun p => b.spans.any (fun q => p.1.meets p.2 q.1 q.2))

/-- Performs a pending load, or moves the next granule of a `sprd`; nothing happens while it is not permitted. -/
def State.performLoad (s : State) (o : AOp) : State :=
  if !s.loadReady o then s
  else
    match o.kind with
    | .load rd n sgn _ =>
      let l := s.placeNow s.me.ctx o.place
      match s.loadValue o l n with
      | none => s
      | some (v, home) =>
        if home && s.poisonedAt l n then s.lateTrap o 0x09
        else if let .absent c := l then s.lateTrap o c
        else ((if home then s.countMaybe l o.va s.me.source else s).dropA o.id).setA rd (extend n sgn v)
    | .sprd q d next count =>
      let l := granuleLoc o.place.loc d next
      if capacity q ≤ (s.queue q).items.length then s
      else
        match s.loadValue o l 16 with
        | none => s
        | some (v, home) =>
          let s1 := s.push q (BitVec.ofNat 128 v) (home && s.poisonedAt l 16)
          if next + 1 = count then s1.dropA o.id
          else { s1 with me := { s1.me with aops := s1.me.aops.map (fun e =>
            if e.id = o.id then { e with kind := .sprd q d (next + 1) count } else e) } }
    | _ => s

/-- A store-buffer entry may drain (R90, R87), where `core` says which earlier operations the plain order counts that has core
scope: the FIFO order of entries for different locations, and the wait for loads of other locations (R97). -/
def State.drainsIn (s : State) (core : AOp → Bool) (o : AOp) : Bool :=
  s.present && s.unheld o && (s.before o.id).all (fun e =>
    !e.acquires && !o.releases && !o.sameStream e &&
    !((e.reads || e.stores) && (core e || o.spans.any (fun r => e.touches r.1 r.2))))

/-- A store-buffer entry may drain. -/
def State.drainReady (s : State) (o : AOp) : Bool := s.drainsIn (fun _ => s.inForce 0) o

/-- The store-buffer entry that drains next: the head, or a free choice among the entries that may drain where the core-scope
order is not in force (R97). -/
def State.drainNext (s : State) : Option AOp :=
  match s.me.aops.filter (fun o => o.stores && s.drainReady o) with
  | [] => none
  | [o] => some o
  | l => l[s.drawFree.1.toNat % l.length]?

/-- The token of a queue's head entry lets the popping stream write at once: its operations are performed. -/
def State.tokenDone (s : State) (t : Option Nat) : Bool :=
  match t with
  | none => true
  | some b => !s.me.vops.any (fun v => decide (v.id < b))

/-- Writes what an entry of the store buffer stores, or moves the next granule of a `spwr` (R122). -/
def State.drainNow (s : State) (o : AOp) : State :=
  match o.kind with
  | .store n v _ =>
    let l := o.place.loc
    if !s.mayReach l s.me.source then s
    else ((s.countMaybe l o.va s.me.source).storeTo l o.place.pte n v.toNat).dropA o.id
  | .spwr q d next count =>
    match (s.queue q).items with
    | [] => s
    | e :: _ =>
      if e.poison then
        (s.dropA o.id).trapA { cause := 0x09, sub := 1, tval := BitVec.ofNat 64 q, tepc := o.pc, pages := [], more := false, resume := false }
      else if !s.tokenDone e.tok || !s.mayReach (granuleLoc o.place.loc d next) s.me.source then s
      else
        let (v, s1) := s.pop q
        let s2 := s1.storeTo (granuleLoc o.place.loc d next) none 16 v.toNat
        if next + 1 = count then s2.dropA o.id
        else { s2 with me := { s2.me with aops := s2.me.aops.map (fun e =>
          if e.id = o.id then { e with kind := .spwr q d (next + 1) count } else e) } }
  | _ => s

/-- Drains an entry of the store buffer; nothing happens while it may not. -/
def State.drainOp (s : State) (o : AOp) : State := if s.drainReady o then s.drainNow o else s

/-- Drains the entry that drains next. -/
def State.drain (s : State) : State :=
  match s.drainNext with
  | some o => (if s.inForce 0 then s else s.drawFree.2).drainOp o
  | none => s

/-- An AMO may be performed (R90, R87), where `core` says which earlier operations its plain waits for other locations count, which
have core scope (R97). -/
def State.amoIn (s : State) (core : AOp → Bool) (o : AOp) : Bool :=
  s.present && s.unheld o && (s.before o.id).all (fun e =>
    !e.acquires && !o.releases &&
    !((e.reads || e.stores || e.amo) && (core e || o.spans.any (fun r => e.touches r.1 r.2))))

/-- An AMO may be performed. -/
def State.amoReady (s : State) (o : AOp) : Bool := s.amoIn (fun _ => s.inForce 0) o

/-- The value that an AMO function gives (R117), over unsigned values of `n` bytes. -/
def amoValue (fn n : Nat) (old v cmp : Nat) : Nat :=
  match fn with
  | 0 => (old + v) % 2 ^ (8 * n)
  | 1 => Nat.land old v
  | 2 => Nat.lor old v
  | 3 => Nat.xor old v
  | 4 => if signedOf (8 * n) v < signedOf (8 * n) old then v else old
  | 5 => if signedOf (8 * n) old < signedOf (8 * n) v then v else old
  | 6 => Nat.min old v
  | 7 => Nat.max old v
  | 8 => v
  | _ => if old = cmp then v else old

/-- An AMO writes, unless it is an `amo.cas` that leaves the value as it is (R117). -/
def amoWrites (fn old new : Nat) : Bool := !(fn == 9 && new == old)

/-- Reads, modifies and writes at the home in one transition (R90, R117). -/
def State.amoNow (s : State) (o : AOp) : State :=
  match o.kind with
  | .amo rd fn n v cmp _ _ =>
    let l := o.place.loc
    if !s.mayReach l s.me.source then s
    else
      if s.poisonedAt l n then s.lateTrap o 0x09
      else
        let old := s.readHome l n
        let new := amoValue fn n old (v.toNat % 2 ^ (8 * n)) (cmp.toNat % 2 ^ (8 * n))
        let s0 := s.countPlace l o.va s.me.source
        let s1 := if amoWrites fn old new then s0.storeTo l o.place.pte n new else s0
        (s1.dropA o.id).setA rd (sx (8 * n) old)
  | _ => s

/-- Performs a pending AMO; nothing happens while it may not be. -/
def State.performAmo (s : State) (o : AOp) : State := if s.amoReady o then s.amoNow o else s

/-- LOAD_PERFORM (R90): the pending load, or the `sprd`, numbered `k` among the A-thread's operations. -/
def execLoadPerform (k : Nat) (s : State) : Out :=
  match s.me.aops.find? (fun o => o.id == k) with
  | some o => .next (s.performLoad o)
  | none => .next s

/-- STORE_DRAIN (R90): the head store-buffer entry, or another that may drain. -/
def execStoreDrain (s : State) : Out := .next s.drain

/-- AMO_PERFORM (R90): the pending AMO numbered `k`. -/
def execAmoPerform (k : Nat) (s : State) : Out :=
  match s.me.aops.find? (fun o => o.id == k) with
  | some o => .next (s.performAmo o)
  | none => .next s

end Sys2Proof.Machine
end

