-- ==== Sys2Proof/Machine/Queues.lean ====
section
/-!
DEFINITION. Queues (R30, R92, R121) and the scratchpad streams (R122).
-/

namespace Sys2Proof.Machine

/-- A `sprd` into a queue, or a `spwr` out of it, is pending. -/
def State.streaming (s : State) (q : Nat) : Bool :=
  s.me.aops.any (fun o => match o.kind with | .sprd k _ _ _ => k == q | .spwr k _ _ _ => k == q | _ => false)

/-- An engine command still has granules to pop from a queue: the index queue of a `gath` or `scad`, the value queue of a
`scad` (R193, R194). -/
def Cmd.stillPops (c : Cmd) (q : Nat) : Bool :=
  let b := c.block.toNat
  let n := field b 24 4
  let need (bytes : Nat) : Nat := (n * bytes + 15) / 16
  (c.kind == 3 || c.kind == 4) &&
    ((c.flags.getLsbD 0 && 8 + field b 8 8 == q && decide (c.popped.length < need (field b 29 1))) ||
     (c.kind == 4 && c.flags.getLsbD 1 && 8 + field b 16 8 == q && decide (c.vals.length < need (etypeWidth (field b 28 1) / 8))))

/-- The order of a thread's pushes and pops with its earlier streams and commands on the queue (R122, R193). -/
def State.afterStreams (s : State) (q : Nat) : Chk Unit :=
  if s.thr = .a && (s.streaming q || s.cmds.any (fun c => c.uid == s.me.uid && c.stillPops q)) then .stall .queue else .ok ()

/-- The head of a queue may be popped or seen: it is there, and not poisoned (R121, R289). -/
def State.headReady (s : State) (q : Nat) : Chk Unit :=
  firstBad [s.popReady q 1, s.afterStreams q, if s.poisonHead q 1 then .trap 0x09 1 (BitVec.ofNat 64 q) else .ok ()]

/-- The value of a granule in a register: bits 63:0, or the bit of a `bq` entry (R121). -/
def headWord (g : Granule) : Word := g.extractLsb' 0 64

/-- A push of one granule by an instruction (R121). -/
def pushForm (w : IWord) (srcs : List RegNo) (q : Nat) (s : State) (f : Word → Granule) : Out :=
  scalarOp w srcs none s fun s1 x _ _ =>
    (firstBad [s1.pushReady q, s1.afterStreams q]).then s fun _ => .done ((s1.push q (f x) false).retire)

/-- `qpush` (R121): bits 127:64 of the granule are zero. -/
def execQpush (a q : RegNo) (s : State) : Out := pushForm (packS3 0x17#6 0#5 a q 0#6 0#5) [a] q.toNat s (fun x => x.zeroExtend 128)

/-- `qpop` (R121). -/
def execQpop (d q : RegNo) (s : State) : Out :=
  scalarOp (packS3 0x17#6 d 0#5 q 1#6 0#5) [] (some d) s fun s1 _ _ _ =>
    (s1.headReady q.toNat).then s fun _ =>
      let p := s1.pop q.toNat
      .done ((p.2.put d (headWord p.1)).retire)

/-- `qpeek` (R121): the head stays and its token takes no effect. -/
def execQpeek (d q : RegNo) (s : State) : Out :=
  scalarOp (packS3 0x17#6 d 0#5 q 2#6 0#5) [] (some d) s fun s1 _ _ _ =>
    (s1.headReady q.toNat).then s fun _ =>
      .done ((s1.put d (headWord (s1.pop q.toNat).1)).retire)

/-- `qtest` (R121). -/
def execQtest (d q : RegNo) (s : State) : Out :=
  regOp (packS3 0x17#6 d 0#5 q 3#6 0#5) [] d s (fun _ _ =>
    (if (s.queue q.toNat).closed then 2 else 0) + (if (s.queue q.toNat).items.isEmpty then 1 else 0))

/-- `qclose` (R121). -/
def execQclose (q : RegNo) (s : State) : Out :=
  scalarOp (packS3 0x17#6 0#5 0#5 q 4#6 0#5) [] none s fun s1 _ _ _ =>
    .done ((s1.setQueue q.toNat { s1.queue q.toNat with closed := true }).retire)

/-- `bpush` (R121): one bit onto `bq`. -/
def execBpush (a : RegNo) (s : State) : Out :=
  pushForm (packS3 0x17#6 0#5 a 12#5 5#6 0#5) [a] 12 s (fun x => (x.extractLsb' 0 1).zeroExtend 128)

/-- `qbr` (R121): pops `bq` and branches on its bit. -/
def execQbr (o : BitVec 20) (s : State) : Out :=
  scalarOp (packS3 0x17#6 (o.extractLsb' 15 5) (o.extractLsb' 10 5) (o.extractLsb' 5 5) 6#6 (o.extractLsb' 0 5)) [] none s fun s1 _ _ _ =>
    (s1.headReady 12).then s fun _ =>
      let p := s1.pop 12
      .done (if p.1.getLsbD 0 then p.2.setPc (s.pc + (o.signExtend 64 <<< 2)) else p.2.retire)

/-- `qflush` (R121): every entry and its token go, and the queue is open. -/
def execQflush (q : RegNo) (s : State) : Out :=
  scalarOp (packS3 0x17#6 0#5 0#5 q 9#6 0#5) [] none s fun s1 _ _ _ => .done ((s1.setQueue q.toNat Queue.reset).retire)

/-- `qdepth` (R121). -/
def execQdepth (d q : RegNo) (s : State) : Out :=
  regOp (packS3 0x17#6 d 0#5 q 10#6 0#5) [] d s (fun _ _ => BitVec.ofNat 64 (s.queue q.toNat).items.length)

/-! ## Streams (R122) -/

/-- The four consecutive registers of a descriptor (R122). -/
def Thread.desc (t : Thread) (a : RegNo) : Vector Word 4 := #v[t.reg a, t.reg (a + 1), t.reg (a + 2), t.reg (a + 3)]

/-- A reserved bit of the count or the descriptor is non-zero, or G or R is 0 (R122). -/
def streamBad (c : Word) (d : Vector Word 4) : Bool :=
  c.extractLsb' 32 32 != 0 || d[1].extractLsb' 48 16 != 0 || d[2].extractLsb' 48 16 != 0 || d[3].extractLsb' 3 61 != 0 ||
  d[1].extractLsb' 32 16 == 0 || d[2].extractLsb' 32 16 == 0

/-- The largest G: 4,096 granules per row (R122). -/
def streamWide (d : Vector Word 4) : Bool := decide (4096 < bits d[1].toNat 47 32)

/-- The checks of R122 at issue: the location at which the reservation of the stream's rank starts. -/
def State.streamCheck (s : State) (w : IWord) (c : Word) (d : Vector Word 4) : Chk (Option Loc) :=
  if streamBad c d || streamWide d then .trap 0x01 6 (w.zeroExtend 64)
  else if d[0].toNat % 16 ≠ 0 || bits d[1].toNat 31 0 % 16 ≠ 0 || bits d[2].toNat 31 0 % 16 ≠ 0 then .trap 0x03 0 d[0]
  else if !inWindow d[0] then .trap 0x06 0 d[0]
  else
    let o := d[0].toNat % 2 ^ 32
    let uid := if 2 ^ 25 ≤ o then none else s.rankStrand s.me (o / 2 ^ 23)
    let fits (n : Nat) : Bool :=
      match uid with
      | none => false
      | some m => decide (o % 2 ^ 23 + (granuleAddr d n - d[0].toNat) + 16 ≤ m.scratch)
    match (List.range c.toNat).find? (fun n => !fits n) with
    | some n => .trap 0x06 0 (BitVec.ofNat 64 (granuleAddr d n))
    | none => .ok (uid.map (fun m => .pad m.uid 0))

/-! ## The flight table (R278) -/

/-- A flight-table entry as it stands in memory (R278); `k` is its order within its thread. -/
def Flight.record (f : Flight) (k : Nat) : Nat :=
  f.pc.toNat + 2 ^ 64 * f.word.toNat
    + 2 ^ 96 * (1 + (if f.thread = .x then 2 else 0) + 4 * (k % 8) + 32 * f.rm.toNat + 256 * f.lscale.toNat)
    + 2 ^ 128 * (f.progress % 2 ^ 32) + 2 ^ 160 * (f.len % 2 ^ 32) + 2 ^ 192 * f.op0.toNat + 2 ^ 256 * f.op1.toNat
    + 2 ^ 320 * f.op2.toNat + 2 ^ 384 * (packLgp f.lgp % 2 ^ 128)

/-- A flight-table entry read from memory. -/
def Flight.ofRecord (r : Nat) : Flight :=
  { pc := BitVec.ofNat 64 (field r 0 8), word := BitVec.ofNat 32 (field r 8 4),
    thread := if field r 12 4 / 2 % 2 = 1 then .x else .a, order := field r 12 4 / 4 % 8,
    rm := BitVec.ofNat 3 (field r 12 4 / 32), lscale := BitVec.ofNat 8 (field r 12 4 / 256),
    progress := field r 16 4, len := field r 20 4, op0 := BitVec.ofNat 64 (field r 24 8),
    op1 := BitVec.ofNat 64 (field r 32 8), op2 := BitVec.ofNat 64 (field r 40 8),
    lgp := #v[field r 48 4, field r 52 4, field r 56 4, field r 60 4] }

/-- The 512 bytes of a flight table that holds A-thread entries and X-thread entries, each in order. -/
def flightTable (a x : List Flight) : Nat :=
  packList 64 ((a.zipIdx.map (fun e => e.1.record e.2)) ++ (x.zipIdx.map (fun e => e.1.record e.2)))

/-- The valid entries of a thread in a flight table, oldest first. -/
def flightOf (t : Nat) (thr : Tid) : List Flight :=
  let l := ((List.range 8).map (fun k => field t (64 * k) 64)).filter (fun r => r / 2 ^ 96 % 2 = 1)
  let l := (l.map Flight.ofRecord).filter (fun f => f.thread == thr)
  (List.range 8).flatMap (fun k => l.filter (fun f => f.order == k))

/-- The flight table of the strand at hand in memory. -/
def State.tableInMemory (s : State) : Nat := s.readVa s.me.ctx (s.saveArea s.me + 0x1400) 512

/-- The X-thread's entries: those of the slot while the strand owns it, else those that stand in its save area. -/
def State.xFlight (s : State) : List Flight :=
  if s.vu.owner = some s.me.uid then s.vu.flight
  else if s.me.stopped.isEmpty then [] else flightOf s.tableInMemory .x

/-- The flight table has room for one more entry (R278). -/
def State.flightRoom (s : State) : Bool :=
  decide ((s.me.aops.filter (fun o => match o.kind with | .sprd _ _ _ _ => true | .spwr _ _ _ _ => true | _ => false)).length
    + s.xFlight.length < 8)

/-- A stream word (R122): it checks its operands and its granules move later; a count of 0 does nothing. DESIGN CHOICE (log
entry 97): the checks come first, so that a word with a bad descriptor or a closed queue traps whatever its count. -/
def streamForm (w : IWord) (d a : RegNo) (s : State) (extra : State → Chk Unit)
    (k : Vector Word 4 → Nat → AKind) : Out :=
  scalarOp w [] (some d) s fun s1 _ _ _ =>
    let t := s1.cur
    (s1.gate [a, a + 1, a + 2, a + 3] none).then s fun _ =>
      (s1.streamCheck w (t.reg d) (t.desc a)).then s fun l =>
        (extra s1).then s fun _ =>
          if t.reg d = 0 then .done s1.retire
          else if !s1.flightRoom then .stall .queue s
          else
            let p : Place := { loc := l.getD (.pad 0 0), twin := none, pte := none, alt := none, pages := [] }
            .done ((s1.issueA w (k (t.desc a) (t.reg d).toNat) ((t.desc a)[0]) p).retire)

/-- `sprd` (R122): a closed queue raises queue protocol. -/
def execSprd (d a q : RegNo) (s : State) : Out :=
  streamForm (packS3 0x17#6 d a q 7#6 0#5) d a s
    (fun s1 => if (s1.queue q.toNat).closed then .trap 0x0A 0 (BitVec.ofNat 64 q.toNat) else .ok ())
    (fun v c => .sprd q.toNat v 0 c)

/-- `spwr` (R122); a poisoned entry that it would pop traps at issue (R289). -/
def execSpwr (d a q : RegNo) (s : State) : Out :=
  streamForm (packS3 0x17#6 d a q 8#6 0#5) d a s
    (fun s1 => if s1.poisonHead q.toNat (s1.cur.reg d).toNat then .trap 0x09 1 (BitVec.ofNat 64 q.toNat) else .ok ())
    (fun v c => .spwr q.toNat v 0 c)

end Sys2Proof.Machine
end

