-- ==== Sys2Proof/Machine/Scalar.lean ====
section
/-!
DEFINITION. Scalar work: integer operations and immediates (R114, R115), scalar floating point (R118), control flow
(R119) and loops (R120).
-/

namespace Sys2Proof.Machine

/-! ## Values of the integer functions (R114) -/

/-- 1 or 0. -/
def flag (b : Bool) : Word := if b then 1 else 0

/-- Leading zeros of the low `k` bits, from bit `k - 1` down. -/
def leadingZeros (v : Nat) : Nat → Nat
  | 0 => 0
  | k + 1 => if bits v k k = 1 then 0 else 1 + leadingZeros v k

/-- Trailing zeros among `k` bits from bit `i` up. -/
def trailingZeros (v : Nat) (i : Nat) : Nat → Nat
  | 0 => 0
  | k + 1 => if bits v i i = 1 then 0 else 1 + trailingZeros v (i + 1) k

/-- One bits among the low `k` bits. -/
def oneBits (v : Nat) : Nat → Nat
  | 0 => 0
  | k + 1 => bits v k k + oneBits v k

/-- Signed quotient toward zero, saturating (R114). -/
def divSigned (a b : Word) : Word :=
  if b = 0 then (if a.slt 0 then 0x8000000000000000 else 0x7FFFFFFFFFFFFFFF)
  else if a = 0x8000000000000000 && b = 0xFFFFFFFFFFFFFFFF then 0x7FFFFFFFFFFFFFFF
  else a.sdiv b

/-- Unsigned quotient (R114). -/
def divUnsigned (a b : Word) : Word := if b = 0 then 0xFFFFFFFFFFFFFFFF else a / b

/-- Signed remainder (R114). -/
def remSigned (a b : Word) : Word :=
  if b = 0 then a else if a = 0x8000000000000000 && b = 0xFFFFFFFFFFFFFFFF then 0 else a.srem b

/-- Unsigned remainder (R114). -/
def remUnsigned (a b : Word) : Word := if b = 0 then a else a % b

/-- Bits 127:64 of the signed and of the unsigned product (R114). -/
def mulHighSigned (a b : Word) : Word := BitVec.ofInt 64 (a.toInt * b.toInt / 2 ^ 64)
def mulHighUnsigned (a b : Word) : Word := BitVec.ofNat 64 (a.toNat * b.toNat / 2 ^ 64)

/-- The shift amount of a register: its bits 5:0. -/
def sh6 (b : Word) : Nat := (b.extractLsb' 0 6).toNat

/-! ## Forms -/

/-- An OPS word of two sources (R114). -/
def opsRR (fn : BitVec 6) (d a b : RegNo) (s : State) (f : Word → Word → Word) : Out :=
  regOp (packS3 0x01#6 d a b fn 0#5) [a, b] d s f

/-- An OPS word of one source (R114). -/
def opsR (fn : BitVec 6) (d a : RegNo) (s : State) (f : Word → Word) : Out :=
  regOp (packS3 0x01#6 d a 0#5 fn 0#5) [a] d s (fun x _ => f x)

/-- An OPS word with a shift amount (R114). -/
def opsShift (fn : BitVec 6) (d a : RegNo) (h : BitVec 6) (s : State) (f : Word → Nat → Word) : Out :=
  regOp (packS3 0x01#6 d a (h.extractLsb' 0 5) fn (0#4 ++ h.extractLsb' 5 1)) [a] d s (fun x _ => f x h.toNat)

/-- An immediate word (R115). -/
def immOp (maj : BitVec 6) (d a : RegNo) (i : BitVec 16) (s : State) (f : Word → Word → Word) : Out :=
  regOp (packSI maj d a i) [a] d s (fun x _ => f x (i.signExtend 64))

/-! ## Integer operations (R114) -/

/-- `add` (R114). -/
def execAdd (d a b : RegNo) (s : State) : Out := opsRR 0#6 d a b s (fun x y => x + y)

/-- `sub` (R114). -/
def execSub (d a b : RegNo) (s : State) : Out := opsRR 1#6 d a b s (fun x y => x - y)

/-- `and` (R114). -/
def execAnd (d a b : RegNo) (s : State) : Out := opsRR 2#6 d a b s (fun x y => x &&& y)

/-- `or` (R114). -/
def execOr (d a b : RegNo) (s : State) : Out := opsRR 3#6 d a b s (fun x y => x ||| y)

/-- `xor` (R114). -/
def execXor (d a b : RegNo) (s : State) : Out := opsRR 4#6 d a b s (fun x y => x ^^^ y)

/-- `andn` (R114). -/
def execAndn (d a b : RegNo) (s : State) : Out := opsRR 5#6 d a b s (fun x y => x &&& ~~~y)

/-- `sll` (R114). -/
def execSll (d a b : RegNo) (s : State) : Out := opsRR 6#6 d a b s (fun x y => x <<< sh6 y)

/-- `srl` (R114). -/
def execSrl (d a b : RegNo) (s : State) : Out := opsRR 7#6 d a b s (fun x y => x >>> sh6 y)

/-- `sra` (R114). -/
def execSra (d a b : RegNo) (s : State) : Out := opsRR 8#6 d a b s (fun x y => x.sshiftRight (sh6 y))

/-- `rol` (R114). -/
def execRol (d a b : RegNo) (s : State) : Out := opsRR 9#6 d a b s (fun x y => x.rotateLeft (sh6 y))

/-- `ror` (R114). -/
def execRor (d a b : RegNo) (s : State) : Out := opsRR 10#6 d a b s (fun x y => x.rotateRight (sh6 y))

/-- `slt` (R114). -/
def execSlt (d a b : RegNo) (s : State) : Out := opsRR 11#6 d a b s (fun x y => flag (x.slt y))

/-- `sltn` (R114). -/
def execSltn (d a b : RegNo) (s : State) : Out := opsRR 12#6 d a b s (fun x y => flag (x.ult y))

/-- `min` (R114). -/
def execMin (d a b : RegNo) (s : State) : Out := opsRR 13#6 d a b s (fun x y => if x.slt y then x else y)

/-- `max` (R114). -/
def execMax (d a b : RegNo) (s : State) : Out := opsRR 14#6 d a b s (fun x y => if x.slt y then y else x)

/-- `minn` (R114). -/
def execMinn (d a b : RegNo) (s : State) : Out := opsRR 15#6 d a b s (fun x y => if x.ult y then x else y)

/-- `maxn` (R114). -/
def execMaxn (d a b : RegNo) (s : State) : Out := opsRR 16#6 d a b s (fun x y => if x.ult y then y else x)

/-- `mul` (R114). -/
def execMul (d a b : RegNo) (s : State) : Out := opsRR 17#6 d a b s (fun x y => x * y)

/-- `mulh` (R114). -/
def execMulh (d a b : RegNo) (s : State) : Out := opsRR 18#6 d a b s (fun x y => mulHighSigned x y)

/-- `mulhn` (R114). -/
def execMulhn (d a b : RegNo) (s : State) : Out := opsRR 19#6 d a b s (fun x y => mulHighUnsigned x y)

/-- `div` (R114). -/
def execDiv (d a b : RegNo) (s : State) : Out := opsRR 20#6 d a b s (fun x y => divSigned x y)

/-- `divn` (R114). -/
def execDivn (d a b : RegNo) (s : State) : Out := opsRR 21#6 d a b s (fun x y => divUnsigned x y)

/-- `rem` (R114). -/
def execRem (d a b : RegNo) (s : State) : Out := opsRR 22#6 d a b s (fun x y => remSigned x y)

/-- `remn` (R114). -/
def execRemn (d a b : RegNo) (s : State) : Out := opsRR 23#6 d a b s (fun x y => remUnsigned x y)

/-- `clz` (R114). -/
def execClz (d a : RegNo) (s : State) : Out := opsR 24#6 d a s (fun x => BitVec.ofNat 64 (leadingZeros x.toNat 64))

/-- `ctz` (R114). -/
def execCtz (d a : RegNo) (s : State) : Out := opsR 25#6 d a s (fun x => BitVec.ofNat 64 (trailingZeros x.toNat 0 64))

/-- `popc` (R114). -/
def execPopc (d a : RegNo) (s : State) : Out := opsR 26#6 d a s (fun x => BitVec.ofNat 64 (oneBits x.toNat 64))

/-- `sextB` (R114). -/
def execSextB (d a : RegNo) (s : State) : Out := opsR 27#6 d a s (fun x => (x.extractLsb' 0 8).signExtend 64)

/-- `sextH` (R114). -/
def execSextH (d a : RegNo) (s : State) : Out := opsR 28#6 d a s (fun x => (x.extractLsb' 0 16).signExtend 64)

/-- `sextW` (R114). -/
def execSextW (d a : RegNo) (s : State) : Out := opsR 29#6 d a s (fun x => (x.extractLsb' 0 32).signExtend 64)

/-- `zextW` (R114). -/
def execZextW (d a : RegNo) (s : State) : Out := opsR 30#6 d a s (fun x => (x.extractLsb' 0 32).zeroExtend 64)

/-- `slli` (R114). -/
def execSlli (d a : RegNo) (h : BitVec 6) (s : State) : Out := opsShift 31#6 d a h s (fun x n => x <<< n)

/-- `srli` (R114). -/
def execSrli (d a : RegNo) (h : BitVec 6) (s : State) : Out := opsShift 32#6 d a h s (fun x n => x >>> n)

/-- `srai` (R114). -/
def execSrai (d a : RegNo) (h : BitVec 6) (s : State) : Out := opsShift 33#6 d a h s (fun x n => x.sshiftRight n)

/-! ## Immediates (R115) -/

/-- `addi` (R115). -/
def execAddi (d a : RegNo) (i : BitVec 16) (s : State) : Out := immOp 2#6 d a i s (fun x y => x + y)

/-- `andi` (R115). -/
def execAndi (d a : RegNo) (i : BitVec 16) (s : State) : Out := immOp 3#6 d a i s (fun x y => x &&& y)

/-- `ori` (R115). -/
def execOri (d a : RegNo) (i : BitVec 16) (s : State) : Out := immOp 4#6 d a i s (fun x y => x ||| y)

/-- `xori` (R115). -/
def execXori (d a : RegNo) (i : BitVec 16) (s : State) : Out := immOp 5#6 d a i s (fun x y => x ^^^ y)

/-- `slti` (R115). -/
def execSlti (d a : RegNo) (i : BitVec 16) (s : State) : Out := immOp 6#6 d a i s (fun x y => flag (x.slt y))

/-- `sltni` (R115). -/
def execSltni (d a : RegNo) (i : BitVec 16) (s : State) : Out := immOp 7#6 d a i s (fun x y => flag (x.ult y))

/-- `immh` (R115). -/
def execImmh (d : RegNo) (i : BitVec 21) (s : State) : Out :=
  regOp (packSU 0x08#6 d i) [] d s (fun _ _ => i.signExtend 64 <<< 16)

/-- `apc` (R115). -/
def execApc (d : RegNo) (i : BitVec 21) (s : State) : Out :=
  regOp (packSU 0x09#6 d i) [] d s (fun _ _ => s.pc + (i.signExtend 64 <<< 16))

/-! ## Scalar floating point (R118) -/

/-- The low 32 bits of a register. -/
def low32 (x : Word) : Nat := x.toNat % 2 ^ 32

/-- A FOP word: it computes a value and flags under the captured rounding mode, with NS acting as RNE. -/
def fop (fn : BitVec 6) (d : RegNo) (w : IWord) (srcs : List RegNo) (s : State)
    (f : Nat → Word → Word → Word → Nat × FF) : Out :=
  let _ := fn
  scalarOp w srcs (some d) s fun s1 x y z =>
    let (v, g) := f (plainRm (rmOf s.me.fcsr)) x y z
    let s2 := { s1 with me := { s1.me with fcsr := orFlags s1.me.fcsr g } }
    .done ((s2.put d (BitVec.ofNat 64 v)).retire)

/-- A FOP word of two sources. -/
def fop2 (fn : BitVec 6) (d a b : RegNo) (s : State) (f : Nat → Nat → Nat → Nat × FF) : Out :=
  fop fn d (packS3 0x0D#6 d a b fn 0#5) [a, b] s (fun rm x y _ => f rm (low32 x) (low32 y))

/-- A FOP word of one source, which it reads whole. -/
def fop1 (fn : BitVec 6) (d a : RegNo) (s : State) (f : Nat → Word → Nat × FF) : Out :=
  fop fn d (packS3 0x0D#6 d a 0#5 fn 0#5) [a] s (fun rm x _ _ => f rm x)

/-- `fadd` (R118). -/
def execFadd (d a b : RegNo) (s : State) : Out := fop2 0#6 d a b s (fun rm x y => Fmt.f32.add false rm x y)

/-- `fsub` (R118). -/
def execFsub (d a b : RegNo) (s : State) : Out := fop2 1#6 d a b s (fun rm x y => Fmt.f32.sub false rm x y)

/-- `fmul` (R118). -/
def execFmul (d a b : RegNo) (s : State) : Out := fop2 2#6 d a b s (fun rm x y => Fmt.f32.mul false rm x y)

/-- `fdiv` (R118). -/
def execFdiv (d a b : RegNo) (s : State) : Out := fop2 3#6 d a b s (fun rm x y => Fmt.f32.div false rm x y)

/-- `fsqrt` (R118). -/
def execFsqrt (d a : RegNo) (s : State) : Out := fop1 4#6 d a s (fun rm x => Fmt.f32.sqrt false rm (low32 x))

/-- `fmin` (R118, R72). -/
def execFmin (d a b : RegNo) (s : State) : Out := fop2 5#6 d a b s (fun _ x y => Fmt.f32.minMax false false x y)

/-- `fmax` (R118, R72). -/
def execFmax (d a b : RegNo) (s : State) : Out := fop2 6#6 d a b s (fun _ x y => Fmt.f32.minMax false true x y)

/-- `fmac` (R118): the addend is rd as it stood; a port there pops after ra and rb. -/
def execFmac (d a b : RegNo) (s : State) : Out :=
  fop 7#6 d (packS3 0x0D#6 d a b 7#6 0#5) [a, b, d] s
    (fun rm x y z => Fmt.f32.fma false rm false (low32 x) (low32 y) (low32 z))

/-- `fcvtfi` (R118, R70). -/
def execFcvtfi (d a : RegNo) (s : State) : Out :=
  fop1 8#6 d a s (fun rm x =>
    let (i, g) := toInteger rm (-(2 ^ 63)) (2 ^ 63 - 1) (Fmt.f32.decode (low32 x))
    ((BitVec.ofInt 64 i).toNat, g))

/-- `fcvtif` (R118). -/
def execFcvtif (d a : RegNo) (s : State) : Out := fop1 9#6 d a s (fun rm x => Fmt.f32.round false rm (Val.ofInt x.toInt))

/-- A comparison's result as a value. -/
def boolNat (p : Bool × FF) : Nat × FF := (if p.1 then 1 else 0, p.2)

/-- `feq` (R118). -/
def execFeq (d a b : RegNo) (s : State) : Out := fop2 10#6 d a b s (fun _ x y => boolNat (Fmt.f32.eqQuiet false x y))

/-- `flt` (R118). -/
def execFlt (d a b : RegNo) (s : State) : Out := fop2 11#6 d a b s (fun _ x y => boolNat (Fmt.f32.less false false x y))

/-- `fle` (R118). -/
def execFle (d a b : RegNo) (s : State) : Out := fop2 12#6 d a b s (fun _ x y => boolNat (Fmt.f32.less false true x y))

/-- The code of `fkind`: twice the class, plus the sign bit (R118). -/
def Fmt.kindCode (f : Fmt) (x : Nat) : Nat := 2 * f.kind x + bits x (f.width - 1) (f.width - 1)

/-- `fkind` (R118). -/
def execFkind (d a : RegNo) (s : State) : Out := fop1 13#6 d a s (fun _ x => (Fmt.f32.kindCode (low32 x), 0))

/-- `fcvtbf` (R118). -/
def execFcvtbf (d a : RegNo) (s : State) : Out :=
  fop1 14#6 d a s (fun rm x => Fmt.bf16.round false rm (Fmt.f32.decode (low32 x)))

/-- `fmvbf` (R118). -/
def execFmvbf (d a : RegNo) (s : State) : Out := fop1 15#6 d a s (fun _ x => (x.toNat % 2 ^ 16 * 2 ^ 16, 0))

/-! ## Control flow (R119) -/

/-- The target of a word offset (R101). -/
def State.target (s : State) {n : Nat} (o : BitVec n) : Word := s.pc + (o.signExtend 64 <<< 2)

/-- A branch (R119): its target is a word address, so it never misaligns. -/
def branch (maj : BitVec 6) (a b : RegNo) (o : BitVec 16) (s : State) (f : Word → Word → Bool) : Out :=
  scalarOp (packSI maj a b o) [a, b] none s fun s1 x y _ => .done (if f x y then s1.setPc (s.target o) else s1.retire)

/-- `beq` (R119). -/
def execBeq (a b : RegNo) (o : BitVec 16) (s : State) : Out := branch 0x0e#6 a b o s (fun x y => x == y)

/-- `bne` (R119). -/
def execBne (a b : RegNo) (o : BitVec 16) (s : State) : Out := branch 0x0f#6 a b o s (fun x y => x != y)

/-- `blt` (R119). -/
def execBlt (a b : RegNo) (o : BitVec 16) (s : State) : Out := branch 0x10#6 a b o s (fun x y => x.slt y)

/-- `bge` (R119). -/
def execBge (a b : RegNo) (o : BitVec 16) (s : State) : Out := branch 0x11#6 a b o s (fun x y => !x.slt y)

/-- `bltn` (R119). -/
def execBltn (a b : RegNo) (o : BitVec 16) (s : State) : Out := branch 0x12#6 a b o s (fun x y => x.ult y)

/-- `bgen` (R119). -/
def execBgen (a b : RegNo) (o : BitVec 16) (s : State) : Out := branch 0x13#6 a b o s (fun x y => !x.ult y)

/-- `jal` (R119). -/
def execJal (d : RegNo) (o : BitVec 21) (s : State) : Out :=
  scalarOp (packSU 0x14#6 d o) [] (some d) s fun s1 _ _ _ => .done ((s1.put d (s.pc + 4)).setPc (s.target o))

/-- `jalr` (R119): the target comes from ra before rd is written; a misaligned target leaves rd (R100). -/
def execJalr (d a : RegNo) (i : BitVec 16) (s : State) : Out :=
  scalarOp (packSI 0x15#6 d a i) [a] (some d) s fun s1 x _ _ =>
    let t := x + i.signExtend 64
    ((s1.put d (s.pc + 4)).jump t).then s fun s2 => .done s2

/-! ## Loops (R120) -/

/-- The kind of a loop level in the launch record of the strand at hand: 0 unused, 1 T, 2 C, 3 D (R259). -/
def State.levelKind (s : State) (l : Nat) : Nat :=
  match s.launches.find? (fun k => k.token == s.me.launch) with
  | some k => bits (field k.record.toNat 40 2) (2 * l + 1) (2 * l)
  | none => 0

/-- The thread at hand with a loop index written. -/
def State.setLc (s : State) (l : Nat) (v : Word) : State := s.setCur { s.cur with lc := s.cur.lc.setIfInBounds l v }

/-- A loop word that acts only on a level of kind T (R120). -/
def loopT (w : IWord) (l : BitVec 3) (s : State) (k : State → Word → Word → Res) : Out :=
  scalarOp w [] none s fun s1 _ _ _ =>
    if s.levelKind l.toNat = 1 then k s1 (s.cur.lc.toList.getD l.toNat 0) (s.cur.lt.toList.getD l.toNat 0)
    else .trap (s.trapAt 0x01 6 (w.zeroExtend 64)) s

/-- `loop.set` (R120). -/
def execLoopSet (l : BitVec 3) (s : State) : Out :=
  loopT (packSL 0x16#6 0#2 l 0#5 0#16) l s fun s1 _ _ => .done ((s1.setLc l.toNat 0).retire)

/-- `loop.end` (R120). -/
def execLoopEnd (l : BitVec 3) (o : BitVec 16) (s : State) : Out :=
  loopT (packSL 0x16#6 1#2 l 0#5 o) l s fun s1 c t =>
    .done (if (c + 1).ult t then (s1.setLc l.toNat (c + 1)).setPc (s.target o) else s1.retire)

/-- `loop.idx` (R120). -/
def execLoopIdx (l : BitVec 3) (d : RegNo) (s : State) : Out :=
  regOp (packSL 0x16#6 2#2 l d 0#16) [] d s (fun _ _ => s.cur.lc.toList.getD l.toNat 0)

/-- `loop.brk` (R120). -/
def execLoopBrk (l : BitVec 3) (o : BitVec 16) (s : State) : Out :=
  loopT (packSL 0x16#6 3#2 l 0#5 o) l s fun s1 _ t => .done ((s1.setLc l.toNat (t - 1)).setPc (s.target o))

end Sys2Proof.Machine
end

