-- ==== Sys2Proof/Machine/Csr.lean ====
section
/-!
DEFINITION. The CSRs (R58-R62, R123, R233, R234).
-/

namespace Sys2Proof.Machine

/-! ## Reads -/

/-- The tile bound to a name of the strand at hand. -/
def State.myTile (s : State) (j : Nat) : Tile := s.tile (s.me.tileNo j)

/-- `tdirty`: bit j is the dirty bit of the header of tile j (R53, R58). -/
def State.tdirty (s : State) : Word :=
  (List.range s.me.ntiles).foldl (fun w j => if (s.myTile j).header.getLsbD 12 then w ||| BitVec.ofNat 64 (2 ^ j) else w) 0

/-- Writes `tdirty`: the dirty bits of the strand's tiles. -/
def State.setTdirty (s : State) (v : Word) : State :=
  (List.range s.me.ntiles).foldl (fun t j =>
    let h := t.myTile j
    t.setTile (t.me.tileNo j) { h with header := (h.header &&& ~~~(4096#32)) ||| (if v.getLsbD j then 4096#32 else 0#32) }) s

/-- The frame register `j` of the top frame: 0 when there is none (R233). -/
def Strand.cfr (m : Strand) (j : Nat) : Word := if m.cfd = 0 then 0 else m.cf.toList.getD j 0

/-- Fields of `cf.act` (R234). -/
def actOf (w : Word) : Nat := bits w.toNat 2 0
def callOf (w : Word) : Bool := w.getLsbD 3
def slotOf (w : Word) : Nat := bits w.toNat 7 4
def idxOf (w : Word) : Nat := bits w.toNat 63 32

/-- The value of a CSR in the thread at hand (R58). -/
def State.csr (s : State) (c : Nat) : Word :=
  let t := s.cur
  let m := s.me
  if 0x010 ≤ c && c ≤ 0x015 then t.lc.toList.getD (c - 0x010) 0
  else if 0x016 ≤ c && c ≤ 0x01B then t.lt.toList.getD (c - 0x016) 0
  else if 0x040 ≤ c && c ≤ 0x043 then BitVec.ofNat 64 (s.vu.lgp.toList.getD (c - 0x040) 0)
  else if 0x051 ≤ c && c ≤ 0x05E then m.cfr (c - 0x050)
  else
    match c with
    | 0x000 => BitVec.ofNat 64 s.vu.vl
    | 0x001 => s.vu.vtype
    | 0x002 => BitVec.ofNat 64 s.vu.vstart
    | 0x003 => s.vu.vcfg.zeroExtend 64
    | 0x004 => m.fcsr
    | 0x005 => (m.lscale.extractLsb' 0 8).signExtend 64
    | 0x006 => m.tcols
    | 0x007 => m.kvpos
    | 0x008 => s.gts
    | 0x009 => BitVec.ofNat 64 m.slot
    | 0x00A => BitVec.ofNat 64 (m.jidx % 65536 + 65536 * (m.eidx % 4))
    | 0x00B => BitVec.ofNat 64 m.core
    | 0x00C => BitVec.ofNat 64 m.die
    | 0x00D => m.subn
    | 0x01C => BitVec.ofNat 64 (idxOf (m.cfr 5))
    | 0x01D => flag (m.cfd != 0 && actOf (m.cfr 5) == 3 && callOf (m.cfr 5) && m.cfr 13 == 0)
    | 0x020 => s.vu.dirty
    | 0x021 => s.tdirty
    | 0x022 => m.xstate
    | 0x030 => t.tcause
    | 0x031 => t.tval
    | 0x032 => t.tepc
    | 0x033 => t.trec
    | 0x050 => BitVec.ofNat 64 m.cfd
    | 0x05F => if s.thr = .a then m.cfr 0 else m.cfr 15
    | 0x060 => BitVec.ofNat 64 (s.ringCount m.die m.core % 1024)
    | 0x070 => BitVec.ofNat 64 (s.ctxFld m.ctx 112 8)
    | 0x080 => BitVec.ofNat 64 m.budget
    | 0x081 => m.ydl
    | _ => 0

/-! ## Writes, field by field (R4, R58-R62) -/

/-- `fcsr` as a write leaves it: the flags as written, `rm` unless 5-7 is written, reserved bits zero (R62). -/
def fcsrWrite (old new : Word) : Word :=
  let rm := new.extractLsb' 0 3
  (new &&& 0x3F8) ||| ((if 5 ≤ rm.toNat then old.extractLsb' 0 3 else rm).zeroExtend 64)

/-- `tcols` as a write leaves it: clamped to 1-128 (R58). -/
def tcolsWrite (new : Word) : Word := if new = 0 then 1 else if 128 < new.toNat then 128 else new

/-- Writes a CSR; a read-only CSR ignores the write. -/
def State.setCsr (s : State) (c : Nat) (v : Word) : State :=
  if 0x040 ≤ c && c ≤ 0x043 then { s with vu := { s.vu with lgp := s.vu.lgp.setIfInBounds (c - 0x040) (v.toNat % 2 ^ 32) } }
  else
    match c with
    | 0x002 => { s with vu := { s.vu with vstart := v.toNat % 2 ^ 18, dirty := s.vu.dirty ||| 0x100000000 } }
    | 0x004 => { s with me := { s.me with fcsr := fcsrWrite s.me.fcsr v } }
    | 0x005 => { s with me := { s.me with lscale := v &&& 0xFF } }
    | 0x006 => { s with me := { s.me with tcols := tcolsWrite v } }
    | 0x007 => { s with me := { s.me with kvpos := v &&& 0x800000FFFFFFFFFF } }
    | 0x00D => { s with me := { s.me with subn := v } }
    | 0x020 => { s with vu := { s.vu with dirty := v &&& 0x1FFFFFFFF } }
    | 0x021 => s.setTdirty v
    | 0x022 => { s with me := { s.me with xstate := v &&& 3 } }
    | 0x030 => s.setCur { s.cur with tcause := v }
    | 0x031 => s.setCur { s.cur with tval := v }
    | 0x032 => s.setCur { s.cur with tepc := v }
    | 0x033 => s.setCur { s.cur with trec := v }
    | _ => s

/-- A CSR word (R123): the old value goes to rd, the new one to the CSR where the form writes. -/
def csrForm (w : IWord) (d : RegNo) (srcs : List RegNo) (c : BitVec 12) (s : State) (f : Word → Word → Option Word) : Out :=
  scalarOp w srcs (some d) s fun s1 x _ _ =>
    let old := s1.csr c.toNat
    let s2 := match f old x with
      | some v => s1.setCsr c.toNat v
      | none => s1
    .done ((s2.put d old).retire)

/-- `csrr` (R123). -/
def execCsrr (d : RegNo) (c : BitVec 12) (s : State) : Out := csrForm (packCS 0x18#6 d 0#5 0#2 0#2 c) d [] c s (fun _ _ => none)

/-- `csrw` (R123). -/
def execCsrw (d a : RegNo) (c : BitVec 12) (s : State) : Out :=
  csrForm (packCS 0x18#6 d a 1#2 0#2 c) d [a] c s (fun _ x => some x)

/-- `csrs` (R123); with ra = 0 it writes nothing. -/
def execCsrs (d a : RegNo) (c : BitVec 12) (s : State) : Out :=
  csrForm (packCS 0x18#6 d a 2#2 0#2 c) d [a] c s (fun old x => if a = 0 then none else some (old ||| x))

/-- `csrc` (R123); with ra = 0 it writes nothing. -/
def execCsrc (d a : RegNo) (c : BitVec 12) (s : State) : Out :=
  csrForm (packCS 0x18#6 d a 3#2 0#2 c) d [a] c s (fun old x => if a = 0 then none else some (old &&& ~~~x))

end Sys2Proof.Machine
end

