-- ==== Sys2Proof/Machine/Sync.lean ====
section
/-!
DEFINITION. Fences, barriers, yield and events (R93, R96, R124-R127), and the transitions of the reference machine that
complete them.
-/

namespace Sys2Proof.Machine

/-! ## Fences (R93) -/

/-- A SYNC word that computes a state and retires. -/
def syncOp (w : IWord) (srcs : List RegNo) (s : State) (f : State → Word → Res) : Out :=
  scalarOp w srcs none s fun s1 x _ _ => f s1 x

/-- Puts a token on the next entry pushed onto each of a list of queues; a later token takes the place of an earlier. -/
def State.putToken (s : State) (qs : List Nat) (bound : Nat) : State :=
  { s with me := { s.me with avTok := qs.foldl (fun v q => v.setIfInBounds q (some bound)) s.me.avTok } }

/-- `fence.av` (R93): a token that covers every A-thread operation issued before it; a token whose scope is not in force orders
nothing (R97). -/
def execFenceAv (sc : BitVec 2) (s : State) : Out :=
  syncOp (packS3 0x19#6 0#5 0#5 0#5 0#6 (0#2 ++ sc ++ 0#1)) [] s fun s1 _ =>
    .done (if s1.inForce sc then s1.putToken [0, 1, 2, 3, 4, 5, 6, 7, 12] s1.me.anext else s1).retire

/-- `fence.va` (R93): a token that covers every V operation issued before it. -/
def execFenceVa (sc : BitVec 2) (s : State) : Out :=
  syncOp (packS3 0x19#6 0#5 0#5 0#5 1#6 (0#2 ++ sc ++ 0#1)) [] s fun s1 _ =>
    .done (if s1.inForce sc then s1.putToken [8, 9, 10, 11] s1.me.vnext else s1).retire

/-- `fence.vv` (R93): the V operations issued after it wait for those issued before it. -/
def execFenceVV (sc : BitVec 2) (s : State) : Out :=
  syncOp (packS3 0x19#6 0#5 0#5 0#5 2#6 (0#2 ++ sc ++ 0#1)) [] s fun s1 _ =>
    .done (if s1.inForce sc then { s1 with me := { s1.me with vfence := s1.me.vnext } } else s1).retire

/-- Replaces the thread that is not at hand. -/
def State.setOther (s : State) (t : Thread) : State := { { s with thr := s.thr.other }.setCur t with thr := s.thr }

/-- A thread passes its `fence.all`. -/
def Thread.passFence (t : Thread) : Thread := { t with pc := t.pc + 4, wait := .none }

/-- `fence.all` (R93): the thread waits for the other; FENCE_ALL_COMPLETE completes the pair. Where its scope is not in force it waits
for nothing, and the other's counts it as reached (R97). -/
def execFenceAll (sc : BitVec 2) (s : State) : Out :=
  syncOp (packS3 0x19#6 0#5 0#5 0#5 3#6 (0#2 ++ sc ++ 0#1)) [] s fun s1 _ =>
    if s1.inForce sc then .stall .fence s1
    else
      let o := s1.me.thread s1.thr.other
      .done (if 0 < o.early then s1.setOther { o with early := o.early - 1 } else s1.setCur { s1.cur with early := s1.cur.early + 1 }).retire

/-- The thread waits at its `fence.all`, or has halted. -/
def Thread.atFence (t : Thread) : Bool := t.halted || t.wait == .fence

/-- Every load, store, AMO and V operation of the strand is performed, and every `pub` has flipped (R93). -/
def State.fenceQuiet (s : State) : Bool :=
  s.me.vops.isEmpty && s.me.aops.all (fun o => match o.kind with | .cmd _ => true | _ => false)

/-- A thread and its partner after the thread's `fence.all` meets one that the partner has passed already. -/
def Thread.meets (t o : Thread) : Thread × Thread := (t.passFence, { o with early := o.early - 1 })

/-- FENCE_ALL_COMPLETE (R93): both threads' fences complete together. -/
def execFenceAllComplete (s : State) : Out :=
  let a := s.me.a
  let x := s.me.x
  let put (p : Thread × Thread) : Out := .next { s with me := { s.me with a := p.1, x := p.2 } }
  if !s.fenceQuiet then .next s
  else if a.wait == .fence && 0 < x.early then put (a.meets x)
  else if x.wait == .fence && 0 < a.early then put (x.meets a).swap
  else if a.atFence && x.atFence && !(a.halted && x.halted) then
    put (if a.halted then a else a.passFence, if x.halted then x else x.passFence)
  else .next s

/-! ## Barriers (R36, R96, R125) -/

/-- A barrier of a strand. -/
def Strand.bar (m : Strand) (b : Nat) : Barrier := m.bars.toList.getD b Barrier.reset

/-- The arrivals performed by a thread at a barrier, and the arrival that waits. -/
def Barrier.done (b : Barrier) : Tid → Nat
  | .a => b.aDone
  | .x => b.xDone
def Barrier.pend (b : Barrier) : Tid → Option Nat
  | .a => b.aPend
  | .x => b.xPend

/-- The strand has an unperformed operation of a thread numbered below a bound: of the A-thread, its A-thread operations;
of the X-thread, the strand's V operations (R96). -/
def Strand.openBelow (m : Strand) (t : Tid) (bound : Nat) : Bool :=
  match t with
  | .a => m.aops.any (fun o => decide (o.id < bound))
  | .x => m.vops.any (fun o => decide (o.id < bound))

/-- The next number of a thread's operations. -/
def Strand.nextOp (m : Strand) : Tid → Nat
  | .a => m.anext
  | .x => m.vnext

/-- A thread counts as arrived at every barrier: it has halted and every operation it issued is performed (R125). -/
def Strand.passed (m : Strand) (t : Tid) : Bool := (m.thread t).halted && !m.openBelow t (m.nextOp t)

/-- The arrivals that a strand has made at a barrier: those of each of its threads that has not halted; `none` is no bound. -/
def Strand.arrivals (m : Strand) (b : Nat) : Option Nat :=
  match m.passed .a, m.passed .x with
  | true, true => none
  | true, false => some (m.bar b).xDone
  | false, true => some (m.bar b).aDone
  | false, false => some (Nat.min (m.bar b).aDone (m.bar b).xDone)

/-- The group of a barrier of the strand at hand: the strands of its launch on its die, or on every die (R36). A
discarded strand counts as arrived everywhere and never holds the group back (R125). -/
def State.group (s : State) (sc : BitVec 2) : List Strand :=
  s.strands.filter (fun m => m.status != .void && m.status != .discarded && m.launch == s.me.launch && (sc == 2 || m.die == s.me.die))

/-- The phases that a group has completed; `none` when every member is past every barrier. -/
def State.phases (s : State) (b : Nat) (sc : BitVec 2) : Option Nat :=
  (s.group sc).foldl (fun acc m =>
    match acc, m.arrivals b with
    | some x, some y => some (Nat.min x y)
    | none, y => y
    | x, none => x) none

/-- The phases that count while suspended members keep the counters of a barrier with an open phase: arrivals since then are
diverted, and are added when the member resumes (R283, R285). -/
def State.keptPhases (s : State) (b : Nat) (sc : BitVec 2) : Option Nat :=
  (s.group sc).foldl (fun acc m =>
    match if m.status == .suspended then assoc m.kept b else none with
    | some k => some (match acc with | some x => Nat.min x k | none => k)
    | none => acc) (s.phases b sc)

/-- The launch has used both scopes on the barrier: its phase counts are undefined (R125). DESIGN CHOICE (log entry 23): the scopes
are those of the arrivals made so far; a `bar.wt`, or a first arrival, counts by the group of its own scope. -/
def State.mixedScopes (s : State) (b : Nat) : Bool :=
  (s.group 2).foldl (fun (acc : BitVec 2) m => acc ||| (m.bar b).scopes) 0 == 3

/-- Whether phase `n` of a barrier is complete; a free value decides it when the launch mixes scopes (log entry 23). -/
def State.phaseDone (s : State) (b : Nat) (sc : BitVec 2) (n : Nat) : Bool × State :=
  if s.mixedScopes b then (s.drawFree.1.getLsbD 0, s.drawFree.2)
  else
    match s.keptPhases b sc with
    | none => (true, s)
    | some k => (decide (n ≤ k), s)

/-- Changes a barrier of the strand at hand. -/
def State.modBar (s : State) (b : Nat) (f : Barrier → Barrier) : State :=
  { s with me := { s.me with bars := s.me.bars.setIfInBounds b (f (s.me.bar b)) } }

/-- The thread at hand arrives: the arrival waits for its earlier operations, where its scope is in force (R97). -/
def State.arrive (s : State) (b : Nat) (sc : BitVec 2) : State :=
  let bound (n : Nat) : Option Nat := some (if s.inForce sc then n else 0)
  s.modBar b (fun k =>
    match s.thr with
    | .a => { k with aPend := bound s.me.anext, scopes := k.scopes ||| sc }
    | .x => { k with xPend := bound s.me.vnext, scopes := k.scopes ||| sc })

/-- The arrivals of the thread at hand, the waiting one included. -/
def State.arrived (s : State) (b : Nat) : Nat :=
  (s.me.bar b).done s.thr + (if ((s.me.bar b).pend s.thr).isSome then 1 else 0)

/-- An arrival of the thread at hand, which stalls until its previous phase is complete (R125). -/
def State.tryArrive (s : State) (b : Nat) (sc : BitVec 2) (k : State → Res) : Res :=
  let p := s.phaseDone b sc (s.arrived b)
  if p.1 && ((s.me.bar b).pend s.thr).isNone then k (p.2.arrive b sc) else .stall .barrier p.2

/-- The wait of the thread at hand for the phase of its latest arrival; it waits for nothing where its scope is not in force (R97). -/
def State.tryPass (s : State) (b : Nat) (sc : BitVec 2) : Res :=
  if !s.inForce sc then .done (s.setCur { s.cur with synced := none }).retire else
  let p := s.phaseDone b sc (s.arrived b)
  if p.1 && ((s.me.bar b).pend s.thr).isNone then .done (p.2.setCur { p.2.cur with synced := none }).retire
  else .stall .barrier p.2

/-- `bar.arv` (R125). -/
def execBarArv (b : RegNo) (sc : BitVec 2) (s : State) : Out :=
  syncOp (packS3 0x19#6 0#5 0#5 b 4#6 (0#2 ++ sc ++ 0#1)) [] s fun s1 _ =>
    s1.tryArrive b.toNat sc (fun s2 => .done s2.retire)

/-- `bar.wt` (R125). -/
def execBarWt (b : RegNo) (sc : BitVec 2) (s : State) : Out :=
  syncOp (packS3 0x19#6 0#5 0#5 b 5#6 (0#2 ++ sc ++ 0#1)) [] s fun s1 _ => s1.tryPass b.toNat sc

/-- `bar.sync` (R96): `bar.arv`, then `bar.wt`; the thread remembers that its arrival is made. -/
def execBarSync (b : RegNo) (sc : BitVec 2) (s : State) : Out :=
  syncOp (packS3 0x19#6 0#5 0#5 b 6#6 (0#2 ++ sc ++ 0#1)) [] s fun s1 _ =>
    if s1.cur.synced = some s1.pc then s1.tryPass b.toNat sc
    else s1.tryArrive b.toNat sc (fun s2 => (s2.setCur { s2.cur with synced := some s2.pc }).tryPass b.toNat sc)

/-- The suspended member of a launch that keeps the phase counter of a barrier (R283). -/
def State.keeper (s : State) (launch : Word) (b : Nat) : Option Strand :=
  s.strands.find? (fun m => m.launch == launch && m.status == .suspended && (assoc m.kept b).isSome)

/-- An arrival at a barrier of a launch can be counted: the page of its keeper's diversion table is not moving (R295). -/
def State.mayDivert (s : State) (launch : Word) (b : Nat) : Bool :=
  (s.keeper launch b).all (fun m => !s.vaMoving m.ctx (s.diversionAt m 0) 2048)

/-- Counts an arrival in the diversion table of the suspended member that keeps the barrier's counter (R283). -/
def State.divertArrival (s : State) (launch : Word) (b : Nat) : State :=
  match s.keeper launch b with
  | none => s
  | some m =>
    let a := s.diversionAt m (9 + b) + 24
    s.writeVa m.ctx a 4 (s.readVa m.ctx a 4 + 1)

/-- The strand after the arrival of a thread at a barrier is performed; none while there is none, or while an operation before it is
not performed (R96). -/
def Strand.arrives (m : Strand) (t : Tid) (b : Nat) : Option Strand :=
  match (m.bar b).pend t with
  | none => none
  | some n =>
    if m.openBelow t n then none
    else
      let k := m.bar b
      let k' := match t with
        | .a => { k with aDone := k.aDone + 1, aPend := none }
        | .x => { k with xDone := k.xDone + 1, xPend := none }
      some { m with bars := m.bars.setIfInBounds b k' }

/-- BARRIER_ARRIVAL (R96): the arrival of a thread at barrier `b` is performed once its earlier operations are. -/
def execBarrierArrival (x : Bool) (b : BitVec 3) (s : State) : Out :=
  match s.me.arrives (if x then .x else .a) b.toNat with
  | none => .next s
  | some m => .next (if s.mayDivert s.me.launch b.toNat then { s with me := m }.divertArrival m.launch b.toNat else s)

/-! ## Yield and events (R45, R126, R127) -/

/-- The word at a thread's program counter, as a fetch reads it. -/
def State.wordAt (s : State) (t : Tid) : Option IWord := s.codeAt (s.me.thread t).pc (s.me.thread t).priv

/-- The other thread stands at a `yield` of its own, which it could execute in this cycle. -/
def State.bothYield (s : State) : Bool :=
  let t := s.me.thread s.thr.other
  !t.halted && t.wait == .none && t.pend.isNone && s.wordAt s.thr.other == some (packS3 0x19#6 0#5 0#5 0#5 7#6 0#5)

/-- The `yield` of the thread at hand retires, and the strand is yielded (R126, R264). Where the other thread is at a `yield` too, the
two may fall in one cycle, and then they are one: a free value decides it (log entry 83). -/
def State.yields (s : State) : State :=
  let s2 := s.retire
  let s3 := if s2.bothYield then
      (if s2.drawFree.1.getLsbD 0 then { { s2.drawFree.2 with thr := s2.thr.other }.retire with thr := s2.thr } else s2.drawFree.2)
    else s2
  { s3 with me := { s3.me with status := .yielded, ydl := 0 } }

/-- `yield` (R38, R126): it retires once the other thread has stopped, at once where no vector word of the X-thread is in flight; one
that is stops at a granule boundary first, as `ahead` has it. -/
def execYield (s : State) : Out :=
  syncOp (packS3 0x19#6 0#5 0#5 0#5 7#6 0#5) [] s fun s1 _ =>
    if s1.thr == .a && !s1.me.ahead.isEmpty then
      .done { s1 with me := { s1.me with stop := s1.me.ahead, stopping := false, ahead := [], ending := some .yield } }
    else .done s1.yields

/-- `wfe` (R45). -/
def execWfe (s : State) : Out :=
  syncOp (packS3 0x19#6 0#5 0#5 0#5 8#6 0#5) [] s fun s1 _ =>
    if s1.me.event then .done ({ s1 with me := { s1.me with event := false } }.retire) else .stall .event s1

/-- `sev` (R127): the event waits for the thread's earlier operations. -/
def execSev (a : RegNo) (sc : BitVec 2) (s : State) : Out :=
  let w := (packS3 0x19#6 0#5 a 0#5 9#6 (0#2 ++ sc ++ 0#1))
  syncOp w [a] s fun s1 x =>
    if x.extractLsb' 8 56 != 0 then .trap (s.trapAt 0x01 6 (w.zeroExtend 64)) s
    else
      let bound := if s1.inForce sc then s1.me.nextOp s1.thr else 0
      .done ({ s1 with me := { s1.me with sevs := s1.me.sevs ++ [(s1.thr, bound, x)] } }.retire)

/-- Sets the pending-event bit of a strand: while it is suspended, bit 2 of word 0x210 of its saved image (R45, R275, R336). -/
def State.signal (s : State) (uid : Nat) : State :=
  match s.strand uid with
  | none => s
  | some m =>
    if m.status == .suspended then
      let a := s.saveArea m + 0x210
      s.writeVa m.ctx a 8 (Nat.lor (s.readVa m.ctx a 8) 4)
    else s.modStrand uid (fun t => { t with event := true })

/-- The strands that an event names: the strand of a context in a slot, else the suspended strands of the context whose slot it
is (R127). -/
def State.eventTargets (s : State) (ctx : Nat) (x : Word) : List Strand :=
  let here (m : Strand) : Bool :=
    m.ctx == ctx && m.slot == bits x.toNat 1 0 && m.core == bits x.toNat 5 2 && m.die == bits x.toNat 7 6
  if s.strands.any (fun t => t.resident && here t) then s.strands.filter (fun m => m.resident && here m)
  else s.strands.filter (fun m => m.status == .suspended && here m)

/-- The saved image of a strand can be written: no page of its first 4 KiB is moving (R295). -/
def State.imageAt (s : State) (m : Strand) : Bool := m.status != .suspended || !s.vaMoving m.ctx (s.saveArea m) 4096

/-- Sets the pending-event bit of the strands that an event names. -/
def State.deliver (s : State) (ctx : Nat) (x : Word) : State :=
  (s.eventTargets ctx x).foldl (fun t m => t.signal m.uid) s

/-- EVENT_DELIVERY (R127): the `k`-th waiting event of the strand at hand is delivered. -/
def execEventDelivery (k : Nat) (s : State) : Out :=
  match s.me.sevs[k]? with
  | none => .next s
  | some (t, n, x) =>
    if s.me.openBelow t n || !(s.eventTargets s.me.ctx x).all s.imageAt then .next s
    else
      let s1 := { s with me := { s.me with sevs := s.me.sevs.eraseIdx k } }
      .next (s1.deliver s1.me.ctx x)

end Sys2Proof.Machine
end

