-- ==== Sys2Proof/Machine/System.lean ====
section
/-!
DEFINITION. The system instructions (R128-R133): traps on request, the return from a trap, `halt`, invalidation of
translations, and the movement of vector and tile state.
-/

namespace Sys2Proof.Machine

/-! ## Traps on request and the return (R128, R129) -/

/-- A word that retires and then traps with the value of a register (R128). -/
def trapForm (w : IWord) (a : RegNo) (cause : Nat) (s : State) : Out :=
  scalarOp w [a] none s fun s1 x _ _ => .trap (s1.retire.trapAt cause 0 x) s1.retire

/-- `trap` (R128). -/
def execTrap (a : RegNo) (s : State) : Out := trapForm (packS3 0x1a#6 0#5 a 0#5 0#6 0#5) a 0x0B s

/-- `svc` (R128). -/
def execSvc (a : RegNo) (s : State) : Out := trapForm (packS3 0x1a#6 0#5 a 0#5 1#6 0#5) a 0x0C s

/-- `dbrk` (R128): it does not retire. -/
def execDbrk (s : State) : Out := scalarOp (packS3 0x1a#6 0#5 0#5 0#5 4#6 0#5) [] none s fun s1 _ _ _ => .trap (s1.trapAt 0x0D 0 0) s1

/-- `tret` (R129): in U mode, privileged instruction. -/
def execTret (s : State) : Out :=
  scalarOp (packS3 0x1a#6 0#5 0#5 0#5 2#6 0#5) [] none s fun s1 _ _ _ =>
    match s1.cur.priv with
    | .u => .trap (s1.trapAt 0x11 0 (((packS3 0x1a#6 0#5 0#5 0#5 2#6 0#5) : IWord).zeroExtend 64)) s1
    | .s => .done s1.trapReturn

/-! ## Halt (R130) -/

/-- A trap of either thread, whichever is at hand. -/
def State.trapThread (s : State) (t : Tid) (tr : Trap) : State := { { s with thr := t }.takeTrap tr with thr := s.thr }

/-- Releases the tiles of a strand. -/
def State.freeTiles (s : State) (uid : Nat) : State :=
  { s with tiles := s.tiles.map (fun t =>
      (t.1, match t.2.holder with
        | some (u, _) => if u = uid then { t.2 with holder := none } else t.2
        | none => t.2)) }

/-- A strand's slot, reservations, tiles and save area are free, and a grace window of it ends (R38, R264, R275). The bytes of a retired strand's scratchpad stay
until the next placement gives the reservation anew (R268). -/
def State.freeStrand (s : State) (uid : Nat) (st : Status) : State :=
  (s.freeTiles uid).modStrand uid (fun m =>
    let m1 := { m with status := st, save := none, bound := [], ydl := 0 }
    if st = .discarded then { m1 with pad := [], lanes := [] } else m1)

/-- Closes the queues that a thread pushes (R130). -/
def State.closeAll (s : State) (qs : List Nat) : State :=
  qs.foldl (fun t q => t.setQueue q { t.queue q with closed := true }) s

/-- The other thread waits at its `rvchain` outside any frame (R232). -/
def Strand.lonely (m : Strand) (t : Tid) : Option IWord :=
  match (match t with | .a => m.chA | .x => m.chX) with
  | some (w, _) => if wFn6 w = 0 && m.cfd = 0 && !(m.thread t).halted then some w else none
  | none => none

/-- The partner of a halting thread that waits at its `rvchain` raises illegal-instruction (R232). -/
def State.releasePartner (s : State) : State :=
  match s.me.lonely s.thr.other with
  | none => s
  | some w =>
    let t := s.thr.other
    let s1 := { s with me := match t with | .a => { s.me with chA := none } | .x => { s.me with chX := none } }
    s1.trapThread t { cause := 0x01, sub := 6, tval := w.zeroExtend 64, tepc := (s.me.thread t).pc, pages := [], more := false, resume := false }

/-- The thread at hand halts: its queues close; the second halt retires the strand (R130, R38). -/
def State.halt (s : State) : State :=
  let s1 := s.retire
  let s2 := (s1.setCur { s1.cur with halted := true }).closeAll
    (match s1.thr with | .a => [0, 1, 2, 3, 4, 5, 6, 7, 12] | .x => [8, 9, 10, 11])
  if s2.me.a.halted && s2.me.x.halted then s2.freeStrand s2.me.uid .retired else s2.releasePartner

/-- The first `spwr` of the A-thread whose queue is closed and empty (R130). -/
def State.starved (s : State) : Option (AOp × Nat) :=
  (s.me.aops.filterMap (fun o => match o.kind with
    | .spwr q _ _ _ => if (s.queue q).closed && (s.queue q).items.isEmpty then some (o, q) else none
    | _ => none)).head?

/-- `halt` (R130, R236): illegal while a chain frame is live, a fault of the strand in S mode; it waits for its streams. DESIGN CHOICE
(log entry 116): the fault reports the cause and the `tval` of the trap in hand. -/
def execHalt (s : State) : Out :=
  scalarOp (packS3 0x1a#6 0#5 0#5 0#5 3#6 0#5) [] none s fun s1 _ _ _ =>
    if s1.cur.priv = .s then .done (s1.makeFaulted s1.me.uid s1.cur.tcause.toNat s1.cur.tval)
    else if s1.me.cfd ≠ 0 then .trap (s.trapAt 0x01 6 (((packS3 0x1a#6 0#5 0#5 0#5 3#6 0#5) : IWord).zeroExtend 64)) s
    else if s1.thr = .a && s1.me.aops.any (fun o => match o.kind with | .sprd _ _ _ _ => true | .spwr _ _ _ _ => true | _ => false) then
      match s1.starved with
      | some (o, q) => .trap (s1.trapAt 0x0A 0 (BitVec.ofNat 64 q)) (s1.dropA o.id)
      | none => .stall .queue s1
    else .done s1.halt

/-! ## Invalidation (R131, R297) -/

/-- What a `tlbi` word names: a page of a context, a whole context, or every context (R131). -/
def tlbiHits (va w : Word) (ctx base size : Nat) : Bool :=
  w.getLsbD 17 || (ctx == bits w.toNat 15 0 &&
    (w.getLsbD 16 || (decide (base < va.toNat / 65536 * 65536 + 65536) && decide (va.toNat / 65536 * 65536 < base + size))))

/-- Some pending operation of a context used a translation of a range (R297). -/
def State.usesRange (s : State) (ctx base size : Nat) : Bool :=
  let hit (p : Place) : Bool := p.pages.any (fun q => rangesMeet q.1 q.2 base size)
  s.strands.any (fun m => m.ctx == ctx &&
    (m.aops.any (fun o => hit o.place) || m.vops.any (fun o => hit o.place || (o.far.map hit).getD false)))

/-- Some pending operation of a strand used a translation that is to go (R297). -/
def State.usesPage (s : State) (va w : Word) : Bool :=
  let hit (c : Nat) (p : Place) : Bool := p.pages.any (fun q => tlbiHits va w c q.1 q.2)
  s.strands.any (fun m =>
    m.aops.any (fun o => hit m.ctx o.place) || m.vops.any (fun o => hit m.ctx o.place || (o.far.map (hit m.ctx)).getD false))

/-- Drops the matching translations of every TLB. -/
def State.invalidate (s : State) (va w : Word) : State :=
  { s with tlb := s.tlb.filter (fun e => !tlbiHits va w e.ctx e.va e.size) }

/-- `tlbi` (R131): it completes when every access that used a matching translation is performed. -/
def execTlbi (a b : RegNo) (s : State) : Out :=
  scalarOp (packS3 0x1a#6 0#5 a b 5#6 0#5) [a, b] none s fun s1 x y _ =>
    if y.extractLsb' 18 46 != 0 then .trap (s.trapAt 0x01 6 (((packS3 0x1a#6 0#5 a b 5#6 0#5) : IWord).zeroExtend 64)) s
    else if s1.usesPage x y then .stall .walk s1
    else .done (s1.invalidate x y).retire

/-! ## Save areas (R132, R275, R281) -/

/-- Why an access to a save area does not happen: a fault and its address, or, for `none`, a page that is moving (R295). -/
abbrev AreaErr := Option (Nat × Word)

/-- Writes a byte range of an area by V operations of the thread at hand, in S mode. -/
def State.areaWrite (s : State) (va : Word) (n v : Nat) : Except AreaErr State :=
  match s.hwWrite va n (v % 2 ^ (8 * n)) with
  | .ok t => .ok t
  | .fault c x => .error (some (c, x))
  | .moving => .error none

/-- Reads a byte range of an area by V operations of the thread at hand, in S mode. -/
def State.areaRead (s : State) (va : Word) (n : Nat) : Except AreaErr (Nat × State) :=
  match s.hwRead va n with
  | .ok v t => .ok (v, t)
  | .fault c x => .error (some (c, x))
  | .moving => .error none

/-- Chains area accesses. -/
def eachItem {α : Type} (l : List α) (f : α → State → Except AreaErr State) (s : State) : Except AreaErr State :=
  l.foldl (fun acc x => acc.bind (f x)) (.ok s)

/-- The selected bits of a `vsave` or `vrest` operand are allowed for `n` registers and the strand's tiles (R132). -/
def saveBitsOk (w : Word) (n tiles : Nat) : Bool :=
  w.extractLsb' 34 6 == 0 && w.extractLsb' 48 16 == 0 && decide (bits w.toNat 31 0 < 2 ^ n) && decide (bits w.toNat 47 40 < 2 ^ tiles)

/-- The registers and tiles that an operand selects. -/
def selected (w : Word) (lo n : Nat) : List Nat := (List.range n).filter (fun i => w.getLsbD (lo + i))

/-- Offsets of an area. -/
def areaAt (va : Word) (o : Nat) : Word := va + BitVec.ofNat 64 o

/-- Register `i` of a slot, of `b` bits. -/
def VecUnit.regAt (v : VecUnit) (i b : Nat) : Nat := v.regs.toNat / 2 ^ (i * b) % 2 ^ b

/-- Writes register `i` of a slot, of `b` bits. -/
def VecUnit.setRegAt (v : VecUnit) (i b x : Nat) : VecUnit :=
  { v with regs := BitVec.ofNat 524288 (v.regs.toNat - v.regAt i b * 2 ^ (i * b) + x % 2 ^ b * 2 ^ (i * b)) }

/-- The masks, the scales and the residues as they stand in an area (R275). -/
def VecUnit.masksImage (v : VecUnit) : Nat := packList 16384 (v.masks.toList.map (·.toNat))
def VecUnit.scalesImage (v : VecUnit) : Nat := packList 1024 (v.scales.toList.map (·.toNat))
def VecUnit.nsImage (v : VecUnit) : Nat := packList 4 (v.ns.toList.map (·.toNat))

/-- Saves one register with its mark (R132, R281). -/
def saveReg (va : Word) (i : Nat) (s : State) : Except AreaErr State :=
  let b := regBits s.vu.vcfg
  (s.areaWrite (areaAt va (0x10000 + i * (b / 8))) (b / 8) (s.vu.regAt i b)).bind fun s1 =>
    (s1.areaRead (areaAt va (0x1600 + 32)) 4).bind fun (m, s2) =>
      let m' := m - m / 2 ^ i % 2 * 2 ^ i + (if s2.vu.marks.getLsbD i then 2 ^ i else 0)
      (s2.areaWrite (areaAt va (0x1600 + 32)) 4 m').map fun s3 =>
        { s3 with vu := { s3.vu with dirty := s3.vu.dirty &&& ~~~(BitVec.ofNat 64 (2 ^ i)) } }

/-- Saves the vector control block, with the marks of all registers (R307), and the flight table; A-thread entries of the table stay
(R281, R278). -/
def saveControl (va : Word) (s : State) : Except AreaErr State :=
  let v := s.vu
  let block := v.vl + 2 ^ 32 * v.vstart + 2 ^ 64 * v.vtype.toNat + 2 ^ 128 * (packLgp v.lgp % 2 ^ 128) + 2 ^ 256 * v.marks.toNat
  (s.areaRead (areaAt va 0x1400) 512).bind fun (t, s1) =>
    let table := flightTable ((flightOf t .a).take (8 - v.flight.length)) v.flight
    (eachItem [(0x1400, 512, table), (0x1600, 36, block), (0x1600 + 36, 1, v.vcfg.toNat)]
      (fun p u => u.areaWrite (areaAt va p.1) p.2.1 p.2.2) s1).map fun s2 =>
        { s2 with vu := { s2.vu with dirty := s2.vu.dirty &&& 0xFFFFFFFF } }

/-- Saves the masks, the scales and the residues, and sets s33 (R281). -/
def saveAux (va : Word) (s : State) : Except AreaErr State :=
  eachItem [(0x20000, 65536, s.vu.masksImage), (0x3000, 4096, s.vu.scalesImage), (0x2800, 64, s.vu.nsImage), (0x1600 + 37, 1, 1)]
    (fun p t => t.areaWrite (areaAt va p.1) p.2.1 p.2.2) s

/-- Saves one tile with its header, whose dirty bit it clears, and sets its held word (R132, R281). -/
def saveTile (va : Word) (j : Nat) (s : State) : Except AreaErr State :=
  let t := s.myTile j
  let h := t.header &&& ~~~(4096#32)
  let o := 0x30000 + j * 0x10040
  (eachItem [(o, 65536, t.cells.toNat), (o + 0x10000, 8, h.toNat + 2 ^ 32)] (fun p u => u.areaWrite (areaAt va p.1) p.2.1 p.2.2) s).map
    fun s1 => s1.setTile (s1.me.tileNo j) { t with header := h }

/-- What an operand selects, moved part by part: the parts in the order in which the instruction takes them (R132). -/
def areaParts (s : State) (l : List (State → Except AreaErr State)) : Except AreaErr State := eachItem l (fun f t => f t) s

/-- The byte ranges of an area that an operand selects, for registers of `b` bits, by ascending offset. -/
def areaRanges (w : Word) (b : Nat) : List (Nat × Nat) :=
  (if w.getLsbD 32 then [(0x1400, 512)] else []) ++
  (if w.getLsbD 32 || w.getLsbD 33 || !(selected w 0 32).isEmpty then [(0x1600, 64)] else []) ++
  (if w.getLsbD 33 then [(0x2800, 64), (0x3000, 4096)] else []) ++
  ((selected w 0 32).map (fun i => (0x10000 + i * (b / 8), b / 8))) ++
  (if w.getLsbD 33 then [(0x20000, 65536)] else []) ++
  ((selected w 40 8).map (fun j => (0x30000 + j * 0x10040, 0x10040)))

/-- The pages of those ranges, by ascending offset. -/
def areaPages (va w : Word) (b : Nat) : List Nat :=
  dedupNat ((areaRanges w b).flatMap (fun r =>
    (pagePieces (areaAt va r.1) r.2).map (fun p => (areaAt va (r.1 + p.1)).toNat / 65536 * 65536)))

/-- Every page that `vsave` writes permits it: checked by ascending offset before anything moves (DEDUCED from R309, log entry 113). -/
def State.areaCheck (s : State) (va w : Word) : Except AreaErr State :=
  eachItem (areaPages va w (regBits s.vu.vcfg)) (fun p t =>
    match t.place (BitVec.ofNat 64 p) 1 .store .s with
    | .trap c _ x => .error (some (c, x))
    | .stall _ => .error none
    | .ok (_, t1) => .ok t1) s

/-- `vsave` (R132) of an operand. -/
def State.vsave (s : State) (va w : Word) : Except AreaErr State :=
  areaParts s [fun t => t.areaCheck va w, eachItem (selected w 0 32) (saveReg va), if w.getLsbD 32 then saveControl va else .ok,
    if w.getLsbD 33 then saveAux va else .ok, eachItem (selected w 40 8) (saveTile va)]

/-- Restores the vector control block and the flight table; the strand at hand becomes the slot's owner (R280). -/
def restControl (va : Word) (s : State) : Except AreaErr State :=
  (s.areaRead (areaAt va 0x1600) 64).bind fun (r, s1) =>
    (s1.areaRead (areaAt va 0x1400) 512).map fun (t, s2) => { s2 with vu := { s2.vu with
      owner := some s2.me.uid, vl := field r 0 4 % 2 ^ 18, vstart := field r 4 4 % 2 ^ 18,
      vtype := legalVtype (BitVec.ofNat 64 (field r 8 8)), lgp := #v[field r 16 4, field r 20 4, field r 24 4, field r 28 4],
      vcfg := BitVec.ofNat 2 (field r 36 1), flight := flightOf t .x } }

/-- Restores one register: all ones and marked where the saved mark is 1 (R281). -/
def restReg (va : Word) (i : Nat) (s : State) : Except AreaErr State :=
  let b := regBits s.vu.vcfg
  (s.areaRead (areaAt va (0x1600 + 32)) 4).bind fun (m, s1) =>
    if m / 2 ^ i % 2 = 1 then
      let v := s1.vu.setRegAt i b (2 ^ b - 1)
      .ok { s1 with vu := { v with marks := v.marks ||| BitVec.ofNat 32 (2 ^ i) } }
    else
      (s1.areaRead (areaAt va (0x10000 + i * (b / 8))) (b / 8)).map fun (x, s2) =>
        let v := s2.vu.setRegAt i b x
        { s2 with vu := { v with marks := v.marks &&& ~~~(BitVec.ofNat 32 (2 ^ i)) } }

/-- Restores the masks, the scales and the residues, or, where none were saved, the values of R65 (R281). -/
def restAux (va : Word) (s : State) : Except AreaErr State :=
  (s.areaRead (areaAt va (0x1600 + 37)) 1).bind fun (f, s1) =>
    if f % 2 = 0 then
      .ok { s1 with vu := { s1.vu with masks := VecUnit.reset.masks, scales := VecUnit.reset.scales, ns := VecUnit.reset.ns } }
    else
      (s1.areaRead (areaAt va 0x20000) 65536).bind fun (m, s2) =>
        (s2.areaRead (areaAt va 0x3000) 4096).bind fun (c, s3) =>
          (s3.areaRead (areaAt va 0x2800) 64).map fun (n, s4) => { s4 with vu := { s4.vu with
            masks := Vector.ofFn (fun i => BitVec.ofNat 131072 (field m (16384 * i) 16384)),
            scales := Vector.ofFn (fun i => BitVec.ofNat 8192 (field c (1024 * i) 1024)),
            ns := Vector.ofFn (fun i => BitVec.ofNat 32 (field n (4 * i) 4)) } }

/-- Restores one tile, whose dirty bit stays (R132), or zero cells and a zero header where its held word is 0; the strand becomes
its holder (R280, R281). The reserved bits of a header read as zero (R4, R53). -/
def restTile (va : Word) (j : Nat) (s : State) : Except AreaErr State :=
  let o := 0x30000 + j * 0x10040
  let put (t : State) (cells : Nat) (header : BitVec 32) : State :=
    t.setTile (t.me.tileNo j) { holder := some (t.me.uid, j), cells := BitVec.ofNat 524288 cells, header := header }
  (s.areaRead (areaAt va (o + 0x10000)) 8).bind fun (h, s1) =>
    if h / 2 ^ 32 % 2 = 0 then .ok (put s1 0 0)
    else
      (s1.areaRead (areaAt va o) 65536).map fun (x, s2) =>
        put s2 x ((BitVec.ofNat 32 h &&& 0xFFF#32) ||| ((s.myTile j).header &&& 4096#32))

/-- `vrest` (R132) of an operand: bit 32 before anything else. -/
def State.vrest (s : State) (va w : Word) : Except AreaErr State :=
  areaParts s [if w.getLsbD 32 then restControl va else .ok, eachItem (selected w 0 32) (restReg va),
    if w.getLsbD 33 then restAux va else .ok, eachItem (selected w 40 8) (restTile va)]

/-- A V operation issued now may be performed at once: nothing is pending in the V pipe, but what waits for
the strand's vector state, and no popped token holds it. -/
def State.vQuiet (s : State) : Bool := (s.me.vops.isEmpty || !s.me.xstate.getLsbD 0) && !s.me.aops.any (fun o => decide (o.id < s.me.vhold))

/-- The count that bits 0-31 of a `vrest` operand are checked against (R132): with bit 32, that of the saved `vcfg`. -/
def State.restCount (s : State) (va w : Word) : Except AreaErr Nat :=
  if w.getLsbD 32 then (s.areaRead (areaAt va (0x1600 + 36)) 1).map (fun p => regCount (BitVec.ofNat 2 p.1))
  else .ok (regCount s.vu.vcfg)

/-- Counts one access for each distinct page that the instruction moves (R300). -/
def State.countArea (s : State) (va w : Word) : State :=
  (areaPages va w (regBits s.vu.vcfg)).foldl (fun t p => match t.rawPa t.me.ctx (BitVec.ofNat 64 p) with
    | some pa => t.countAccess pa (BitVec.ofNat 64 p) t.me.source false
    | none => t) s

/-- The address that a fault of an area reports: of a page, the first byte of the area in it (DEDUCED from R309, log entry 113). -/
def areaTval (va : Word) (c : Nat) (x : Word) : Word :=
  if c = 0x09 then x
  else
    let p := BitVec.ofNat 64 (x.toNat / 65536 * 65536)
    if p.toNat < va.toNat then va else p

/-- A save-area word (R132): the alignment of the area, its operand bits, then the movement. DESIGN CHOICE (log entry 113): a misaligned area
comes before a bad operand bit. -/
def areaForm (w : IWord) (a b : RegNo) (s : State) (count : State → Word → Word → Except AreaErr Nat)
    (f : State → Word → Word → Except AreaErr State) : Out :=
  scalarOp w [a, b] none s fun s1 x y _ =>
    if !s1.vQuiet then .stall .operand s
    else if x.toNat % 64 ≠ 0 then .trap (s.trapAt 0x03 0 x) s
    else
      match count s1 x y with
      | .error none => .stall .walk s
      | .error (some e) => .trap (s.trapAt e.1 0 (areaTval x e.1 e.2)) s
      | .ok n =>
        if !saveBitsOk y n s1.me.ntiles then .trap (s.trapAt 0x01 6 (w.zeroExtend 64)) s
        else
          match f s1 x y with
          | .error none => .stall .walk s
          | .error (some e) => .trap (s.trapAt e.1 0 (areaTval x e.1 e.2)) s
          | .ok s2 => .done (s2.countArea x y).retire

/-- `vsave` (R132). -/
def execVsave (a b : RegNo) (s : State) : Out :=
  areaForm (packS3 0x1a#6 0#5 a b 6#6 0#5) a b s (fun s1 _ _ => .ok (regCount s1.vu.vcfg)) State.vsave

/-- `vrest` (R132). -/
def execVrest (a b : RegNo) (s : State) : Out :=
  areaForm (packS3 0x1a#6 0#5 a b 7#6 0#5) a b s State.restCount State.vrest

/-- `wfi` (R133): it waits for the pending-event bit, which it leaves set; a request to pre-empt ends it too. -/
def execWfi (s : State) : Out :=
  scalarOp (packS3 0x1a#6 0#5 0#5 0#5 8#6 0#5) [] none s fun s1 _ _ _ => if s1.me.event then .done s1.retire else .stall .interrupt s1

end Sys2Proof.Machine
end

