-- ==== Sys2Proof/Machine/Engine.lean ====
section
/-!
DEFINITION. Engine commands (R180-R199): the parameter blocks, the checks made at issue, acceptance with tokens and
sequence numbers, and the ten instructions of the ENG major.
-/

namespace Sys2Proof.Machine

/-! ## Commands -/

/-- A command moves pages between tiers (R191, R228). -/
def Cmd.isTier (c : Cmd) : Bool := (c.kind == 0 && c.flags.getLsbD 1) || c.kind == 16

/-- A field of a command's block. -/
def Cmd.fld (c : Cmd) (o n : Nat) : Nat := field c.block.toNat o n

/-- The command keeps its surfaces' transfers with higher numbers from starting. -/
def Cmd.open (c : Cmd) : Bool := !c.done

/-- Every transfer with a lower sequence number of the surfaces that a command writes is complete (R94, R192). -/
def State.seqReady (s : State) (c : Cmd) : Bool :=
  s.cmds.all (fun e => e.token == c.token || e.ctx != c.ctx || !e.open ||
    e.surfs.all (fun p => c.surfs.all (fun q => p.1 != q.1 || !seqLower p.2 q.2)))

/-- Changes a command. -/
def State.modCmd (s : State) (t : Word) (f : Cmd → Cmd) : State :=
  { s with cmds := s.cmds.map (fun c => if c.token = t then f c else c) }

/-- A command that has not completed. -/
def State.cmd (s : State) (t : Word) : Option Cmd := s.cmds.find? (fun c => c.token == t && c.open)

/-- Takes the `cmd` or `pub` operation of a token from the operations of a strand: it counts as performed (R90). -/
def State.dropCmdOp (s : State) (uid : Nat) (t : Word) : State :=
  s.modStrand uid (fun m => { m with aops := m.aops.filter (fun o =>
    match o.kind with | .cmd u => u != t | .pub u => u != t | _ => true) })

/-! ## The KV pool entry of a transfer (R216, R226, R228) -/

/-- Reads and writes a part of a record of a context on the KV agent's behalf. -/
def State.getRec (s : State) (ctx : Nat) (va : Word) (n : Nat) : Nat := s.viewVa ctx va n

/-- The source number of a die's KV agent (R183). -/
def kvSource (die : Nat) : Nat := (Requester.engine die 63).number

/-- The agent of a transfer reads a record: the accessed bit of its page and the count at its home (R298, R300). -/
def State.sawRec (s : State) (c : Cmd) (va : Word) : State :=
  match s.translate c.ctx c.die none (s.visible c.ctx va) .load c.priv with
  | .ok pa _ _ s1 => s1.countAccess pa va (kvSource c.die) false
  | _ => s

/-- The agent of a transfer writes a part of a record: an ordinary write at its home, which sets the page's accessed and dirty bits and
counts (R220, R298, R300). -/
def State.putRec (s : State) (c : Cmd) (va : Word) (n v : Nat) : State :=
  match s.translate c.ctx c.die none (s.visible c.ctx va) .store c.priv with
  | .ok pa _ pte s1 => (s1.countAccess pa va (kvSource c.die) false).performWrite (.mem pa) (some pte) n v
  | _ => s.writeVa c.ctx (s.visible c.ctx va) n v

/-- The pool entry that a KV transfer moves. -/
def Cmd.poolEntry (c : Cmd) : Word := BitVec.ofNat 64 (c.fld 24 8 + 64 + 32 * c.fld 32 8)

/-- Pushes a frame on a pool's free list. -/
def State.poolFree (s : State) (c : Cmd) (pool : Word) (k : Nat) : State :=
  let e := pool + BitVec.ofNat 64 (64 + 32 * k)
  let s1 := s.sawRec c pool
  ((s1.putRec c (e + 12) 4 (s.getRec c.ctx (pool + 4) 4)).putRec c (pool + 4) 4 k).putRec c (pool + 12) 4
    (s.getRec c.ctx (pool + 12) 4 + 1)

/-- Refreshes the entry of the `kvpin` that started a transfer, while it still names the frame (R228). -/
def State.kvCatchUp (s : State) (c : Cmd) : State :=
  let v := BitVec.ofNat 64 (c.fld 40 8)
  let tt := s.getRec c.ctx (v + 13) 1
  let fl := s.getRec c.ctx (v + 14) 1
  if v = 0 then s
  else if fl % 2 = 1 || s.getRec c.ctx (v + 16) 4 ≠ c.fld 32 8 then s.sawRec c v
  else ((s.sawRec c v).putRec c (v + 13) 1 (tt % 16 + 16 * (s.getRec c.ctx (c.poolEntry + 16) 1 % 4))).putRec c (v + 14) 1
    (fl - fl / 4 % 2 * 4 + 4 * (s.getRec c.ctx (c.poolEntry + 17) 1 % 2))

/-- A transfer is in flight no more, unless a later one stands in its pool entry (R228). -/
def State.kvClear (s : State) (c : Cmd) : State :=
  let e := c.poolEntry
  let s1 := s.sawRec c e
  if s.getRec c.ctx (e + 24) 8 = c.token.toNat then (s1.putRec c (e + 17) 1 0).putRec c (e + 24) 8 0 else s1

/-- The strands that asked for the event of a transfer are woken (R45, R228). -/
def State.wakeAll (s : State) (c : Cmd) : State := c.watchers.foldl State.signal s

/-- The agent may write what the end of a KV transfer changes: no page of the pool, of the entry of the `kvpin` or of a sleeping
strand's saved image is moving (R295). -/
def State.kvWritable (s : State) (c : Cmd) : Bool :=
  let v := BitVec.ofNat 64 (c.fld 40 8)
  c.kind != 16 ||
    (!s.vaMoving c.ctx (s.visible c.ctx (BitVec.ofNat 64 (c.fld 24 8))) 64 && !s.vaMoving c.ctx (s.visible c.ctx c.poolEntry) 32 &&
     (v = 0 || !s.vaMoving c.ctx (s.visible c.ctx v) 32) &&
     c.watchers.all (fun u => (s.strand u).all s.imageAt))

/-- The end of a KV transfer that did not reach its tier: nothing is in flight, a frame that `kvret` freed joins the free list,
the entry of the `kvpin` is refreshed and the strands that asked for the event are woken (R226, R228). -/
def State.kvFailed (s : State) (c : Cmd) : State :=
  if c.kind != 16 || c.next = 1 then s
  else
    let s1 := (s.kvClear c).kvCatchUp c
    let s2 := if c.fld 48 1 = 1 then s1.poolFree c (BitVec.ofNat 64 (c.fld 24 8)) (c.fld 32 8) else s1
    s2.wakeAll c

/-! ## Residency and wear (R206, R207, R211) -/

/-- The stack and the erase block that hold a tier-1 address: where the flash controller last wrote its page, else the place that
its address names (log entry 14). -/
def State.flashBlock (s : State) (pa : Nat) : Nat × Nat :=
  let o := (s.normPa pa - s.regions[1].1) / 4194304
  (assoc s.flash (s.normPa pa / 65536)).getD (o % 4, o / 4)

/-- The number of an erase block over all stacks. -/
def blockNo (b : Nat × Nat) : Nat := 262144 * b.1 + b.2

/-- How many pages were written into an erase block since its last erase. -/
def State.flashFill (s : State) (b : Nat × Nat) : Nat := (assoc s.platform.flashUsed (blockNo b)).getD 0

/-- The `i`-th erase block from `k` on of a stack takes a page that stands in block `old`: it is another block, erased with room among its
64 pages, and in the allocation pool (R211, R332). -/
def State.flashTakes (s : State) (old : Nat × Nat) (k i : Nat) : Bool :=
  let b := (old.1, (k + i) % 262144)
  b != old && decide (s.flashFill b < 64) && !s.platform.flashGone.contains b

/-- The flash controller writes a 64 KiB page of tier 1, never in place: into the first erased block with room from a free value on
(R211; log entry 14). -/
def State.flashWrite (s : State) (pa : Nat) : State :=
  let old := s.flashBlock pa
  let k := s.drawFree.1.toNat
  let t := s.drawFree.2
  match (List.range (s.platform.flashUsed.length + s.platform.flashGone.length + 2)).find? (s.flashTakes old k) with
  | none => t
  | some i =>
    let b := (old.1, (k + i) % 262144)
    { t with flash := assocSet s.flash (s.normPa pa / 65536) b
             platform := { s.platform with flashUsed := assocSet s.platform.flashUsed (blockNo b) (s.flashFill b + 1) } }

/-- The erase counter of a block. -/
def State.eraseCount (s : State) (b : Nat × Nat) : Nat :=
  ((s.erases.find? (fun e => e.1 == b.1 && e.2.1 == b.2)).map (fun e => e.2.2)).getD 0

/-- The 64 KiB pages of a range of a surface, those of side 1 after those of side 0 (R191). -/
def Surf.pages (f : Surf) (va : Word) (n : Nat) : List Word :=
  let at' (b : Nat) : List Word := (List.range (n / 65536)).map (fun k => BitVec.ofNat 64 (b + 65536 * k))
  at' va.toNat ++ (if f.twin then at' (f.alt + (va.toNat - f.base)) else [])

/-- The greatest erase count among the blocks that hold the tier-1 pages of a surface, at most 65,535 (R206). -/
def State.wearOf (s : State) (ctx : Nat) (f : Surf) : Nat :=
  Nat.min 65535 (((f.pages (BitVec.ofNat 64 f.base) f.len).filterMap (fun p =>
    match s.leafOf ctx p with
    | some (e, _, n) => if s.tierOf (leafPa e n p) = 1 then some (s.eraseCount (s.flashBlock (leafPa e n p))) else none
    | none => none)).foldl Nat.max 0)

/-- Adds to, or takes from, the count of resident pages of a tier in a surface record (R206, R207). -/
def State.bumpRes (s : State) (f : Surf) (tier : Nat) (up : Bool) (k : Nat) : State :=
  let a := f.addr + 40 + 4 * tier
  s.writePa a 4 (if up then s.readPa a 4 + k else s.readPa a 4 - k)

/-- The record of a surface after a page move (R207): `k` pages left one tier for another. -/
def State.recordMove (s : State) (ctx : Nat) (f : Surf) (oldTier newTier k : Nat) : State :=
  let s1 := (s.bumpRes f oldTier false k).bumpRes f newTier true k
  if newTier = 1 then s1.writePa (f.addr + 56) 2 (s1.wearOf ctx f) else s1

/-- The pages that a copy wrote whole into tier 1 stand in new blocks, and its surfaces' records say so (R207, R211). -/
def State.recordWear (s : State) (c : Cmd) : State :=
  let s1 := c.flashed.foldl (fun t va => match t.rawPa c.ctx va with | some pa => t.flashWrite pa | none => t) s
  ((c.flashed.filterMap (fun va => (surfIn c.recs va).orElse fun _ => side1In c.recs va)).eraseDups).foldl
    (fun t f => t.writePa (f.addr + 56) 2 (t.wearOf c.ctx f)) s1

/-- What the surface records take when a command completes (R191, R207). -/
def State.recordEnd (s : State) (c : Cmd) : State :=
  (c.moved.foldl (fun t m => t.recordMove c.ctx m.1 m.2.1 m.2.2.1 m.2.2.2) s).recordWear c

/-! ## The absent-fault queue (R286, R287) -/

/-- The address of entry `k` of a strand's absent-fault queue (R287). -/
def State.absentAt (s : State) (m : Strand) (k : Nat) : Word := s.saveArea m + BitVec.ofNat 64 (0x1680 + 32 * k)

/-- The flags of an entry. -/
def State.absentFlags (s : State) (m : Strand) (k : Nat) : Nat := s.readVa m.ctx (s.absentAt m k + 1) 1

/-- The valid entries of the queue, in arrival order. -/
def State.absentValid (s : State) (m : Strand) : List Nat := (List.range 16).filter (fun k => s.absentFlags m k % 2 = 1)

/-- The strand in whose queue the fault of a command stands, and its entry there. -/
def State.absentEntry (s : State) (c : Cmd) : Option (Strand × Nat) :=
  match c.absent, s.strand c.uid with
  | some k, some m => if m.save.isSome then some (m, k) else none
  | _, _ => none

/-- Empties the entry in which the fault of a command stands. -/
def State.absentEmpty (s : State) (c : Cmd) : State :=
  match s.absentEntry c with
  | some (m, k) => s.writeVa m.ctx (s.absentAt m k + 1) 1 0
  | none => s

/-! ## Collectives (R195, R196) -/

/-- Members and rank of a collective's group table (R195). -/
def Cmd.members (c : Cmd) : Nat := bits (c.table.headD 0).toNat 15 0
def Cmd.rank (c : Cmd) : Nat := bits (c.table.headD 0).toNat 31 16

/-- The module, die and context of a member's table entry. -/
def memberModule (w : Word) : Nat := bits w.toNat 27 18
def memberDie (w : Word) : Nat := bits w.toNat 17 16
def memberCtx (w : Word) : Nat := bits w.toNat 15 0

/-- The commands of a member for a tag, oldest first. -/
def State.callsOf (s : State) (tag die ctx : Nat) : List Cmd :=
  s.cmds.filter (fun e => e.kind == 5 && e.fld 28 4 == tag && e.die == die && e.ctx == ctx)

/-- Which of its member's commands of the tag a command is. -/
def State.callNo (s : State) (c : Cmd) : Nat := (s.callsOf (c.fld 28 4) c.die c.ctx).findIdx (fun e => e.token == c.token)

/-- The command of member `k` in the collective of a command: `none` for another module's member, and for one that has
issued none yet. -/
def State.memberCmd (s : State) (c : Cmd) (k : Nat) : Option Cmd :=
  let w := c.table.getD (k + 1) 0
  if memberModule w = s.platform.moduleNo then (s.callsOf (c.fld 28 4) (memberDie w) (memberCtx w))[s.callNo c]? else none

/-- Member `k` belongs to another module. -/
def State.memberAway (s : State) (c : Cmd) (k : Nat) : Bool := memberModule (c.table.getD (k + 1) 0) != s.platform.moduleNo

/-- The members that this module holds, of a command's table. -/
def State.homeMembers (s : State) (c : Cmd) : List Nat := (List.range (Nat.min c.members 1024)).filter (fun k => !s.memberAway c k)

/-- The commands that a command's table names. -/
def State.named (s : State) (c : Cmd) : List Word := (s.homeMembers c).filterMap (fun k => (s.memberCmd c k).map (·.token))

/-- The commands that one of a list names, or that name one of the list, with the list: applied `n` times. -/
def State.groupOf (s : State) : Nat → List Word → List Word
  | 0, l => l
  | n + 1, l => s.groupOf n ((s.cmds.filter (fun e => e.kind == 5 && (l.contains e.token || (s.named e).any l.contains ||
      s.cmds.any (fun o => l.contains o.token && (s.named o).contains e.token)))).map (·.token))

/-- A command's own table names it at its rank. -/
def State.namesItself (s : State) (c : Cmd) : Bool :=
  decide (c.rank < c.members) && ((s.memberCmd c c.rank).map (·.token)) == some c.token

/-- The commands of a collective, once every member that a table of the group names has completed its own. A command whose table
does not name it is let go with the members whose tables do. -/
def State.groupDone (s : State) (c : Cmd) : Option (List Word) :=
  let l := s.groupOf s.cmds.length [c.token]
  let ready (e : Cmd) : Bool := !l.contains e.token || (e.done && (s.homeMembers e).all (fun k => (s.memberCmd e k).isSome) &&
    (s.namesItself e || decide (1 < l.length)))
  if s.cmds.all ready then some l else none

/-! ## Completion -/

/-- Completes a command's token (R94, R184), with the surface records (R191, R207) and the entry of the absent-fault queue before it.
The last member of a collective lets the group go. -/
def State.endNow (s : State) (c : Cmd) (st cause : Nat) (addr : Word) : State :=
  let s1 := ((((s.recordEnd c).absentEmpty c).dropCmdOp c.uid c.token).completeToken c.token st cause c.fpflags addr)
  if c.kind = 5 then
    match s1.groupDone c with
    | some l => { s1 with cmds := s1.cmds.filter (fun e => !l.contains e.token) }
    | none => s1
  else s1

/-- The entry of the absent-fault queue in which a command's fault stands can be emptied: its page is not moving (R295). -/
def State.absentStill (s : State) (c : Cmd) : Bool := (s.absentEntry c).all (fun e => !s.vaMoving e.1.ctx (s.absentAt e.1 e.2) 32)

/-- Completes a command's token, after the KV agent's part of a transfer that failed (R226, R228), which waits while the agent may not
write. -/
def State.endCmd (s : State) (c : Cmd) (st cause : Nat) (addr : Word) : State :=
  if !(s.kvWritable c && s.absentStill c) then s else (if st = 1 || st = 5 then s else s.kvFailed c).endNow c st cause addr

/-! ## Blocks -/

/-- A copy block (R187). -/
structure Copy where
  src : Word
  dst : Word
  rowbytes : Nat
  rows : Nat
  sstride : Word
  dstride : Word
  stype : Nat
  dtype : Nat
  cvt : Nat
deriving DecidableEq, Repr

/-- The copy block in 64 bytes. -/
def Copy.of (b : Nat) : Copy :=
  { src := BitVec.ofNat 64 (field b 0 8), dst := BitVec.ofNat 64 (field b 8 8), rowbytes := field b 16 4,
    rows := field b 20 4, sstride := BitVec.ofNat 64 (field b 24 8), dstride := BitVec.ofNat 64 (field b 32 8),
    stype := field b 40 1, dtype := field b 41 1, cvt := field b 42 1 }

def Copy.conv (k : Copy) : Bool := k.cvt % 2 = 1
def Copy.rm (k : Copy) : Nat := k.cvt / 2 % 8

/-- The bytes of a source and of a destination element: 1 without conversion (R187). -/
def Copy.sb (k : Copy) : Nat := if k.conv then etypeWidth k.stype / 8 else 1
def Copy.db (k : Copy) : Nat := if k.conv then etypeWidth k.dtype / 8 else 1

/-- The destination bytes of a row. -/
def Copy.drow (k : Copy) : Nat := k.rowbytes / k.sb * k.db

/-- The addresses of a row (R187). -/
def Copy.srcRow (k : Copy) (r : Nat) : Word := k.src + BitVec.ofNat 64 r * k.sstride
def Copy.dstRow (k : Copy) (r : Nat) : Word := k.dst + BitVec.ofNat 64 r * k.dstride

/-- The pairs of R189: rows of R74 without E8M0 and without elements narrower than 8 bits. -/
def cvtPairOk (st dt : Nat) : Bool :=
  (exactPair st dt || roundPair st dt) && decide (st ≤ 15) && decide (dt ≤ 15) && decide (8 ≤ etypeWidth st) &&
  decide (8 ≤ etypeWidth dt)

/-- The field checks that the three copies share (R187, R189). -/
def Copy.fieldsOk (k : Copy) (b : Nat) : Bool :=
  decide (1 ≤ k.rowbytes && k.rowbytes ≤ 2 ^ 30) && decide (1 ≤ k.rows && k.rows ≤ 2 ^ 24) && field b 43 21 == 0 &&
  decide (k.cvt < 16) &&
  (if k.conv then cvtPairOk k.stype k.dtype && decide (k.rm ≤ 3) && decide (k.rowbytes % (etypeWidth k.stype / 8) = 0)
   else k.stype == 0 && k.dtype == 0 && k.rm == 0)

/-! ## Address ranges -/

/-- The first byte of a range that lies in the addresses kept for the scratchpad window (R200). -/
def windowTouch (va : Word) (n : Nat) : Option Word :=
  if inWindow va then some va
  else if ((0xFF00000000000000 : Word) - va).toNat < n then some 0xFF00000000000000 else none

/-- The first byte of a range in the window that lies outside the reservation it reaches (R201). -/
def State.padTouch (s : State) (va : Word) (n : Nat) : Option Word :=
  let o := va.toNat % 2 ^ 32
  if !inWindow va || decide (2 ^ 25 ≤ o) then some va
  else
    match s.rankStrand s.me (o / 2 ^ 23) with
    | none => some va
    | some m =>
      if o % 2 ^ 23 + n ≤ m.scratch then none
      else if m.scratch ≤ o % 2 ^ 23 then some va
      else some (va + BitVec.ofNat 64 (m.scratch - o % 2 ^ 23))

/-- The first byte of a range that lies in a decompressing aperture (R214). -/
def State.apertureTouch (s : State) (ctx : Nat) (va : Word) (n : Nat) : Option Word :=
  ((s.surfs ctx).filterMap (fun f =>
    if f.compressed && rangesMeet va.toNat n (f.base + 2 ^ 55) f.len then some (BitVec.ofNat 64 (Nat.max va.toNat (f.base + 2 ^ 55)))
    else none)).head?

/-- A range meets a surface. -/
def Surf.meets (f : Surf) (va : Word) (n : Nat) : Bool := rangesMeet va.toNat n f.base f.len

/-- A range lies in a surface. -/
def Surf.holds (f : Surf) (va : Word) (n : Nat) : Bool := decide (f.base ≤ va.toNat) && decide (va.toNat + n ≤ f.base + f.len)

/-- The surfaces of a context that a list of ranges meets. -/
def State.surfsOf (s : State) (ctx : Nat) (rs : List (Word × Nat)) : List Surf :=
  (s.surfs ctx).filter (fun f => rs.any (fun r => f.meets r.1 r.2))

/-- The ranges of a copy. -/
def Copy.srcs (k : Copy) : List (Word × Nat) := (List.range k.rows).map (fun r => (k.srcRow r, k.rowbytes))
def Copy.dsts (k : Copy) : List (Word × Nat) := (List.range k.rows).map (fun r => (k.dstRow r, k.drow))

/-- The first address of a list of ranges that a test finds. -/
def firstTouch (rs : List (Word × Nat)) (f : Word → Nat → Option Word) : Option Word := (rs.filterMap (fun r => f r.1 r.2)).head?

/-- The checks on blocks of a compressed surface (R190). -/
def Copy.blocksOk (k : Copy) (both : Bool) : Bool :=
  k.dst.toNat % 4096 == 0 && k.rowbytes % 4096 == 0 && k.drow % 4096 == 0 &&
  k.dstride.toNat % 4096 == 0 && k.sstride.toNat % 4096 == 0 && (!both || k.src.toNat % 4096 == 0)

/-- A list of ranges lies in compressed surfaces. -/
def State.inCompressed (s : State) (ctx : Nat) (rs : List (Word × Nat)) : Bool :=
  rs.all (fun r => (s.surfs ctx).any (fun f => f.compressed && f.holds r.1 r.2))

/-- Pages that hold only a part of a large leaf (R302). -/
def State.splitsLeaf (s : State) (ctx : Nat) (ps : List Word) : Bool :=
  ps.any (fun p => match s.leafOf ctx p with
    | some (_, _, n) =>
      let b := p.toNat / n * n
      !(List.range (n / 65536)).all (fun k => ps.contains (BitVec.ofNat 64 (b + 65536 * k)))
    | none => false)

/-! ## Issue (R181, R182) -/

/-- The parameter block, read once as an A-load of the issuing thread. -/
def State.readBlock (s : State) (va : Word) : Chk (Nat × State) :=
  if va.toNat % 64 ≠ 0 then .trap 0x03 0 va
  else if inWindow va then .trap 0x06 0 va
  else
    (s.memPlace va .load s.cur.priv).bind fun (p, s1) =>
      let l := s1.placeNow s1.me.ctx p
      if (s1.bufferHit s1.me.anext l 64).isSome || s1.me.vops.any (fun v => decide (v.id < s1.me.ahold)) ||
         s1.me.aops.any (fun o => o.acquires || (o.reads && o.touches l 64)) then .stall .operand
      else if s1.poisonedAt l 64 then .trap 0x09 0 va
      else .ok (s1.readHome l 64, s1.countMaybe l va s1.me.source)

/-- 256 commands of the strand's context are uncompleted on its die (R182). -/
def State.commandsFull (s : State) : Bool :=
  decide (256 ≤ (s.cmds.filter (fun c => c.ctx == s.me.ctx && c.die == s.me.die && c.open)).length)

/-- The engines of a function: the first number and how many (R183). -/
def engineRange (kind : Nat) : Nat × Nat :=
  if kind = 3 || kind = 4 then (16, 8) else if kind = 5 then (24, 4) else if kind = 9 then (28, 1) else if kind = 16 then (63, 1) else (0, 16)

/-- Takes the sequence numbers of a list of surfaces, for an issuer of a source number (R192). -/
def State.takeSeqs (s : State) (src : Nat) : List Surf → List (Nat × Nat) × State
  | [] => ([], s)
  | f :: l =>
    let p := s.takeSeq f
    let q := (p.2.took (surfKey f) src).takeSeqs src l
    ((f.n, p.1) :: q.1, q.2)

/-- The range that a tier transfer moves. -/
def Cmd.range (c : Cmd) : Nat × Nat := (c.fld 0 8, c.fld 16 4)

/-- The page-out that a page-in cancels: just below it, of the same range, with no unit performed (R192). -/
def State.cancelled (s : State) (c : Cmd) : Option Cmd :=
  if c.isTier && c.fld 8 8 % 4 = 0 then
    s.cmds.find? (fun o => o.isTier && o.open && !o.rejected && o.ctx == c.ctx && o.fld 8 8 % 4 != 0 && o.range == c.range &&
      o.moving.isNone && o.written.isEmpty &&
      c.surfs.all (fun p => o.surfs.any (fun q => q.1 == p.1 && (q.2 + 1) % 2 ^ 32 == p.2)))
  else none

/-- A command as it is accepted, under a token. -/
def Cmd.new (t : Word) (kind : Nat) (m : Strand) (die : Nat) (scope : BitVec 2) (flags : BitVec 3) (p : Priv) (b : Nat)
    (surfs : List (Nat × Nat)) (recs : List Surf) (base : Nat) : Cmd :=
  { token := t, kind := kind, uid := m.uid, ctx := m.ctx, die := die, scope := scope, flags := flags, priv := p,
    block := BitVec.ofNat 512 b, aop := m.anext, hold := m.ahold, surfs := surfs, recs := recs, started := false, done := false,
    rejected := false, absent := none, moved := [], flashed := [], destSides := [], samples := [], pages := [], errs := [], popped := [], vals := [], table := [],
    held := [], written := [], next := 0, paused := none, moving := none, base := base, poisoned := false, fpflags := 0,
    watchers := [] }

/-- A page-in that cancels a page-out moves nothing, and completes as soon as the transfers below are complete; the page-out, which is
marked, performs nothing, and its token completes with state 4: at once, or, for a transfer of the KV agent, when the agent may write
what that takes (R192, R295). -/
def State.settle (s : State) (c : Cmd) : State :=
  match s.cancelled c with
  | none => s
  | some o =>
    let s0 := s.modCmd o.token (fun e => { e with rejected := true })
    let s1 := ((s0.endCmd { o with rejected := true } 4 0 0).modCmd c.token (fun e => { e with started := true })).dropCmdOp c.uid c.token
    if s1.seqReady c && c.kind != 16 then s1.endCmd c 1 0 0 else s1

/-- The source number that orders the commands of one `gts` nanosecond: the issuing strand's, or, for a transfer that the KV agent
starts, that of engine 63 of the agent's die (R192). -/
def State.issuer (s : State) (kind die : Nat) : Nat := if kind = 16 then (Requester.engine die 63).number else s.me.source

/-- Numbers of a list of surfaces may be taken now: no higher source has taken one at this `gts` value, and fewer than 2^31 - 2
transfers of each are uncompleted (R192). -/
def State.mayTake (s : State) (src : Nat) (fs : List Surf) : Bool :=
  fs.all (fun f => s.inTurn (surfKey f) src &&
    decide ((s.cmds.filter (fun c => c.ctx == s.me.ctx && c.open && c.surfs.any (fun p => p.1 == f.n))).length < 2 ^ 31 - 2))

/-- Accepts a command of the strand at hand (R182, R183, R192): the dispatcher chooses its engine (a free value), a token
and sequence numbers are taken, and the command joins the A-thread's operations. -/
def State.accept (s : State) (w : IWord) (kind die : Nat) (scope : BitVec 2) (flags : BitVec 3) (p : Priv) (b : Nat)
    (surfs : List Surf) (op : Word → AKind) : Word × State :=
  let e := engineRange kind
  let t := s.newToken s.me.ctx (Requester.engine die (e.1 + s.drawFree.1.toNat % e.2)).number
  let s1 := { t.2 with free := s.free + 1 }
  let recs := s1.surfs s.me.ctx
  let q := s1.takeSeqs (s.issuer kind die) surfs
  let c := Cmd.new t.1 kind s.me die scope flags p b q.1 recs q.2.free
  let o : AOp := { id := s.me.anext, pc := s.me.a.pc, word := w, kind := op t.1, va := 0,
                   place := { loc := .pad 0 0, twin := none, pte := none, alt := none, pages := [] }, hold := s.me.ahold }
  let s2 := { q.2 with cmds := q.2.cmds ++ [c], me := { q.2.me with aops := q.2.me.aops ++ [o], anext := q.2.me.anext + 1 } }
  (t.1, s2.settle c)

/-- An ENG word with a parameter block (R180, R181). The checks answer the surfaces that the command writes. -/
def engineForm (w : IWord) (d p : RegNo) (kind : Nat) (scope : BitVec 2) (flags : BitVec 3) (s : State)
    (chk : State → Nat → Chk (List Surf)) : Out :=
  scalarOp w [p] (some d) s fun s1 x _ _ =>
    if s1.commandsFull then .stall .commands s
    else (s1.readBlock x).then s fun r =>
      (chk r.2 r.1).then s fun surfs =>
        if !r.2.mayTake s1.me.source surfs then .stall .commands s
        else
          let t := r.2.accept w kind s1.me.die scope flags s1.cur.priv r.1 surfs .cmd
          .done ((t.2.put d t.1).retire)

/-- Illegal-instruction with sub-code 6. -/
def sub6 {α : Type} (w : IWord) : Chk α := .trap 0x01 6 (w.zeroExtend 64)

/-- Protection at an offending address, if there is one. -/
def protectAt {α : Type} (o : Option Word) (k : Chk α) : Chk α :=
  match o with
  | some a => .trap 0x06 0 a
  | none => k

/-- The checks on a destination in memory: no aperture, and the blocks of a compressed surface (R190, R214). -/
def State.destCheck (s : State) (w : IWord) (rs : List (Word × Nat)) (blocksOk : Bool) : Chk (List Surf) :=
  let ctx := s.me.ctx
  protectAt (firstTouch rs (s.apertureTouch ctx))
    (let fs := s.surfsOf ctx rs
     if fs.any (·.compressed) && !blocksOk then sub6 w else .ok fs)

/-- The checks of a tier transfer (R191, R210, R302). -/
def State.tierCheck (s : State) (w : IWord) (k : Copy) : Chk (List Surf) :=
  match s.surfOf s.me.ctx k.src with
  | none => sub6 w
  | some f =>
    if f.tiered && k.src.toNat % 65536 == 0 && k.rowbytes % 65536 == 0 && k.rows == 1 && decide (k.dst.toNat < 4) &&
       k.dstride == 0 && f.holds k.src k.rowbytes && !k.conv && (k.dst != 1 || f.readmostly) &&
       !s.splitsLeaf s.me.ctx (f.pages k.src k.rowbytes) then .ok [f]
    else sub6 w

/-- The checks of `cpy` at issue (R187-R191). -/
def State.cpyCheck (s : State) (w : IWord) (flags : BitVec 3) (b : Nat) : Chk (List Surf) :=
  let k := Copy.of b
  let keep := flags.getLsbD 0
  if !k.fieldsOk b || (keep && (flags.getLsbD 1 || k.conv || !k.blocksOk true)) then sub6 w
  else if flags.getLsbD 1 then s.tierCheck w k
  else if keep && !(s.inCompressed s.me.ctx k.srcs && s.inCompressed s.me.ctx k.dsts) then sub6 w
  else protectAt (firstTouch (k.srcs ++ k.dsts) windowTouch) (s.destCheck w k.dsts (k.blocksOk false))

/-- The window side of a `cpys`: every row in the reservation it reaches (R188). -/
def State.sideCheck (s : State) (rs : List (Word × Nat)) : Option Word :=
  match rs with
  | [] => none
  | (a, _) :: _ => if inWindow a then firstTouch rs s.padTouch else firstTouch rs windowTouch

/-- The checks of `cpys` at issue (R188). -/
def State.cpysCheck (s : State) (w : IWord) (b : Nat) : Chk (List Surf) :=
  let k := Copy.of b
  if !k.fieldsOk b then sub6 w
  else if !inWindow k.src && !inWindow k.dst then .trap 0x06 0 k.src
  else protectAt (s.sideCheck k.srcs)
    (protectAt (s.sideCheck k.dsts) (if inWindow k.dst then .ok [] else s.destCheck w k.dsts (k.blocksOk false)))

/-- A closed destination queue raises queue protocol (R188, R193). -/
def State.closedCheck (s : State) (q : Nat) : Chk (List Surf) :=
  if (s.queue q).closed then .trap 0x0A 0 (BitVec.ofNat 64 q) else .ok []

/-- The checks of `cpyq` at issue (R187, R188); a source in the window is checked as for `cpys` (R201, log entry 52). -/
def State.cpyqCheck (s : State) (w : IWord) (b : Nat) : Chk (List Surf) :=
  let k := Copy.of b
  if !k.fieldsOk b || decide (8 ≤ k.dst.toNat) || k.dstride != 0 || decide (k.rows * k.drow % 16 ≠ 0) then sub6 w
  else protectAt (s.sideCheck k.srcs) (s.closedCheck k.dst.toNat)

/-- A `gath` block's destination range (R193): in a twin surface. -/
def State.twinCheck (s : State) (w : IWord) (va : Word) (n : Nat) : Chk (List Surf) :=
  match s.surfOf s.me.ctx va with
  | none => .trap 0x06 0 va
  | some f =>
    if !f.twin then .trap 0x06 0 va
    else if !f.holds va n then .trap 0x06 0 (BitVec.ofNat 64 (f.base + f.len))
    else s.destCheck w [(va, n)] (va.toNat % 4096 == 0 && n % 4096 == 0)

/-- The checks of `gath` at issue (R193). -/
def State.gathCheck (s : State) (w : IWord) (flags : BitVec 3) (b : Nat) : Chk (List Surf) :=
  let n := field b 24 4
  let es := field b 28 1
  let iw := field b 29 1
  if !(decide (1 ≤ n && n ≤ 2 ^ 24) && [1, 2, 4, 8, 16].contains es && (iw == 4 || iw == 8) && field b 30 34 == 0 &&
      (!flags.getLsbD 0 || decide (field b 8 8 < 4)) && (!flags.getLsbD 1 || decide (field b 16 8 < 8))) then sub6 w
  else if flags.getLsbD 1 then s.closedCheck (field b 16 8)
  else s.twinCheck w (BitVec.ofNat 64 (field b 16 8)) (n * es)

/-- The element types of `scad` and `coll`. -/
def sumType (et : Nat) : Bool := et == 0 || et == 1 || et == 9 || et == 13

/-- The checks of `scad` at issue (R194); it writes the surface that its table lies in. -/
def State.scadCheck (s : State) (w : IWord) (flags : BitVec 3) (b : Nat) : Chk (List Surf) :=
  let n := field b 24 4
  let iw := field b 29 1
  let t := BitVec.ofNat 64 (field b 0 8)
  if !(decide (1 ≤ n && n ≤ 2 ^ 24) && sumType (field b 28 1) && (iw == 4 || iw == 8) && field b 30 34 == 0 &&
      (!flags.getLsbD 0 || decide (field b 8 8 < 4)) && (!flags.getLsbD 1 || decide (field b 16 8 < 4)) &&
      !(flags.getLsbD 0 && flags.getLsbD 1 && field b 8 8 == field b 16 8)) then sub6 w
  else if inWindow t then protectAt (s.padTouch t (etypeWidth (field b 28 1) / 8)) (.ok [])
  else protectAt (s.apertureTouch s.me.ctx t 1) (.ok (s.surfOf s.me.ctx t).toList)

/-- The checks of `coll` at issue (R195). -/
def State.collCheck (s : State) (w : IWord) (b : Nat) : Chk (List Surf) :=
  let n := field b 24 4
  let bytes := n * (etypeWidth (field b 33 1) / 8)
  let src := BitVec.ofNat 64 (field b 0 8)
  let dst := BitVec.ofNat 64 (field b 8 8)
  if !(decide (1 ≤ n && n ≤ 2 ^ 28) && decide (field b 32 1 ≤ 4) && sumType (field b 33 1) && field b 36 28 == 0 &&
      field b 16 8 % 8 == 0 && (field b 32 1 == 4 || field b 34 2 == 0)) then sub6 w
  else protectAt (firstTouch [(src, bytes), (dst, bytes)] windowTouch)
    (s.destCheck w [(dst, bytes)] (dst.toNat % 4096 == 0 && bytes % 4096 == 0))

/-- The checks of `mig` at issue (R198, R210, R302). -/
def State.migCheck (s : State) (w : IWord) (b : Nat) : Chk (List Surf) :=
  let va := BitVec.ofNat 64 (field b 0 8)
  let n := field b 8 4
  let tier := field b 12 1
  let ps := (List.range n).map (fun k => va + BitVec.ofNat 64 (65536 * k))
  let ok := va.toNat % 65536 == 0 && canonical va && decide (1 ≤ n && n ≤ 65536) && decide (tier ≤ 3) && field b 13 3 == 0 &&
    field b 16 8 % 65536 == 0 && decide (field b 16 8 < 2 ^ 52) && field b 24 40 == 0
  if !ok || (tier == 1 && ps.any (fun p => match s.surfOf s.me.ctx p with | some f => !f.readmostly | none => true)) ||
     s.splitsLeaf s.me.ctx ps then sub6 w
  else .ok (s.surfOf s.me.ctx va).toList

/-! ## The instructions (R180) -/

/-- `cpy` (R187-R191). -/
def execCpy (d p : RegNo) (sc : BitVec 2) (tier keep : Bool) (s : State) : Out :=
  let w := packE 0x1b#6 d p 0#5 0#6 sc (0#1 ++ BitVec.ofBool tier ++ BitVec.ofBool keep)
  let fl : BitVec 3 := 0#1 ++ BitVec.ofBool tier ++ BitVec.ofBool keep
  engineForm w d p 0 sc fl s (fun s1 b => s1.cpyCheck w fl b)

/-- `cpyq` (R187, R188). -/
def execCpyq (d p : RegNo) (sc : BitVec 2) (s : State) : Out :=
  engineForm (packE 0x1b#6 d p 0#5 1#6 sc 0#3) d p 1 sc 0 s (fun s1 b => s1.cpyqCheck (packE 0x1b#6 d p 0#5 1#6 sc 0#3) b)

/-- `cpys` (R187, R188). -/
def execCpys (d p : RegNo) (sc : BitVec 2) (s : State) : Out :=
  engineForm (packE 0x1b#6 d p 0#5 2#6 sc 0#3) d p 2 sc 0 s (fun s1 b => s1.cpysCheck (packE 0x1b#6 d p 0#5 2#6 sc 0#3) b)

/-- `gath` (R193). -/
def execGath (d p : RegNo) (sc : BitVec 2) (qdst qidx : Bool) (s : State) : Out :=
  let fl : BitVec 3 := 0#1 ++ BitVec.ofBool qdst ++ BitVec.ofBool qidx
  engineForm (packE 0x1b#6 d p 0#5 3#6 sc fl) d p 3 sc fl s (fun s1 b => s1.gathCheck (packE 0x1b#6 d p 0#5 3#6 sc fl) fl b)

/-- `scad` (R194). -/
def execScad (d p : RegNo) (sc : BitVec 2) (qval qidx : Bool) (s : State) : Out :=
  let fl : BitVec 3 := 0#1 ++ BitVec.ofBool qval ++ BitVec.ofBool qidx
  engineForm (packE 0x1b#6 d p 0#5 4#6 sc fl) d p 4 sc fl s (fun s1 b => s1.scadCheck (packE 0x1b#6 d p 0#5 4#6 sc fl) fl b)

/-- `coll` (R195). -/
def execColl (d p : RegNo) (sc : BitVec 2) (s : State) : Out :=
  engineForm (packE 0x1b#6 d p 0#5 5#6 sc 0#3) d p 5 sc 0 s (fun s1 b => s1.collCheck (packE 0x1b#6 d p 0#5 5#6 sc 0#3) b)

/-- `mig` (R198). -/
def execMig (d p : RegNo) (s : State) : Out :=
  engineForm (packE 0x1b#6 d p 0#5 9#6 0#2 0#3) d p 9 0 0 s (fun s1 b => s1.migCheck (packE 0x1b#6 d p 0#5 9#6 0#2 0#3) b)

/-- `pub` (R197): an address in no surface raises protection, a surface that is not twin sub-code 6. -/
def execPub (d p : RegNo) (sc : BitVec 2) (s : State) : Out :=
  let w := packE 0x1b#6 d p 0#5 6#6 sc 0#3
  scalarOp w [p] (some d) s fun s1 x _ _ =>
    if s1.commandsFull then .stall .commands s
    else
      match s1.surfOf s1.me.ctx x with
      | none => .trap (s.trapAt 0x06 0 x) s
      | some f =>
        if !f.twin then .trap (s.trapAt 0x01 6 (w.zeroExtend 64)) s
        else if !s1.mayTake s1.me.source [f] then .stall .commands s
        else
          let t := s1.accept w 6 s1.me.die sc 0 s1.cur.priv 0 [f] .pub
          .done ((t.2.put d t.1).retire)

/-! ## Tokens (R184, R185) -/

/-- The recorded causes that `tokw` raises. -/
def tokenTraps (w : Word) : Bool :=
  statusState w == 2 && [0x03, 0x04, 0x05, 0x06, 0x09].contains (bits w.toNat 23 16)

/-- A token of another context: sub-code 6 (R185). -/
def State.foreignToken (s : State) (x : Word) : Bool := x != 0 && tokenCtx x != s.me.ctx

/-- Ends the wait of a `tokw`. -/
def State.endTokenWait (s : State) : State := { s with me := { s.me with waitTok := none } }

/-- The A-thread waits for a token, since the time at which its wait began. -/
def State.waitToken (s : State) (x : Word) : State :=
  { s with me := { s.me with waitTok := match s.me.waitTok with
      | some (t, since) => if t = x then some (t, since) else some (x, s.gts)
      | none => some (x, s.gts) } }

/-- `tokw` (R185): waits until the token is complete, and raises a recorded cause after it retires. -/
def execTokw (d p : RegNo) (s : State) : Out :=
  let w := packE 0x1b#6 d p 0#5 7#6 0#2 0#3
  scalarOp w [p] (some d) s fun s1 x _ _ =>
    if s1.foreignToken x then .trap (s.trapAt 0x01 6 (w.zeroExtend 64)) s
    else
      let st := s1.tokenStatus x
      if statusState st.1 = 0 then .stall .token (s1.waitToken x)
      else
        let s2 := (s1.endTokenWait.put d st.1).retire
        if tokenTraps st.1 then .trap (s2.trapAt (bits st.1.toNat 23 16) 0 st.2) s2 else .done s2

/-- `toks` (R185): never waits. -/
def execToks (d p : RegNo) (s : State) : Out :=
  let w := packE 0x1b#6 d p 0#5 8#6 0#2 0#3
  scalarOp w [p] (some d) s fun s1 x _ _ =>
    if s1.foreignToken x then .trap (s.trapAt 0x01 6 (w.zeroExtend 64)) s
    else .done ((s1.put d (s1.tokenStatus x).1).retire)

/-- TOKW_WATCHDOG (R185, R290): a `tokw` that has waited longer than the limit of its context, in microseconds, raises
engine overdue without retiring. -/
def execTokwWatchdog (s : State) : Out :=
  match s.me.waitTok, (s.context s.me.ctx).bind (·.watchdog) with
  | some (t, since), some limit =>
    if s.me.a.wait = .token && decide (1000 * limit < (s.gts - since).toNat) then
      .next (s.endTokenWait.trapA { cause := 0x12, sub := 0, tval := t, tepc := s.me.a.pc, pages := [], more := false, resume := false })
    else .next s
  | _, _ => .next s

end Sys2Proof.Machine
end

