-- ==== Sys2Proof/Machine/Vector.lean ====
section
/-!
DEFINITION. What every vector instruction shares: the register file as a bit string (R50), invalid marks (R51), active
elements and fills (R137, R150), lane placement (R31, R50), assists (R77), the issue of a vector word, its retirement,
its stop by a pre-emption (R277, R278) and its entry in the history ring (R292).
-/

namespace Sys2Proof.Machine

/-! ## The register file (R48-R51) -/

/-- Bits of the register file. -/
def VecUnit.get (u : VecUnit) (pos w : Nat) : Nat := u.regs.toNat / 2 ^ pos % 2 ^ w

/-- The registers that a range of bits lies in. -/
def VecUnit.regsOf (u : VecUnit) (pos w : Nat) : List Nat :=
  let b := regBits u.vcfg
  if w = 0 then [] else (List.range ((pos + w - 1) / b + 1 - pos / b)).map (· + pos / b)

/-- Bit sets of 32 and of 64 bits. -/
def setOf (n : Nat) (l : List Nat) : BitVec n := l.foldl (fun a i => a ||| BitVec.ofNat n (2 ^ i)) 0

/-- Registers as written: their marks are cleared (R51) and their bits of `vdirty` set (R58). -/
def VecUnit.touch (u : VecUnit) (rs : List Nat) : VecUnit :=
  { u with marks := u.marks &&& ~~~(setOf 32 rs), dirty := u.dirty ||| setOf 64 rs }

/-- Writes bits of the register file. -/
def VecUnit.put (u : VecUnit) (pos w v : Nat) : VecUnit :=
  let n := u.regs.toNat
  ({ u with regs := BitVec.ofNat 524288 (n - n / 2 ^ pos % 2 ^ w * 2 ^ pos + v % 2 ^ w * 2 ^ pos) }).touch (u.regsOf pos w)

/-- Some register of a range of bits is marked invalid. -/
def VecUnit.marked (u : VecUnit) (pos w : Nat) : Bool := (u.regsOf pos w).any (fun r => u.marks.getLsbD r)

/-- The place of element `i` of width `w` in the group that starts at register `r` (R50). -/
def VecUnit.pos (u : VecUnit) (r w i : Nat) : Nat := r * regBits u.vcfg + w * i

/-- Element `i` of a group. -/
def VecUnit.elem (u : VecUnit) (r w i : Nat) : Nat := u.get (u.pos r w i) w

/-- A mask bit (R52). -/
def VecUnit.mbit (u : VecUnit) (k i : Nat) : Bool := (u.masks.toList.getD k 0).getLsbD i

/-- Writes a mask bit. -/
def VecUnit.setMbit (u : VecUnit) (k i : Nat) (b : Bool) : VecUnit :=
  let m := u.masks.toList.getD k 0
  let one : BitVec 131072 := BitVec.ofNat 131072 (2 ^ i)
  { u with masks := u.masks.setIfInBounds k (if b then m ||| one else m &&& ~~~one) }

/-- A scale of a scale register (R54). -/
def VecUnit.scaleAt (u : VecUnit) (k i : Nat) : Nat := (u.scales.toList.getD k 0).toNat / 2 ^ (8 * i) % 256

/-- Writes a scale. -/
def VecUnit.setScale (u : VecUnit) (k i v : Nat) : VecUnit :=
  let n := (u.scales.toList.getD k 0).toNat
  let n' := n - n / 2 ^ (8 * i) % 256 * 2 ^ (8 * i) + v % 256 * 2 ^ (8 * i)
  { u with scales := u.scales.setIfInBounds k (BitVec.ofNat 8192 n') }

/-- A residue (R55). -/
def VecUnit.residue (u : VecUnit) (l : Nat) : Nat := (u.ns.toList.getD l 0).toNat

/-! ## Lanes (R31, R50) -/

/-- The granule of an element, its lane, its lane group and its beat. -/
def granOf (w i : Nat) : Nat := w * i / 128
def laneOf (w i : Nat) : Nat := granOf w i % 16
def lgOf (w i : Nat) : Nat := laneOf w i / 4
def beatOf (w i : Nat) : Nat := granOf w i / 16

/-! ## Active elements (R61, R103, R137, R139) -/

/-- The mask operand of a word. -/
def wMask (w : IWord) : Option Nat := if w.getLsbD 7 then some (w.extractLsb' 5 2).toNat else none

/-- The mask admits element `i`. -/
def VecUnit.admits (u : VecUnit) (m : Option Nat) (i : Nat) : Bool :=
  match m with
  | some k => u.mbit k i
  | none => true

/-- The numbers from `a` to `b - 1`. -/
def span (a b : Nat) : List Nat := (List.range (b - a)).map (· + a)

/-- A lane-group counter. -/
def lgAt (v : Vector Nat 4) (g : Nat) : Nat := v.toList.getD g 0

/-- The active elements of a word, in order. -/
def VecUnit.active (u : VecUnit) (c : Convoy) (m : Option Nat) : List Nat := (span c.vstart c.vl).filter (u.admits m)

/-- The active elements that are still to be performed: those at or above the counter of their lane group (R139). -/
def VecUnit.pending (u : VecUnit) (c : Convoy) (m : Option Nat) (w : Nat) : List Nat :=
  (u.active c m).filter (fun i => decide (lgAt c.lgp (lgOf w i) ≤ i))

/-! ## The history ring (R292) -/

/-- What a history entry records beside the word. -/
structure Hist where
  event : Nat
  vl : Nat
  active : Nat
  first : Nat
  last : Nat
deriving DecidableEq, Repr

/-- The lowest and the highest address of a list of accesses of `n` bytes; 0 for none. -/
def spanOf (n : Nat) (l : List Word) : Nat × Nat :=
  match l with
  | [] => (0, 0)
  | a :: r => r.foldl (fun p x => (Nat.min p.1 x.toNat, Nat.max p.2 (x.toNat + n - 1))) (a.toNat, a.toNat + n - 1)

/-- Writes the history entry of the word at hand. -/
def State.history (s : State) (w : IWord) (c : Convoy) (h : Hist) : State :=
  s.ringWrite (s.gts.toNat + 2 ^ 64 * s.insPc.toNat + 2 ^ 128 * h.first + 2 ^ 192 * h.last + 2 ^ 256 * h.vl
    + 2 ^ 288 * h.active + 2 ^ 320 * s.me.source + 2 ^ 336 * c.et + 2 ^ 344 * h.event + 2 ^ 352 * w.toNat)

/-! ## Issue -/

/-- A pending V load writes one of a list of groups, or, when the word uses scales, a scale register (R91). -/
def State.vBusy (s : State) (gs : List Grp) (scales : Bool) : Bool :=
  s.me.vops.any fun o =>
    match o.kind with
    | .load pos w => gs.any (fun g =>
        (s.vu.regsOf pos w).any (fun r => decide (g.reg ≤ r) && decide (r < g.reg + g.n)))
    | .scale _ _ => scales
    | _ => false

/-- The words that take an entry of the flight table while they are in flight: those that a pre-emption may stop part way (R168,
R170, R278). -/
def takesEntry (w : IWord) : Bool :=
  match wMaj w with
  | 0x20 => false
  | 0x2A => false
  | 0x2B => !(wFn5 w = 5 || wFn5 w = 6 || wFn5 w = 7 || wFn5 w = 9)
  | m => 0x21 ≤ m && m ≤ 0x30

/-- The x registers whose values a vector word captures at issue: its address or scalar, and its auxiliary operand (R278). -/
def xSources (w : IWord) : List RegNo :=
  match wMaj w with
  | 0x21 => if wFn5 w = 1 || wFn5 w = 4 || wFn5 w = 5 then [wV1 w, wV2 w] else [wV1 w]
  | 0x22 => if wFn5 w = 1 || wFn5 w = 5 then [wV1 w, wV2 w] else [wV1 w]
  | 0x2B => if wFn5 w ≤ 3 then [wV1 w] else []
  | 0x2F => if wFn5 w = 2 || wFn5 w = 3 then [wV1 w] else []
  | m => if m = 0x23 || m = 0x25 || m = 0x28 || m = 0x2E then [wV1 w] else []

/-- The registers that hold the hyperparameters of a `vupd` word (R178). -/
def hyperRegs : List RegNo := [16#5, 17#5, 18#5, 19#5, 20#5, 21#5, 22#5]

/-- Puts the convoy at its next member (R42); a word that runs again leaves it where it is. -/
def State.inConvoy (s : State) (c : Convoy) : State :=
  if s.held.isSome || (s.me.resumeAt.isSome && s.me.conv.isSome) then s
  else { s with me := { s.me with conv := some { c with next := s.me.x.pc + 4 } } }

/-- Writes `vstart` and the lane-group counters; a change of `vstart` sets bit 32 of `vdirty` (R58). -/
def VecUnit.setStart (u : VecUnit) (k : Nat) (l : Vector Nat 4) : VecUnit :=
  { u with vstart := k, lgp := l, dirty := if u.vstart = k then u.dirty else u.dirty ||| 0x100000000 }

/-- What a vector word leaves. One that would trap behind a word that has stopped, or trapped, before it does nothing, and executes
again later (R273). One that traps with others in flight behind it waits with its trap until they have stopped (R274). -/
def State.vfinish (s : State) (w : IWord) (r : Res) : State :=
  match r with
  | .trap t u =>
    if s.me.stopping then s
    else if s.thr == .x && s.cur.priv == .u && !s.me.resuming && s.me.resumeAt.isNone && s.me.xstate.getLsbD 0 && !s.me.ahead.isEmpty then
      let c := s.cap w
      let f : Flight :=
        { pc := t.tepc, word := w, thread := .x, order := 0, rm := 0, lscale := 0, progress := u.vu.vstart, len := c.vl,
          op0 := c.vtype, op1 := 0, op2 := 0, lgp := u.vu.lgp }
      let v := s.inConvoy c
      { u with
        vu := u.vu.setStart 0 (Vector.replicate 4 0)
        me := { u.me with conv := v.me.conv, x := { u.me.x with pc := t.tepc + 4, wait := .none }, stop := s.me.ahead, stopping := true,
                          ahead := [], ending := some (.trap t f u.me.conv) } }
    else u.takeTrap t
  | r => r.state

/-- Runs a checked vector word: a failing check traps, with its history entry (R110, R292). -/
def vperform (w : IWord) (s : State) (body : State → Res) : Out :=
  match checks w s with
  | some (cause, sub, v) =>
    let c := s.cap w
    let h : Hist := { event := 1, vl := c.vl, active := (s.vu.active c (wMask w)).length, first := 0, last := 0 }
    .next (if s.me.stopping then s else (s.history w c h).takeTrap (s.trapAt cause sub (v.zeroExtend 64)))
  | none => .next (s.vfinish w (body s))

/-- The vector word as it issues: the captured type state, and the values of its x registers, which for a word that runs
again are those its flight-table entry holds (R278). The body gets the state after the pops; traps and stalls go back to
`s`. -/
def vecOp (w : IWord) (xs : List RegNo) (dst : Option RegNo) (s : State) (body : State → Convoy → Word → Word → Res) : Out :=
  vperform w s fun s0 =>
    let c := s0.cap w
    let sh := shape w c.et c.g
    let scales := sh.scaled || (wMaj w == 0x31 && wFn5 w == 3)
    if s0.vBusy sh.groups scales then .stall .operand s0
    else
      match s0.held with
      | some f => if s0.me.assists != 0 then .stall .operand s0 else body s0 c f.op1 f.op2
      | none =>
        match (if takesEntry w && !s0.flightRoom then .stall .queue else s0.gate xs dst : Chk Unit) with
        | .stall k => .stall k s0
        | .trap cause sub v =>
          .trap (s0.trapAt cause sub v)
            (s0.history w c { event := 1, vl := c.vl, active := (s0.vu.active c (wMask w)).length, first := 0, last := 0 })
        | .ok _ =>
          match xs with
          | [] => body (s0.inConvoy c) c 0 0
          | [a] => body ((s0.inConvoy c).take a).2 c ((s0.inConvoy c).take a).1 0
          | a :: b :: _ =>
            let p := (s0.inConvoy c).take a
            let q := p.2.take b
            body q.2 c p.1 q.1

/-! ## Retirement, traps and stops -/

/-- ORs flags into `fcsr`, with `vrbw` when a marked register was read (R51, R62). -/
def State.raise (s : State) (f : FF) (vrbw : Bool) : State :=
  { s with me := { s.me with fcsr := orFlags s.me.fcsr f ||| (if vrbw then 0x200 else 0) } }

/-- The hyperparameter in register `r` of the word at hand: as read at its first issue, where it runs again (R178, R278). -/
def State.hyper (s : State) (r : RegNo) : Word := (s.note.map (fun k => k.extra.getD (r.toNat - 16) (s.me.x.reg r))).getD (s.me.x.reg r)

/-- An entry of the flight table that a word of a handler left, in S mode (log entry 42). -/
def State.systemEntry (s : State) (f : Flight) : Bool := s.me.stopped.any (fun k => k.pc == f.pc && k.system)

/-- Leaves the word at hand behind: the next entry of the flight table that runs now, or, after the last, the fetch address; else
PC + 4. The entries that stand behind those of a handler run after its return (R274). -/
def State.leave (s : State) : State :=
  match s.held with
  | some f =>
    { s with vu := { s.vu with flight := s.vu.flight.tail }
             me := { s.me with resuming := (s.vu.flight.tail.head?.map (fun g => s.systemEntry g == (s.me.x.priv == .s))).getD false
                               x := { s.me.x with wait := .none }
                               stopped := s.me.stopped.eraseP (fun k => k.pc == f.pc) } }
  | none =>
    let t := s.retire
    if s.cur.priv == .u then { t with me := { t.me with restarts := none } } else t

/-- A vector word retires: `vstart` and the counters become 0 (R61, R139). -/
def State.vretire (s : State) (w : IWord) (c : Convoy) (h : Hist) : State :=
  let s1 := s.history w c h
  ({ s1 with vu := s1.vu.setStart 0 (Vector.replicate 4 0) }).leave

/-- The plain history of a word that retires. -/
def State.ran (s : State) (c : Convoy) (m : Option Nat) : Hist :=
  { event := 0, vl := c.vl, active := (s.vu.active c m).length, first := 0, last := 0 }

/-- A precise trap of a vector word in the state it began in, with its history entry (R273, R292). -/
def State.vtrap (s : State) (w : IWord) (c : Convoy) (cause sub : Nat) (tval : Word) : Res :=
  .trap (s.trapAt cause sub tval)
    (s.history w c { event := 1, vl := c.vl, active := (s.vu.active c (wMask w)).length, first := 0, last := 0 })

/-- Illegal-instruction sub-code 6 of a vector word (R113). -/
def State.vsix (s : State) (w : IWord) (c : Convoy) : Res := s.vtrap w c 0x01 6 (w.zeroExtend 64)

/-- The element of lane group `g` that a stop at `l` names begins a granule and the part of a beat that the group works on, or is the
end (R31). -/
def stopAt (w vl l g : Nat) : Bool :=
  decide (vl ≤ l) ||
  (w * l % 128 == 0 && lgOf w l == g && (l == 0 || lgOf w (l - 1) != g || beatOf w (l - 1) != beatOf w l))

/-- The beats of a stop differ by at most 2, or not at all for a `vsxo` (R31, R142). -/
def slipOk (wd : IWord) (w vl : Nat) (l : Vector Nat 4) : Bool :=
  let b := l.toList.map (fun x => beatOf w (Nat.min x (vl - 1)))
  let slip := if wMaj wd = 0x22 && wFn5 wd = 4 then 0 else 2
  b.all (fun x => b.all (fun y => decide (x ≤ y + slip)))

/-- A word whose work on an element needs nothing but that element of its operands (R277). -/
def lanewise (w : IWord) : Bool :=
  match wMaj w with
  | 0x21 => wFn5 w ≤ 4
  | 0x22 => wFn5 w ≤ 5
  | 0x23 => true
  | 0x29 => wFn5 w ≤ 4
  | 0x2C => wFn5 w ≤ 3 || 7 ≤ wFn5 w
  | 0x2F => wFn5 w = 0 || wFn5 w = 3
  | m => (0x24 ≤ m && m ≤ 0x28) || m = 0x2D || m = 0x2E

/-- Ranges of bits of the register file, and of the mask registers one after another, as two numbers with those bits set. -/
structure Cover where
  regs : Nat
  masks : Nat
deriving DecidableEq, Repr

/-- `n` bits from `pos` on. -/
def bitRun (pos n : Nat) : Nat := (2 ^ n - 1) * 2 ^ pos

/-- The union of two covers. -/
def Cover.join (a b : Cover) : Cover := { regs := Nat.lor a.regs b.regs, masks := Nat.lor a.masks b.masks }

/-- Two covers share a bit. -/
def Cover.meets (a b : Cover) : Bool := Nat.land a.regs b.regs != 0 || Nat.land a.masks b.masks != 0

/-- The width of the elements of a group of `n` registers of a word whose groups have `g` registers of elements of `w` bits: for a
conversion that of its source or destination type. -/
def groupWidth (wd : IWord) (c : Convoy) (k : Grp) : Nat :=
  match (if wMaj wd = 0x29 then cvtPair wd c.et else none) with
  | some (src, dst) => etypeWidth (if k.dst then dst else src)
  | none => if k.n = k.align then c.w * k.n / c.g else c.w

/-- The bits that a lane-wise word touches for element `i`: of all its operands, or of its destinations alone. -/
def elemCover (wd : IWord) (c : Convoy) (u : VecUnit) (dst : Bool) (i : Nat) : Cover :=
  let sh := shape wd c.et c.g
  let one (k : Grp) : Nat :=
    let w := groupWidth wd c k
    (List.range (if k.n = k.align then 1 else k.n / k.align)).foldl (fun a j => Nat.lor a (bitRun (u.pos (k.reg + j * k.align) w i) w)) 0
  let bit (m : Nat) : Nat := bitRun (131072 * m + i) 1
  let ms := if dst then (if (wMaj wd = 0x2C || wMaj wd = 0x2D || wMaj wd = 0x2E) then [(wVd wd).toNat] else [])
            else sh.masks.map (·.toNat) ++ (wMask wd).toList
  { regs := (sh.groups.filter (fun k => !dst || k.dst)).foldl (fun a k => Nat.lor a (one k)) 0
    masks := ms.foldl (fun a m => Nat.lor a (bit m)) 0 }

/-- The bits of a list of elements, and of the tail beyond `vl` where it is filled. -/
def wordCover (wd : IWord) (c : Convoy) (u : VecUnit) (dst : Bool) (is : List Nat) (tail : Bool) : Cover :=
  let a := is.foldl (fun a i => a.join (elemCover wd c u dst i)) { regs := 0, masks := 0 }
  if tail && c.tfill then
    let sh := shape wd c.et c.g
    { regs := (sh.groups.filter (·.dst)).foldl (fun r k =>
        let p := u.pos k.reg (groupWidth wd c k) c.vl
        Nat.lor r (bitRun p (regBits u.vcfg * (k.reg + k.n) - p))) a.regs
      masks := if dst && sh.groups.all (!·.dst) then Nat.lor a.masks (bitRun (131072 * (wVd wd).toNat + c.vl) (131072 - c.vl)) else a.masks }
  else a

/-- A word that reads or writes the noise residues (R73). -/
def shapes (wd : IWord) (rm : Nat) : Bool := rm = 4 && wMaj wd = 0x29

/-- A word behind one that has stopped, or has trapped, may have done elements of its own, where no element of the other that is
still to do touches what they touch, but that both read it (R277); two words of one memory class do not, nor two that shape noise. -/
def Flight.lets (f : Flight) (w : IWord) (c : Convoy) (u : VecUnit) (ef ew : Nat) (l : Vector Nat 4) : Bool :=
  let cf : Convoy := { c with vtype := f.op0, vl := f.len, vstart := 0, lgp := f.lgp, fcsr := f.rm.zeroExtend 64 }
  let memory (v : IWord) : Bool := wMaj v = 0x21 || wMaj v = 0x22
  let undone := (span 0 f.len).filter (fun i => decide (lgAt f.lgp (lgOf ef i) ≤ i))
  let done := (span c.vstart c.vl).filter (fun i => decide (lgAt c.lgp (lgOf ew i) ≤ i) && decide (i < lgAt l (lgOf ew i)))
  lanewise f.word && lanewise w && !(memory f.word && memory w) && !(wMaj f.word = 0x23 && wMaj w = 0x23) &&
  !(shapes f.word cf.rm && shapes w c.rm) &&
  !(wordCover w c u false done false).meets (wordCover f.word cf u true undone true) &&
  !(wordCover w c u true done false).meets (wordCover f.word cf u false undone true)

/-- The width of the elements by which a lane-wise word is placed on the lanes. -/
def laneWidth (wd : IWord) (c : Convoy) : Nat :=
  match (shape wd c.et c.g).groups.find? (·.dst) with
  | some k => groupWidth wd c k
  | none => c.w

/-- The words before the one at hand that have stopped or trapped: their entries. -/
def State.earlier (s : State) : List Flight :=
  (match s.me.ending with | some (.trap _ f _) => [f] | _ => []) ++ s.vu.flight

/-- Where a pre-emption stops the word at hand, counter by counter, if one does: what the pre-emption names, never below
what is done, or, where no word could stop there, what is done (R276, R277). A word behind one that has stopped leaves something to do,
since it must not retire before that (R273). -/
def State.stopOf (s : State) (w : IWord) (c : Convoy) (ew : Nat) : Option (Vector Nat 4) :=
  match s.me.stop with
  | [] => none
  | l :: _ =>
    let low (g : Nat) : Nat := Nat.max c.vstart (lgAt c.lgp g)
    let free := !s.me.stopping ||
      (l.toList.any (fun k => decide (k < c.vl)) && s.earlier.all (fun f =>
        f.lets w c s.vu (laneWidth f.word { c with vtype := f.op0 }) ew l))
    let ok := (List.range 4).all (fun g => stopAt ew c.vl (lgAt l g) g) && slipOk w ew c.vl l && free
    some (Vector.ofFn (fun g => if ok then Nat.max (low g.val) (Nat.min (lgAt l g.val) c.vl) else low g.val))

/-- No progress. -/
def noLanes : Vector Nat 4 := Vector.replicate 4 0

/-- The place in the flight table of the word at hand, which has no entry yet: before the entries that follow it, if it is the
instruction that a return restarts, and, in a handler, before those of the interrupted code (R274); else last. -/
def State.entryPlace (s : State) : Nat :=
  if s.me.x.priv == .s then (s.vu.flight.takeWhile s.systemEntry).length
  else if s.me.resumeAt.isSome then 0 else s.vu.flight.length

/-- The registers that the word at hand has written in earlier parts (R51). -/
def State.unmarked (s : State) : BitVec 32 := (s.note.map (·.marks)).getD 0

/-- Some marked register of the destinations keeps an element: with the marks and the `vstart` that stood as the word first issued (R51). -/
def State.keepsMarked (s : State) (keeps : VecUnit → Convoy → Bool) (c : Convoy) : Bool :=
  keeps { s.vu with marks := s.vu.marks ||| s.unmarked } { c with vstart := (s.note.map (·.start)).getD c.vstart }

/-- The word at hand stops part way: its entry joins the flight table. The counters of the oldest entry stay in view (R307), and
the X-thread waits for the pre-emption, unless a word behind is in flight too (R276-R278). `o` is the state in which it issued. -/
def State.partWay (s o : State) (w : IWord) (c : Convoy) (x y : Word) (l : Vector Nat 4) (h : Hist) : State :=
  let s1 := s.history w c { h with event := 3 }
  let f : Flight :=
    { pc := s.insPc, word := w, thread := .x, order := 0, rm := BitVec.ofNat 3 c.rm, lscale := c.lscale.extractLsb' 0 8,
      progress := l.toList.foldl Nat.min (lgAt l 0), len := c.vl, op0 := c.vtype, op1 := x, op2 := y, lgp := l }
  let more := s.held.isNone && s.me.resumeAt.isNone && decide (1 < s.me.stop.length)
  let n := s.entryPlace
  let flight := match s.held with | some _ => f :: s1.vu.flight.tail | none => s1.vu.flight.take n ++ f :: s1.vu.flight.drop n
  let shown := if more then noLanes else ((flight.head?).map (·.lgp)).getD noLanes
  let marks := o.unmarked ||| (o.vu.marks &&& ~~~s.vu.marks)
  let note : Stopped :=
    { pc := s.insPc, ins := o.insNo, extra := hyperRegs.map o.hyper, marks := marks, start := (o.note.map (·.start)).getD c.vstart,
      system := s.me.x.priv == .s, kv := none }
  let stopped := match s.held with
    | some _ => s1.me.stopped.map (fun k => if k.pc == note.pc then note else k)
    | none => s1.me.stopped ++ [note]
  let pc := match s.held with | some _ => s1.me.x.pc | none => s1.me.resumeAt.getD (s1.me.x.pc + 4)
  { s1 with
    vu := { s1.vu.setStart 0 shown with flight := flight }
    me := { s1.me with x := { s1.me.x with pc := pc, wait := if more then .none else .stopped }
                       stop := if more then s.me.stop.tail else [noLanes], stopping := more
                       stopped := stopped, restarts := if o.held.isNone && o.note.isSome then none else s1.me.restarts, resumeAt := none } }

/-! ## Element work (R149-R151, R168) -/

/-- What an element's computation gives: bits to write, a mask bit, a scale (its register, its number, its value), flags,
whether its granule takes an assist, the new residue of its lane, and the bits of the register file it read. -/
structure ElRes where
  writes : List (Nat × Nat × Nat)
  bit : Option Bool
  scale : Option (Nat × Nat × Nat)
  ff : FF
  sub : Bool
  ns : Option Nat
  reads : List (Nat × Nat)

/-- An element that writes one value. -/
def ElRes.val (pos w v : Nat) (reads : List (Nat × Nat)) : ElRes :=
  { writes := [(pos, w, v)], bit := none, scale := none, ff := 0, sub := false, ns := none, reads := reads }

/-- A destination group: first register, registers, element width and element type. -/
structure Dst where
  reg : Nat
  n : Nat
  w : Nat
  et : Nat
deriving DecidableEq, Repr

/-- A word that works element by element: the width that places its elements on lanes, the mask that says which are
active, its destinations, its mask destination, whether it runs to retirement, and the granule of an element that an
assist marks (R77). -/
structure Plan where
  w : Nat
  mask : Option Nat
  dsts : List Dst
  mdst : Option Nat
  whole : Bool
  gran : Nat → Nat
  body : VecUnit → Nat → Nat → ElRes

/-- What the elements done so far have left. -/
structure Tally where
  u : VecUnit
  ff : FF
  vrbw : Bool
  grans : List Nat

/-- Does one element: the body reads the registers as they stood at decode, and the residue as it stands. -/
def Plan.step (p : Plan) (u0 : VecUnit) (a : Tally) (i : Nat) : Tally :=
  let l := laneOf p.w i
  let r := p.body u0 (a.u.residue l) i
  let u1 := r.writes.foldl (fun u x => u.put x.1 x.2.1 x.2.2) a.u
  let u2 := match p.mdst, r.bit with
    | some k, some b => u1.setMbit k i b
    | _, _ => u1
  let u3 := match r.scale with
    | some (k, j, v) => u2.setScale k j v
    | none => u2
  { u := match r.ns with
      | some v => { u3 with ns := u3.ns.setIfInBounds l (BitVec.ofNat 32 v) }
      | none => u3
    ff := a.ff ||| r.ff
    vrbw := a.vrbw || r.reads.any (fun x => u0.marked x.1 x.2)
    grans := if r.sub && !a.grans.contains (p.gran i) then p.gran i :: a.grans else a.grans }

/-- Elements that a group has room for. -/
def Dst.count (d : Dst) (vcfg : BitVec 2) : Nat := regBits vcfg * d.n / d.w

/-- Register `k` of a destination keeps an element undisturbed (R51, R150): one below `vstart`, a masked-off one, or one
of the tail; an element of 6 bits may lie in two registers. -/
def Dst.keeps (d : Dst) (u : VecUnit) (c : Convoy) (m : Option Nat) (k : Nat) : Bool :=
  let b := regBits u.vcfg
  let lo := k * b / d.w
  let hi := Nat.min (((k + 1) * b + d.w - 1) / d.w) (d.count u.vcfg)
  decide (lo < c.vstart) || (!c.tfill && decide (c.vl < hi)) ||
  (!c.mfill && (span (Nat.max lo c.vstart) (Nat.min hi c.vl)).any (fun i => !u.admits m i))

/-- Some destination register that keeps an element is marked. -/
def Dst.readsMarked (d : Dst) (u : VecUnit) (c : Convoy) (m : Option Nat) : Bool :=
  (List.range d.n).any (fun k => u.marks.getLsbD (d.reg + k) && d.keeps u c m k)

/-- Fills elements of a destination. -/
def Dst.fill (d : Dst) (is : List Nat) (u : VecUnit) : VecUnit :=
  is.foldl (fun v i => v.put (v.pos d.reg d.w i) d.w (fillValue d.et)) u

/-- The masked-off elements that are filled, up to a limit of each lane group. -/
def VecUnit.maskedOff (u : VecUnit) (c : Convoy) (m : Option Nat) (w : Nat) (l : Vector Nat 4) : List Nat :=
  if c.mfill && m.isSome then
    (span c.vstart c.vl).filter (fun i => !u.admits m i && decide (i < lgAt l (lgOf w i)))
  else []

/-- Clears mask bits: those of a list, and those from `a` to `b - 1` (R52, R150). -/
def VecUnit.clearMbits (u : VecUnit) (k : Nat) (is : List Nat) : VecUnit := is.foldl (fun v i => v.setMbit k i false) u
def VecUnit.clearSpan (u : VecUnit) (k a b : Nat) : VecUnit :=
  let m := u.masks.toList.getD k 0
  { u with masks := u.masks.setIfInBounds k (m &&& ~~~(BitVec.ofNat 131072 ((2 ^ (b - a) - 1) * 2 ^ a))) }

/-- Everything that a plan's elements leave, up to a limit of each lane group; `tail` says that the tail is filled. -/
def Plan.run (p : Plan) (u0 : VecUnit) (c : Convoy) (l : Vector Nat 4) (tail : Bool) : Tally :=
  let m := p.mask
  let is := (u0.pending c m p.w).filter (fun i => decide (i < lgAt l (lgOf p.w i)))
  let a := is.foldl (p.step u0) { u := u0, ff := 0, vrbw := false, grans := [] }
  let off := u0.maskedOff c m p.w l
  let u1 := p.dsts.foldl (fun u d => d.fill off u) a.u
  let u2 := if tail && c.tfill then p.dsts.foldl (fun u d => d.fill (span c.vl (d.count u.vcfg)) u) u1 else u1
  let u3 := match p.mdst with
    | none => u2
    | some k =>
      let u := u2.clearMbits k off
      if tail && c.tfill then u.clearSpan k c.vl (vlmax u.vcfg c.w c.g) else u
  { a with u := u3 }

/-- The stop of the word at hand, unless it leaves nothing undone (R276, R277). -/
def State.limits (s : State) (w : IWord) (c : Convoy) (ew : Nat) : Option (Vector Nat 4) :=
  match s.stopOf w c ew with
  | none => none
  | some l => if !s.me.stopping && l.toList.all (fun k => decide (c.vl ≤ k)) then none else some l

/-- Runs a plan: with `vl` at or below `vstart` it writes nothing (R61); a pre-emption may stop it part way; otherwise it
does every element and retires, with the assists it needs outstanding (R77). -/
def State.runPlan (s : State) (w : IWord) (c : Convoy) (x y : Word) (p : Plan) : State :=
  let h := s.ran c p.mask
  if c.vl ≤ c.vstart then s.vretire w c h
  else
    match (if p.whole then none else s.limits w c p.w) with
    | none =>
      let a := p.run s.vu c (Vector.replicate 4 c.vl) true
      let kept := s.keepsMarked (fun u k => p.dsts.any (fun d => d.readsMarked u k p.mask)) c
      let s1 := ({ s with vu := a.u }.raise a.ff (a.vrbw || kept))
      ({ s1 with me := { s1.me with assists := s1.me.assists + a.grans.length } }).vretire w c h
    | some l =>
      let a := p.run s.vu c l false
      let s1 := ({ s with vu := a.u }.raise a.ff a.vrbw)
      ({ s1 with me := { s1.me with subn := s1.me.subn + BitVec.ofNat 64 a.grans.length } }).partWay s w c x y l h

/-- A word that works element by element and takes no trap of its own. -/
def planOp (w : IWord) (xs : List RegNo) (s : State) (mk : State → Convoy → Word → Plan) : Out :=
  vecOp w xs none s fun s1 c x y => .done (s1.runPlan w c x y (mk s1 c x))

/-- SUBNORMAL_ASSIST (R77): the cluster control core completes one marked granule of the strand at hand. -/
def execSubnormalAssist (s : State) : Out :=
  if s.me.assists = 0 then .next s
  else .next { s with me := { s.me with assists := s.me.assists - 1, subn := s.me.subn + 1 } }

end Sys2Proof.Machine
end

