-- ==== Sys2Proof/Machine/VMem.lean ====
section
/-!
DEFINITION. Vector memory (R136-R148): the accesses of VLD and VST words, fault-only-first loads (R138), store traps
(R139), the lane store (R144) and `vlkv` (R145-R148); and the transition that performs a pending V operation (R91).
-/

namespace Sys2Proof.Machine

/-! ## Accesses (R136) -/

/-- One element access: its element, its address, the bytes it touches, the first bit of the first byte, its width, and
the place of its data in the register file (or, for a scale word, its scale). -/
structure Access where
  i : Nat
  va : Word
  n : Nat
  bit : Nat
  w : Nat
  pos : Nat
deriving DecidableEq, Repr

/-- Where a V access goes: a place, and the place of its second byte where it straddles a page end. -/
abbrev VPlace := Place × Option Place

/-- The location that a read of the vector word at hand reaches at a place (R95). -/
def State.vLoc (s : State) (p : Place) : Loc :=
  match p.twin with
  | some (n, l1) => if s.sideFor .vload (s.surfRec s.me.ctx n) then l1 else p.loc
  | none => p.loc

/-- The bytes of a V access are poisoned. -/
def State.vPoisoned (s : State) (p : VPlace) (n : Nat) : Bool :=
  match p.2 with
  | none => s.poisonedAt (s.vLoc p.1) n
  | some q => s.poisonedAt (s.vLoc p.1) 1 || s.poisonedAt (s.vLoc q) 1

/-- The place of one byte of a V access; the scratchpad window is protected (R136). -/
def State.vBytePlace (s : State) (va : Word) (acc : Acc) : Chk (Place × State) :=
  if inWindow va then .trap 0x06 0 va else s.memPlace va acc s.cur.priv

/-- The checks of one element access, in the order of R273: alignment, translation, protection, poison. A fault of the second
page of a straddling access names it by the address of its byte. -/
def State.vecPlace (s : State) (va : Word) (n align : Nat) (store : Bool) : Chk (VPlace × State) :=
  let acc : Acc := if store then .vstore else .vload
  let clean (r : VPlace) (t : State) : Chk (VPlace × State) :=
    if !store && t.vPoisoned r n then .trap 0x09 0 va else .ok (r, t)
  if va.toNat % align ≠ 0 then .trap 0x03 0 va
  else if n ≤ 1 || va.toNat % 65536 + n ≤ 65536 then
    (s.vBytePlace va acc).bind fun (p, s1) => clean (p, none) s1
  else
    match s.vBytePlace va acc, s.vBytePlace (va + 1) acc with
    | .trap 0x06 _ _, .trap 0x04 sub t => .trap 0x04 sub t
    | .trap 0x06 _ _, .trap 0x05 sub t => .trap 0x05 sub t
    | first, _ => first.bind fun (p, s1) => (s1.vBytePlace (va + 1) acc).bind fun (q, s2) => clean (p, some q) s2

/-- What the examination of a list of accesses gives: the state, with the translations it cached; the accesses that may
be made; those that fault, with their causes and the bytes that fault; and what the instruction must wait for. -/
structure Scan where
  s : State
  good : List (Access × VPlace)
  bad : List (Access × Nat × Word)
  wait : Option Wait

/-- Examines accesses in order; a load goes no further than its first fault (R138, R139). DESIGN CHOICE (log entry 117): of a segment
element the first field that faults reports. -/
def scanAll (align : Nat) (store : Bool) : List Access → Scan → Scan
  | [], r => r
  | a :: l, r =>
    match r.s.vecPlace a.va a.n align store with
    | .ok (p, s1) => scanAll align store l { r with s := s1, good := r.good ++ [(a, p)] }
    | .trap c _ t =>
      let r' := { r with bad := r.bad ++ [(a, c, t)] }
      if store then scanAll align store l r' else r'
    | .stall w => { r with wait := some w }

/-- The first address of a page. -/
def pageOf (va : Word) : Nat := va.toNat / 65536 * 65536

/-- The pages of a list of accesses, each with a place in it. -/
def placesOf (l : List (Access × VPlace)) : List (Nat × Place) :=
  l.flatMap (fun x => (pageOf x.1.va, x.2.1) :: (x.2.2.map (fun q => (pageOf (x.1.va + 1), q))).toList)

/-- Counts one access for each distinct page of a list of accesses, but those counted before (R300). -/
def State.countFresh (s : State) (seen : List Nat) (l : List (Access × VPlace)) : State :=
  let ps := placesOf l
  ((dedupNat (ps.map (·.1))).filter (fun k => !seen.contains k)).foldl (fun t k =>
    match ps.find? (fun x => x.1 == k) with
    | some x => t.countPlace (t.vLoc x.2) (BitVec.ofNat 64 k) t.me.source
    | none => t) s

/-- Counts one access for each distinct page of a list of accesses (R300). -/
def State.countPages (s : State) (l : List (Access × VPlace)) : State := s.countFresh [] l

/-- The masked scatter of R140: the accessed bit of every page of a list of accesses that are made, and for a store the dirty bit,
before the instruction retires or traps (R298). DESIGN CHOICE (log entry 119): of a twin surface, the pages of both sides. -/
def State.scatter (s : State) (store : Bool) (l : List (Access × VPlace)) : State :=
  (dedupNat ((placesOf l).flatMap (fun x => x.2.pte.toList ++ x.2.alt.toList))).foldl
    (fun t p => t.orPte p (if store then 192 else 64)) s

/-- Operations enter the V pipe, in order (R91). -/
def State.enterOps (s : State) (ordered : Bool) (l : List (VKind × Access × VPlace)) : State :=
  let ops := l.zipIdx.map (fun e =>
    { id := s.me.vnext + e.2, ins := s.insNo, pc := s.insPc, kind := e.1.1, va := e.1.2.1.va, place := e.1.2.2.1,
      far := e.1.2.2.2, bit := e.1.2.1.bit, elem := e.1.2.1.i, ordered := ordered, hold := s.me.vhold, fence := s.me.vfence : VOp })
  { s with me := { s.me with vops := s.me.vops ++ ops, vnext := s.me.vnext + l.length, vins := Nat.max s.me.vins (s.insNo + 1) } }

/-- The operations of a list of accesses enter the V pipe in element order (R91). -/
def State.enterV (s : State) (kind : Access → VKind) (ordered : Bool) (l : List (Access × VPlace)) : State :=
  s.enterOps ordered (l.map (fun x => (kind x.1, x)))

/-- Takes back what issue did to queues and to the convoy, for a word that will issue again. DESIGN CHOICE (log entry 100): the
entries that it popped are in their queues again, and it pops them when it issues again. -/
def State.unissue (s o : State) : State :=
  { s with me := { s.me with queues := o.me.queues, conv := o.me.conv, ahold := o.me.ahold, vhold := o.me.vhold } }

/-- The history of an access list. -/
def histOf (h : Hist) (event : Nat) (l : List (Access × VPlace)) : Hist :=
  let p := spanOf 1 (l.map (fun x => x.1.va))
  let q := spanOf 1 (l.map (fun x => x.1.va + BitVec.ofNat 64 (x.1.n - 1)))
  { h with event := event, first := p.1, last := q.2 }

/-! ## Loads (R138) -/

/-- What a load leaves in the registers at issue: the registers it loads are written, the masked-off elements below
`vl` and, at its end, the tail are filled where they are filled. At its end a marked register that keeps an element is noted
(R51). -/
def State.loadRegs (s : State) (c : Convoy) (m : Option Nat) (w : Nat) (dsts : List Dst) (l : List (Access × VPlace))
    (lim : Vector Nat 4) (ends : Bool) : State :=
  let u0 := s.vu
  let u1 := u0.touch (dedupNat (l.flatMap (fun x => u0.regsOf x.1.pos x.1.w)))
  let off := u0.maskedOff c m w lim
  let u2 := dsts.foldl (fun u d => d.fill off u) u1
  let u3 := if ends && c.tfill then dsts.foldl (fun u d => d.fill (span c.vl (d.count u.vcfg)) u) u2 else u2
  ({ s with vu := u3 }).raise 0 (ends && s.keepsMarked (fun u k => dsts.any (fun d => d.readsMarked u k m)) c)

/-- A convoy member's type state with the tail left alone, as a trim leaves it (R138). -/
def Convoy.trimmed (c : Convoy) (vl : Nat) : Convoy := { c with vl := vl, vtype := c.vtype &&& ~~~0x80#64 }

/-- The trim of R138: `vl` becomes the first element that is not loaded. -/
def State.trim (s : State) (vl : Nat) : State := { s with vu := { s.vu with vl := vl, dirty := s.vu.dirty ||| 0x100000000 } }

/-- The trap of a load at its first element: nothing is done, and `vstart` and the counters name the element (R138). -/
def State.loadTrap (s o : State) (w : IWord) (c : Convoy) (h : Hist) (b : Access) (cause : Nat) : Res :=
  let t := (s.unissue o).history w c { h with event := 1, first := b.va.toNat, last := b.va.toNat + b.n - 1 }
  .trap (o.trapAt cause 0 b.va) { t with vu := t.vu.setStart b.i (Vector.replicate 4 b.i) }

/-- The greatest stop of lane group `g` at or below element `k`, none below `low`. -/
def stopBelow (w vl g low k : Nat) : Nat := ((span low (k + 1)).reverse.find? (fun l => stopAt w vl l g)).getD low

/-- A stop that leaves elements below a fault undone, held at the fault: no group goes past it (R138, R277). -/
def holdAt (w : Nat) (c : Convoy) (k : Nat) (l : Vector Nat 4) : Vector Nat 4 :=
  Vector.ofFn (fun g =>
    let low := Nat.max c.vstart (lgAt c.lgp g.val)
    Nat.max low (Nat.min (lgAt l g.val) (if lgOf w k == g.val then stopBelow w c.vl g.val low k else k)))

/-- A vector load of a list of accesses, in element order (R138): it traps at its first element, is trimmed at a later
fault, or issues every access; where a pre-emption leaves an element below the fault undone, or an earlier word has stopped, it stops
part way. `o` is the state in which the word began, `s` the one after its operands were read. -/
def State.vload (s o : State) (w : IWord) (c : Convoy) (x y : Word) (ew align : Nat) (dsts : List Dst)
    (accs : List Access) : Res :=
  let m := wMask w
  let h := s.ran c m
  if c.vl ≤ c.vstart then .done (s.vretire w c h)
  else
    let part := s.limits w c ew
    let r := scanAll align false accs { s := s, good := [], bad := [], wait := none }
    let go (c' : Convoy) (l : List (Access × VPlace)) (lim : Vector Nat 4) (ends : Bool) : State :=
      (((r.s.countPages l).scatter false l).loadRegs c' m ew dsts l lim ends).enterV (fun a => .load a.pos a.w) false l
    let below (l : Vector Nat 4) (g : Access × VPlace) : Bool := decide (g.1.i < lgAt l (lgOf ew g.1.i))
    let stop (l : Vector Nat 4) : Res :=
      let good := r.good.filter (below l)
      .done ((go c good l false).partWay s w c x y l (histOf h 3 good))
    match r.wait, r.bad with
    | some k, _ => .stall k (r.s.unissue o)
    | none, (b, cause, _) :: _ =>
      let lower := r.good.filter (fun g => decide (g.1.i < b.i))
      let trims : Res :=
        .done (((go (c.trimmed b.i) lower (Vector.replicate 4 b.i) true).trim b.i).vretire w c { histOf h 2 lower with vl := b.i })
      if some b.i = (accs.head?.map (·.i)) then r.s.loadTrap o w c h b cause
      else
        match part with
        | none => trims
        | some l => if s.me.stopping || lower.any (fun g => !below l g) then stop (holdAt ew c b.i l) else trims
    | none, [] =>
      match part with
      | none => .done ((go c r.good (Vector.replicate 4 c.vl) true).vretire w c (histOf h 0 r.good))
      | some l => stop l

/-! ## Stores (R139) -/

/-- How many beats past its own the lane groups of a trapping store may have gone: a free value for each group, at most
2 beats beyond the one at hand, and none for `vsxo` (R31, R139). -/
def State.slips (s : State) (ordered : Bool) : Vector Nat 4 × State :=
  if ordered then (Vector.replicate 4 0, s)
  else
    let p := s.drawFree
    (#v[bits p.1.toNat 1 0, bits p.1.toNat 3 2, bits p.1.toNat 5 4, bits p.1.toNat 7 6], p.2)

/-- The elements that a store that traps at `k` has committed: those below `k`, and, in the other lane groups, those that
their slip let them reach before a fault of their own (R139). -/
def committedBelow (ew k : Nat) (slip : Vector Nat 4) (bad : List Nat) (i : Nat) : Bool :=
  let g := lgOf ew i
  decide (i < k) ||
  (g != lgOf ew k && decide (beatOf ew i < beatOf ew k + lgAt slip g) && bad.all (fun b => lgOf ew b != g || decide (i < b)))

/-- The first pages of a list of faulting accesses, and whether there are more than 16 (R139, R272). -/
def faultPages (l : List (Access × Nat × Word)) : List Word × Bool :=
  let p := dedupNat (l.map (fun x => pageOf x.2.2))
  ((p.take 16).map (BitVec.ofNat 64), decide (16 < p.length))

/-- A stop that leaves elements below the lowest fault undone: no group goes past its own first fault, nor the group of the lowest
fault past that (R139, R277). -/
def holdStore (w : Nat) (c : Convoy) (bad : List Nat) (l : Vector Nat 4) : Vector Nat 4 :=
  Vector.ofFn (fun g =>
    let low := Nat.max c.vstart (lgAt c.lgp g.val)
    match bad.find? (fun b => lgOf w b == g.val) with
    | some b => Nat.max low (Nat.min (lgAt l g.val) (stopBelow w c.vl g.val low b))
    | none => lgAt l g.val)

/-- A vector store of a list of accesses, in element order: the data is read at issue (log entry 32). It traps at its lowest fault,
unless a pre-emption leaves an element below that undone: then it stops part way (R139, R277). -/
def State.vstore (s o : State) (w : IWord) (c : Convoy) (x y : Word) (ew align : Nat) (ordered : Bool)
    (accs : List Access) : Res :=
  let m := wMask w
  let h := s.ran c m
  if c.vl ≤ c.vstart then .done (s.vretire w c h)
  else
    let part := s.limits w c ew
    let r := scanAll align true accs { s := s, good := [], bad := [], wait := none }
    let bad := r.bad.map (fun e => e.1.i)
    let data (a : Access) : VKind := .store a.w (s.vu.get a.pos a.w)
    let commit (t : State) (l : List (Access × VPlace)) : State :=
      (((t.countPages l).scatter true l).raise 0 (l.any (fun e => s.vu.marked e.1.pos e.1.w))).enterV data ordered l
    let below (l : Vector Nat 4) (g : Access × VPlace) : Bool := decide (g.1.i < lgAt l (lgOf ew g.1.i))
    let stop (l : Vector Nat 4) : Res :=
      let good := r.good.filter (fun g => below l g && !bad.contains g.1.i)
      .done ((commit r.s good).partWay s w c x y l (histOf h 3 good))
    match r.wait, r.bad with
    | some k, _ => .stall k (r.s.unissue o)
    | none, (b, cause, _) :: _ =>
      let traps : Res :=
        let sl := r.s.slips ordered
        let good := r.good.filter (fun g => !bad.contains g.1.i && committedBelow ew b.i sl.1 bad g.1.i)
        let s1 := (commit sl.2 good).unissue o
        let next (g : Nat) : Nat :=
          (((s.vu.pending c m ew).filter (fun i => decide (b.i ≤ i) && lgOf ew i == g && !good.any (fun e => e.1.i == i))).head?).getD c.vl
        let s2 := s1.history w c (histOf h 1 good)
        let pg := faultPages r.bad
        .trap { o.trapAt cause 0 b.va with pages := pg.1, more := pg.2 }
          { s2 with vu := s2.vu.setStart b.i (Vector.ofFn (fun g => next g.val)) }
      match part with
      | none => traps
      | some l => if r.good.any (fun g => decide (g.1.i < b.i) && !below l g) then stop (holdStore ew c bad l) else traps
    | none, [] =>
      match part with
      | none => .done ((commit r.s r.good).vretire w c (histOf h 0 r.good))
      | some l => stop l

/-! ## The accesses of VLD and VST words (R142) -/

/-- An access of a whole element of `w` bits at an address. -/
def wholeAt (i : Nat) (va : Word) (w pos : Nat) : Access := { i := i, va := va, n := w / 8, bit := 0, w := w, pos := pos }

/-- The address of element `i` at a stride. -/
def stridden (base stride : Word) (i : Nat) : Word := base + BitVec.ofNat 64 i * stride

/-- The accesses of a word whose element `i` is at `addr i`. -/
def State.unitAccs (s : State) (w : IWord) (c : Convoy) (r : RegNo) (addr : Nat → Word) : List Access :=
  (s.vu.pending c (wMask w) c.w).map (fun i => wholeAt i (addr i) c.w (s.vu.pos r.toNat c.w i))

/-- The accesses of a segment word: field by field within each element. -/
def State.segAccs (s : State) (w : IWord) (c : Convoy) (r : RegNo) (f : Nat) (base : Word) : List Access :=
  (s.vu.pending c (wMask w) c.w).flatMap (fun i => (List.range f).map (fun j =>
    wholeAt i (base + BitVec.ofNat 64 ((i * f + j) * (c.w / 8))) c.w (s.vu.pos (r.toNat + j * c.g) c.w i)))

/-- The accesses of a sub-byte strip (R76). -/
def State.stripAccs (s : State) (w : IWord) (c : Convoy) (r : RegNo) (base : Word) (o : Nat) : List Access :=
  (s.vu.pending c (wMask w) c.w).map (fun i =>
    let p := o + c.w * i
    { i := i, va := base + BitVec.ofNat 64 (p / 8), n := (p % 8 + c.w + 7) / 8, bit := p % 8, w := c.w,
      pos := s.vu.pos r.toNat c.w i })

/-- The index of element `i` (R142). -/
def State.index (s : State) (r : RegNo) (i : Nat) : Nat := s.vu.elem r.toNat 32 i

/-- The indices read come from a marked register (R51). -/
def State.markedIndex (s : State) (w : IWord) (c : Convoy) (r : RegNo) : State :=
  s.raise 0 ((s.vu.pending c (wMask w) c.w).any (fun i => s.vu.marked (s.vu.pos r.toNat 32 i) 32))

/-- The destination group of a load of the captured type. -/
def loadDst (c : Convoy) (r k : Nat) : Dst := { reg := r + k * c.g, n := c.g, w := c.w, et := c.et }

/-- A load word whose accesses the captured state and its x registers give. -/
def loadOp (w : IWord) (xs : List RegNo) (f : Nat) (align : Convoy → Nat) (s : State)
    (accs : State → Convoy → Word → Word → List Access) : Out :=
  vecOp w xs none s fun s1 c x y =>
    s1.vload s w c x y c.w (align c) ((List.range f).map (loadDst c (wVd w).toNat)) (accs s1 c x y)

/-- A store word. -/
def storeOp (w : IWord) (xs : List RegNo) (align : Convoy → Nat) (ordered : Bool) (s : State)
    (accs : State → Convoy → Word → Word → List Access) : Out :=
  vecOp w xs none s fun s1 c x y => s1.vstore s w c x y c.w (align c) ordered (accs s1 c x y)

/-- The alignment of whole elements, and of strips (R136). -/
def byElem (c : Convoy) : Nat := c.w / 8
def byByte (_ : Convoy) : Nat := 1

/-- A strip word: its bit offset has no bit above bit 2 (R142); with nothing to do it retires first (R61). -/
def stripOp (w : IWord) (xs : List RegNo) (s : State) (go : State → Convoy → Word → Word → List Access → Res) : Out :=
  vecOp w xs none s fun s1 c x y =>
    if c.vl ≤ c.vstart then .done (s1.vretire w c (s1.ran c (wMask w)))
    else if y.extractLsb' 3 61 != 0 then s.vsix w c else go s1 c x y (s1.stripAccs w c (wVd w) x y.toNat)

/-! ## Scales (R143) -/

/-- The accesses of a scale word below an element limit: one byte for each scale whose block holds an element that takes part. -/
def scaleAccs (c : Convoy) (base : Word) (lim : Nat) : List Access :=
  (span (c.vstart / 32) ((lim + 31) / 32)).map (fun k =>
    { i := Nat.max (32 * k) c.vstart, va := base + BitVec.ofNat 64 k, n := 1, bit := 0, w := 8, pos := k })

/-- Where a pre-emption stops a scale word, which it does between blocks: every counter at the first element of the next (R143,
R276). -/
def State.scaleStop (s : State) (w : IWord) (c : Convoy) : Option Nat :=
  (s.limits w c c.w).map (fun l =>
    let k := (l.toList.foldl Nat.min (lgAt l 0)) / 32 * 32
    if k ≤ c.vstart then c.vstart else k)

/-- A scale word whose part below `lim` is done retires, or stops there. -/
def State.scaleEnd (s o : State) (w : IWord) (c : Convoy) (x : Word) (h : Hist) (stop : Option Nat) : Res :=
  match stop with
  | none => .done (s.vretire w c h)
  | some k => .done (s.partWay o w c x 0 (Vector.replicate 4 k) h)

/-- `vlsc` from its accesses: as a load without register destinations; a trim is at a block (R143). -/
def State.scaleLoad (s o : State) (w : IWord) (c : Convoy) (base : Word) : Res :=
  let h := s.ran c none
  if c.vl ≤ c.vstart then .done (s.vretire w c h)
  else
    let stop := s.scaleStop w c
    let accs := if stop = some c.vstart then [] else scaleAccs c base (stop.getD c.vl)
    let r := scanAll 1 false accs { s := s, good := [], bad := [], wait := none }
    let go : State := ((r.s.countPages r.good).scatter false r.good).enterV (fun a => .scale (wVd w).toNat a.pos) false r.good
    match r.wait, r.bad with
    | some k, _ => .stall k (r.s.unissue o)
    | none, (b, cause, _) :: _ =>
      if r.good.isEmpty then r.s.loadTrap o w c h b cause
      else .done ((go.trim b.i).vretire w c { histOf h 2 r.good with vl := b.i })
    | none, [] => go.scaleEnd s w c base (histOf h 0 r.good) stop

/-- `vssc` from its accesses; a fault leaves `vstart` and every counter at the first element of its block (R143). -/
def State.scaleStore (s o : State) (w : IWord) (c : Convoy) (base : Word) : Res :=
  let h := s.ran c none
  if c.vl ≤ c.vstart then .done (s.vretire w c h)
  else
    let stop := s.scaleStop w c
    let accs := if stop = some c.vstart then [] else scaleAccs c base (stop.getD c.vl)
    let r := scanAll 1 true accs { s := s, good := [], bad := [], wait := none }
    let commit (t : State) (l : List (Access × VPlace)) : State :=
      ((t.countPages l).scatter true l).enterV (fun a => .store 8 (s.vu.scaleAt (wVd w).toNat a.pos)) false l
    match r.wait, r.bad with
    | some k, _ => .stall k (r.s.unissue o)
    | none, (b, cause, _) :: _ =>
      let good := r.good.filter (fun g => decide (g.1.pos < b.pos))
      let s1 := ((commit r.s good).unissue o).history w c (histOf h 1 good)
      let pg := faultPages r.bad
      .trap { o.trapAt cause 0 b.va with pages := pg.1, more := pg.2 }
        { s1 with vu := s1.vu.setStart (32 * b.pos) (Vector.replicate 4 (32 * b.pos)) }
    | none, [] => (commit r.s r.good).scaleEnd s w c base (histOf h 0 r.good) stop

/-! ## The lane store (R144) -/

/-- The offset of element `i` in its lane's slice. -/
def State.laneOff (s : State) (w : IWord) (c : Convoy) (x : Word) (i : Nat) : Nat :=
  bits x.toNat 16 0 + s.index (wV2 w) i * (c.w / 8)

/-- The cell of a lane's slice. -/
def sliceCell (lane off : Nat) : Nat := lane * 131072 + off

/-- Reads and writes a value of a slice. -/
def State.sliceGet (s : State) (lane off n : Nat) : Nat := readLE (cellGet s.me.lanes) (sliceCell lane off) n
def State.slicePut (s : State) (lane off n v : Nat) : State :=
  { s with me := { s.me with lanes := writeLE s.me.lanes (sliceCell lane off) n v } }

/-- The offending offsets of a list of elements, each with its cause. -/
def State.laneBad (s : State) (w : IWord) (c : Convoy) (x : Word) (is : List Nat) : List (Nat × Nat) :=
  is.filterMap (fun i =>
    let o := s.laneOff w c x i
    if o % (c.w / 8) ≠ 0 then some (o, 0x03) else if s.me.lanestore < o + c.w / 8 then some (o, 0x06) else none)

/-- The lowest offset of a list, with its cause. DESIGN CHOICE (log entry 118): a lane-store word reports that of its offending offsets. -/
def lowest : List (Nat × Nat) → Option (Nat × Nat)
  | [] => none
  | a :: l => match lowest l with
    | none => some a
    | some b => if b.1 < a.1 then some b else some a

/-- A lane word: every active element is checked, then the elements move in order, each by `f` on the state, its element,
its lane and its offset; `f` answers flags and an assist as well. -/
def laneOp (w : IWord) (xs : List RegNo) (writes : Bool) (s : State)
    (f : Convoy → State → Nat → Nat → Nat → State × FF × Bool) : Out :=
  vecOp w xs none s fun s1 c x y =>
    let m := wMask w
    let h := s1.ran c m
    if c.vl ≤ c.vstart then .done (s1.vretire w c h)
    else if x.extractLsb' 17 47 != 0 then s.vsix w c
    else
      let is := s1.vu.pending c m c.w
      match lowest (s1.laneBad w c x is) with
      | some (o, cause) => s.vtrap w c cause 0 (BitVec.ofNat 64 o)
      | none =>
        let part := s1.limits w c c.w
        let lim := part.getD (Vector.replicate 4 c.vl)
        let run := is.filter (fun i => decide (i < lgAt lim (lgOf c.w i)))
        let u0 := s1.vu
        let d := loadDst c (wVd w).toNat 0
        let s2 := run.foldl (fun (a : State × FF × List Nat) i =>
          let r := f c a.1 i (laneOf c.w i) (s1.laneOff w c x i)
          (r.1, a.2.1 ||| r.2.1, if r.2.2 && !a.2.2.contains (granOf c.w i) then granOf c.w i :: a.2.2 else a.2.2)) (s1, 0, [])
        let dpos (i : Nat) : Nat := u0.pos (wVd w).toNat c.w i
        let src := run.any (fun i => u0.marked (u0.pos (wV2 w).toNat 32 i) 32 || (wFn5 w != 0 && u0.marked (dpos i) c.w))
        let u1 := if writes then
            let u := d.fill (u0.maskedOff c m c.w lim) s2.1.vu
            if part.isNone && c.tfill then d.fill (span c.vl (d.count u.vcfg)) u else u
          else s2.1.vu
        let kept := writes && part.isNone && s1.keepsMarked (fun u k => d.readsMarked u k m) c
        let s3 := ({ s2.1 with vu := u1 }).raise s2.2.1 (src || kept)
        match part with
        | none =>
          .done (({ s3 with me := { s3.me with assists := s3.me.assists + s2.2.2.length } }).vretire w c h)
        | some l =>
          .done (({ s3 with me := { s3.me with subn := s3.me.subn + BitVec.ofNat 64 s2.2.2.length } }).partWay s1 w c x y l h)

/-- The sum of `vlla`: modulo `2^w` for an integer type, rounded for a float type; with its flags and whether it takes an
assist (R144, R77). -/
def laneSum (c : Convoy) (old v : Nat) : Nat × FF × Bool :=
  match fmtOf c.et with
  | none => ((old + v) % 2 ^ c.w, 0, false)
  | some f =>
    let r := f.add c.fz (plainRm c.rm) old v
    (r.1, r.2, !c.fz && (f.subnormal old || f.subnormal v || f.subnormal r.1))

/-! ## `vlkv` (R145-R148) -/

/-- The parameter block of a `vlkv` (R145). -/
structure KvBlock where
  mapbase : Word
  ne : Nat
  tpp : Nat
  etype : Nat
  tagmask : Nat
  hstride : Nat
  head : Nat
  d : Nat
  pos0 : Nat
  npos : Nat
  zero : Nat
deriving DecidableEq, Repr

def KvBlock.of (r : Nat) : KvBlock :=
  { mapbase := BitVec.ofNat 64 (field r 0 8), ne := field r 8 4, tpp := field r 12 1, etype := field r 13 1,
    tagmask := field r 14 2, hstride := field r 16 4, head := field r 20 2, d := field r 22 2, pos0 := field r 24 4,
    npos := field r 28 4, zero := field r 32 32 }

/-- The operand checks of R145. -/
def KvBlock.ok (b : KvBlock) (c : Convoy) (done : Bool) : Bool :=
  b.mapbase.toNat % 32 == 0 && b.tpp != 0 && b.etype == c.et && b.hstride % 16 == 0 && b.d != 0 && decide (b.d ≤ 4096) &&
  b.d * c.w % 128 == 0 && b.zero == 0 && (done || decide (c.vstart + b.d ≤ c.vl)) && c.vstart % b.d == 0

/-- A `vlkv` in progress: what it has delivered (`i`, `e`, `t` of R148), the fault that ended it (its cause, its address, and
whether it takes the part of the first element), what it waits for, the accesses that will enter the V pipe (youngest first), and of
all accesses made the loads of tokens, the reads made at once and the writes of the list. -/
structure KvRun where
  s : State
  i : Nat
  e : Nat
  t : Nat
  fault : Option (Nat × Access × Bool)
  wait : Option Wait
  ops : List (VKind × Access × VPlace)
  toks : List (Access × VPlace)
  reads : List (Access × VPlace)
  writes : List (Access × VPlace)

/-- The loop is over. -/
def KvRun.ended (k : KvRun) : Bool := k.fault.isSome || k.wait.isSome

/-- A read may be performed as it issues: no pending V operation that touches its location comes first, and no hold and no fence
holds it (R91). -/
def KvRun.free (k : KvRun) (p : VPlace) (n : Nat) : Bool :=
  let meets (l : List (Loc × Nat)) : Bool := l.any (fun x => (p.1.sides n).any (fun y => x.1.meets x.2 y.1 y.2))
  !k.s.me.aops.any (fun a => decide (a.id < k.s.me.vhold)) &&
  k.s.me.vops.all (fun e => !(decide (e.id < k.s.me.vfence)) && !meets e.spans) &&
  k.ops.all (fun x => !meets (x.2.2.1.sides x.2.1.n))

/-- An access of `n` aligned bytes that a `vlkv` makes as a whole. -/
def kvAccess (va : Word) (n : Nat) : Access := { i := 0, va := va, n := n, bit := 0, w := 8 * n, pos := 0 }

/-- The location that a read of the word at hand is made at: of a twin surface, the side that the word has sampled, or samples now
(R95). -/
def State.sampleNow (s : State) (p : Place) : Loc × State :=
  match p.twin with
  | none => (p.loc, s)
  | some (n, _) =>
    let side := s.sideFor .vload (s.surfRec s.me.ctx n)
    let have' := s.me.samples.any (fun e => e.1 == s.insNo && e.2.1 == n)
    (s.vLoc p, if have' then s else { s with me := { s.me with samples := (s.insNo, n, side) :: s.me.samples } })

/-- A V load that is made at once. -/
def KvRun.load (k : KvRun) (va : Word) (n : Nat) (first : Bool) : Nat × KvRun :=
  if k.ended then (0, k)
  else
    match k.s.vecPlace va n n false with
    | .trap c _ _ => (0, { k with fault := some (c, kvAccess va n, first) })
    | .stall w => (0, { k with wait := some w })
    | .ok (p, s1) =>
      if !k.free p n then (0, { k with wait := some .operand })
      else
        let q := s1.sampleNow p.1
        (q.2.readHome q.1 n, { k with s := q.2, reads := (kvAccess va n, p) :: k.reads })

/-- A V store of the list, which enters the V pipe (R91, R141). -/
def KvRun.store (k : KvRun) (va : Word) (n v : Nat) (first : Bool) : KvRun :=
  if k.ended then k
  else
    match k.s.vecPlace va n n true with
    | .trap c _ _ => { k with fault := some (c, kvAccess va n, first) }
    | .stall w => { k with wait := some w }
    | .ok (p, s1) =>
      { k with s := s1, ops := (.store (8 * n) v, kvAccess va n, p) :: k.ops, writes := (kvAccess va n, p) :: k.writes }

/-- Records a tier miss (R147, R148). DEDUCED (log entry 120): a fault of the list at the first entry read traps. -/
def KvRun.miss (k : KvRun) (list : Word) (first : Bool) : KvRun :=
  let n := k.load (list + 4) 4 first
  let cap := n.2.load list 4 first
  let k1 := if n.1 < cap.1 then cap.2.store (list + 8 + BitVec.ofNat 64 (4 * n.1)) 4 k.e first else cap.2
  let k2 := k1.store (list + 4) 4 (n.1 + 1) first
  if k2.wait.isSome then { k2 with ops := k.ops, writes := k.writes } else if k2.ended then k2 else { k2 with s := { k2.s with me := { k2.s.me with event := true } }, e := k.e + 1, t := 0 }

/-- The element accesses of a token at an address: whole elements, or a strip at bit offset 0 (R76, R145). -/
def kvTokenAccs (u : VecUnit) (r w : Nat) (va : Word) (i d : Nat) : List Access :=
  (List.range d).map (fun j =>
    { i := i + j, va := va + BitVec.ofNat 64 (w * j / 8), n := (w * j % 8 + w + 7) / 8, bit := w * j % 8, w := w,
      pos := u.pos r w (i + j) })

/-- Delivers a token: its element reads, or the first fault among them. -/
def KvRun.token (k : KvRun) (r w : Nat) (va : Word) (d : Nat) (first : Bool) (next : Nat × Nat) : KvRun :=
  let q := scanAll (Nat.max 1 (w / 8)) false (kvTokenAccs k.s.vu r w va k.i d) { s := k.s, good := [], bad := [], wait := none }
  match q.wait, q.bad with
  | some x, _ => { k with wait := some x }
  | none, (b, cause, _) :: _ => { k with fault := some (cause, b, first) }
  | none, [] => { k with s := q.s, i := k.i + d, e := next.1, t := next.2, toks := q.good.reverse ++ k.toks,
                               ops := (q.good.map (fun x => (VKind.load x.1.pos x.1.w, x.1, x.2))).reverse ++ k.ops }

/-- The condition of the loop of R148, below an element limit. -/
def KvRun.more (k : KvRun) (b : KvBlock) (lim : Nat) : Bool := !k.ended && decide (k.e < b.ne) && decide (k.i + b.d ≤ lim)

/-- The loop of R148, with `fuel` passes. `note` says what the word has done in earlier parts: its first entry read, and the data reads
of its first token, take the part of element F (R138). -/
def kvLoop (c : Convoy) (b : KvBlock) (list : Word) (r lim : Nat) (note : KvNote) : Nat → KvRun → KvRun
  | 0, k => k
  | fuel + 1, k =>
    if !k.more b lim then k
    else
      let ea := b.mapbase + BitVec.ofNat 64 (32 * k.e)
      let first := !note.entry
      let p := k.load ea 32 first
      let v := p.1
      let k1 := p.2
      if k1.ended then k1
      else
        let page := BitVec.ofNat 64 (field v 0 8)
        let start := field v 8 4
        let used := field v 12 1
        let tag := field v 13 1 % 16
        let tier := field v 13 1 / 16 % 4
        let flags := field v 14 1
        let lo := Nat.max start b.pos0
        let hi := Nat.min (start + used) (b.pos0 + b.npos)
        let skip : KvRun := { k1 with e := k.e + 1, t := 0 }
        let t := Nat.max k.t (lo - start)
        let next : KvRun :=
          if b.tpp < used || used < k.t then { k1 with fault := some (0x10, kvAccess ea 32, first) }
          else if flags % 2 = 1 || b.tagmask / 2 ^ tag % 2 = 0 || hi ≤ lo then skip
          else if tier ≠ 0 || flags / 4 % 2 = 1 then k1.miss list first
          else if hi ≤ start + t then skip
          else
            k1.token r c.w (page + BitVec.ofNat 64 (b.head * b.hstride + t * b.d * c.w / 8)) b.d (!note.token)
              (if hi ≤ start + (t + 1) then (k.e + 1, 0) else (k.e, t + 1))
        kvLoop c b list r lim { note with entry := true, token := note.token || next.i != k.i } fuel next

/-- `kvpos` (R146) after a `vlkv` that has come this far. -/
def KvRun.kvpos (k : KvRun) (b : KvBlock) : Word :=
  BitVec.ofNat 64 (k.e + 2 ^ 32 * k.t + (if b.ne ≤ k.e then 2 ^ 63 else 0))

/-- Everything that a part of a `vlkv` has accessed. -/
def KvRun.made (k : KvRun) : List (Access × VPlace) := k.reads ++ k.writes ++ k.toks

/-- What a `vlkv` has done so far, with its pages counted, but those counted before, and marked (R140, R300). -/
def KvRun.marked (k : KvRun) (seen : List Nat) : State :=
  ((k.s.countFresh seen k.made).scatter false (k.reads ++ k.toks)).scatter true k.writes

/-- The accesses of a `vlkv` enter the V pipe, the registers of its tokens are written, and `kvpos` names what comes next. -/
def KvRun.issued (k : KvRun) (w : IWord) (c : Convoy) (b : KvBlock) (note : KvNote) : State :=
  let s0 := k.marked note.pages
  let s1 := s0.loadRegs c none c.w [loadDst c (wVd w).toNat 0] k.toks (Vector.replicate 4 k.i) false
  let s2 := s1.enterOps false k.ops.reverse
  { s2 with me := { s2.me with kvpos := k.kvpos b } }

/-- The lowest and the highest address of a list of accesses together with those of earlier parts. -/
def joinSpan (a : Option (Nat × Nat)) (l : List (Access × VPlace)) : Option (Nat × Nat) :=
  l.foldl (fun s x =>
    let lo := x.1.va.toNat
    let hi := (x.1.va + BitVec.ofNat 64 (x.1.n - 1)).toNat
    match s with
    | none => some (lo, hi)
    | some p => some (Nat.min p.1 lo, Nat.max p.2 hi)) a

/-- The note of a `vlkv` after a part of it. -/
def KvRun.noted (k : KvRun) (note : KvNote) : KvNote :=
  { note with
    entry := note.entry || k.reads.any (fun x => x.1.n == 32), token := note.token || !k.toks.isEmpty
    pages := note.pages ++ (placesOf k.made).map (·.1), span := joinSpan note.span k.made }

/-- The word at hand goes on with what is left of it: its entry is held, and the X-thread runs it again, with its note (log entry 60). -/
def State.goOn (s o : State) (w : IWord) (c : Convoy) (x y : Word) (i : Nat) (note : KvNote) : State :=
  let p := s.partWay o w c x y (Vector.replicate 4 i) { event := 0, vl := 0, active := 0, first := 0, last := 0 }
  { p with rings := s.rings, ringEntries := s.ringEntries
           me := { p.me with resuming := true, stop := s.me.stop, stopping := s.me.stopping, x := { p.me.x with wait := .none }
                             stopped := p.me.stopped.map (fun k => if k.pc == s.insPc then { k with kv := some note } else k) } }

/-- The end of a `vlkv`: a fault at the first entry or the first token traps, with `kvpos` as the word found it; a stop, or a wait of one
that has got on, leaves the rest; any other end delivers what there is (R138, R148). The elements that the captured type has filled count
as no read of a marked register, whether or not `vlkv` leaves them as they are (R252; DEDUCED, log entry 110). -/
def State.kvEnd (s o : State) (w : IWord) (c : Convoy) (x y : Word) (b : KvBlock) (note : KvNote) (k : KvRun) : Res :=
  let span := joinSpan note.span k.made
  let h : Hist := { event := 0, vl := c.vl, active := note.active, first := (span.map (·.1)).getD 0, last := (span.map (·.2)).getD 0 }
  let moved := k.issued w c b note
  let rest : Res :=
    .done (if s.me.stop.isEmpty then moved.goOn s w c x y k.i (k.noted note) else moved.partWay s w c x y (Vector.replicate 4 k.i) h)
  match k.wait, k.fault with
  | some z, _ => if k.kvpos b = s.me.kvpos then .stall z o else rest
  | none, some (cause, a, true) =>
    let t := k.marked note.pages
    { t with me := { t.me with kvpos := note.start } }.loadTrap o w c { h with event := 1 } { a with i := c.vstart } cause
  | none, f =>
    if f.isNone && !s.me.kvpos.getLsbD 63 && (k.more b c.vl || s.me.stopping) then rest
    else
      let d := loadDst c (wVd w).toNat 0
      let kept := s.keepsMarked (fun u q => d.readsMarked u { q with vl := k.i } none) c
      .done (((moved.raise 0 kept).trim k.i).vretire w c { h with event := if f.isSome then 2 else 0, vl := k.i })

/-- `vlkv` (R148): alignment of the block and of the list, the block, its checks, then the loop. Its reads of the block, of the map and of
the list are V operations that it makes as it goes, its writes of the list and its element reads enter the V pipe; how far it goes
before others get on is a free choice, and a pre-emption stops it between tokens (log entry 60). DESIGN CHOICE (log entry 98): the
checks of R145 come before R61's retirement of a word with nothing to do. DEDUCED (log entry 121): a block that cannot be read traps
before any element. -/
def State.vlkv (s o : State) (w : IWord) (c : Convoy) (list blk : Word) : Res :=
  if blk.toNat % 64 ≠ 0 then o.vtrap w c 0x03 0 blk
  else if list.toNat % 8 ≠ 0 then o.vtrap w c 0x03 0 list
  else
    let done := s.me.kvpos.getLsbD 63
    let k0 : KvRun :=
      { s := s.drawFree.2, i := c.vstart, e := bits s.me.kvpos.toNat 31 0, t := bits s.me.kvpos.toNat 39 32, fault := none,
        wait := none, ops := [], toks := [], reads := [], writes := [] }
    let old := s.note.bind (·.kv)
    let p := match old with | some n => (n.block, k0) | none => k0.load blk 64 true
    let b := KvBlock.of p.1
    match p.2.wait, p.2.fault with
    | some k, _ => .stall k o
    | none, some (cause, _, _) => o.vtrap w c cause 0 blk
    | none, none =>
      if !b.ok c done then ({ p.2 with s := o }.marked []).vsix w c
      else
        let note := old.getD
          { block := p.1, start := s.me.kvpos, entry := false, token := false, pages := [], span := none,
            active := (s.ran c none).active }
        let part := s.limits w c c.w
        let lim := match part with | some l => l.toList.foldl Nat.min (lgAt l 0) | none => c.vl
        let passes := if s.drawFree.1 = 0 then 257 * (b.ne + 1) else Nat.min s.drawFree.1.toNat (257 * (b.ne + 1))
        let r := if done then p.2 else kvLoop c b list (wVd w).toNat lim note passes p.2
        s.kvEnd o w c list blk b note r

/-! ## Performing V operations (R91) -/

/-- A V operation that writes the register file, or a scale. -/
def VOp.loads (o : VOp) : Bool :=
  match o.kind with
  | .load _ _ => true
  | .scale _ _ => true
  | _ => false

/-- The bits that a pending read of the V pipe reads. -/
def VOp.width (o : VOp) : Nat :=
  match o.kind with
  | .load _ w => w
  | .scale _ _ => 8
  | _ => 0

/-- A pending V operation may be performed (R91). One that writes the register file waits while the slot holds another strand's
vector state (R279; log entry 40). -/
def State.vReady (s : State) (o : VOp) : Bool :=
  s.present && (!o.loads || s.me.xstate.getLsbD 0) && o.spans.all (fun r => s.homeStill r.1) &&
  !s.me.aops.any (fun a => decide (a.id < o.hold)) &&
  s.me.vops.all (fun e =>
    !(decide (e.id < o.fence)) && (!decide (e.id < o.id) || (!e.meets o && !(o.ordered && e.ins == o.ins))))

/-- The location that a place of a V operation is: the side of a twin surface is sampled once per instruction (R95). -/
def State.vSample (s : State) (o : VOp) (p : Place) : Loc × State :=
  match p.twin with
  | none => (p.loc, s)
  | some (n, l1) =>
    match s.me.samples.find? (fun e => e.1 == o.ins && e.2.1 == n) with
    | some e => (if e.2.2 then l1 else p.loc, s)
    | none =>
      let side := s.sideOf s.me.ctx n
      (if side then l1 else p.loc, { s with me := { s.me with samples := (o.ins, n, side) :: s.me.samples } })

/-- Removes a V operation, and with the last of its instruction the sides sampled for it, unless the instruction has stopped part
way. -/
def State.dropV (s : State) (o : VOp) : State :=
  let rest := s.me.vops.filter (fun e => e.id != o.id)
  let samples := s.me.samples.filter (fun e => rest.any (fun v => v.ins == e.1) || s.me.stopped.any (fun k => k.ins == e.1))
  { s with me := { s.me with vops := rest, samples := samples } }

/-- The pieces of a V access at the locations that its places are: location and bytes. -/
def State.vPieces (s : State) (o : VOp) (w : Nat) : List (Loc × Nat) × State :=
  let p := s.vSample o o.place
  match o.far with
  | none => ([(p.1, (o.bit + w + 7) / 8)], p.2)
  | some q =>
    let r := p.2.vSample o q
    ([(p.1, 1), (r.1, 1)], r.2)

/-- The bytes at the homes of a list of pieces. -/
def State.readPieces (s : State) (l : List (Loc × Nat)) : Nat := l.foldr (fun p v => s.readHome p.1 p.2 + 256 ^ p.2 * v) 0

/-- Writes the bits of a V store; the other bits of its bytes stay (R76). -/
def State.vStoreBits (s : State) (o : VOp) (w v : Nat) : State :=
  let l := (s.vPieces o w).1
  let old := s.readPieces l
  let new := old - old / 2 ^ o.bit % 2 ^ w * 2 ^ o.bit + v % 2 ^ w * 2 ^ o.bit
  match l with
  | [p, q] => (s.storeTo p.1 none p.2 new).storeTo q.1 none q.2 (new / 256 ^ p.2)
  | _ => l.foldl (fun t p => t.storeTo p.1 none p.2 new) s

/-- The history entry of a load that has retired and traps after all: that of its retirement, with event 1 (R292). -/
def State.lateHistory (s : State) (o : VOp) : State :=
  let c := 16 * s.me.die + s.me.core
  let fresh : Nat := 2 ^ 64 * o.pc.toNat + 2 ^ 128 * o.va.toNat + 2 ^ 192 * o.va.toNat + 2 ^ 320 * s.me.source
  let r := ((s.ringEntries.find? (fun e => e.1 == c && field e.2.2.toNat 8 8 == o.pc.toNat && field e.2.2.toNat 40 2 == s.me.source)).map
    (·.2.2.toNat)).getD fresh
  s.ringWrite (r - field r 0 8 - 2 ^ 344 * field r 43 1 + s.gts.toNat + 2 ^ 344)

/-- A V load meets poison, or a side that does not translate, when it is performed: the X-thread, which has issued nothing past it, takes
the trap at the element (R129; log entries 33 and 96). The elements below are read in their turn; the return restarts the load at this
one, under the sides that it has sampled, and then goes on where the X-thread stood (R138, R274). -/
def State.lateV (s : State) (o : VOp) (cause : Nat) : State :=
  let note : Stopped :=
    { pc := o.pc, ins := o.ins, extra := [], marks := 0, start := 0, system := s.me.x.priv == .s, kv := none }
  let next := if s.me.resuming || s.me.x.pc != o.pc + 4 then some (s.me.resumeAt.getD s.me.x.pc) else none
  let s1 := s.lateHistory o
  let s2 : State := { s1 with
    vu := s1.vu.setStart o.elem (Vector.replicate 4 o.elem)
    me := { s1.me with
      vops := s1.me.vops.filter (fun e => !(e.ins == o.ins && decide (o.elem ≤ e.elem)))
      restarts := some note, resumeAt := next, resuming := false, x := { s1.me.x with pc := o.pc } } }
  s2.trapThread .x { cause := cause, sub := 0, tval := o.va, tepc := o.pc, pages := [], more := false, resume := false }

/-- The vector unit whose registers a V load writes is that of the slot, whoever its owner is (R279); a strand that has left
its slot writes only what is its own still. A load that meets poison, or a side that does not translate, only after its issue
writes nothing and traps the X-thread at its element (log entry 33). -/
def State.vLoadBits (s : State) (o : VOp) (w : Nat) (put : VecUnit → Nat → VecUnit) : State :=
  let p := s.vPieces o w
  match p.1.findSome? (fun l => match l.1 with | .absent c => some c | _ => none) with
  | some c => p.2.lateV o c
  | none =>
    if p.1.any (fun l => p.2.poisonedAt l.1 l.2) then p.2.lateV o 0x09
    else
      let s1 := p.2.dropV o
      if s1.me.resident || s1.vu.owner == some s1.me.uid then
        { s1 with vu := put s1.vu (p.2.readPieces p.1 / 2 ^ o.bit % 2 ^ w) }
      else s1

/-- Performs a V operation, other than the commit of a `vappend`. -/
def State.performV (s : State) (o : VOp) : State :=
  if !s.vReady o then s
  else
    match o.kind with
    | .load pos w => s.vLoadBits o w (fun u v => u.put pos w v)
    | .scale sc k => s.vLoadBits o 8 (fun u v => u.setScale sc k v)
    | .store w v => if (o.touched w).all (fun p => s.mayReach p.1 s.me.source) then (s.vStoreBits o w v).dropV o else s
    | .commit _ _ _ _ _ => s

/-- V_OPERATION_PERFORM (R91): the pending V operation numbered `k`. -/
def execVOperationPerform (k : Nat) (s : State) : Out :=
  match s.me.vops.find? (fun o => o.id == k) with
  | some o => .next (s.performV o)
  | none => .next s

/-! ## The instructions -/

/-- Indexed words note the reads of their index group (R51). -/
def indexedLoad (w : IWord) (xs : List RegNo) (i : RegNo) (s : State) (accs : State → Convoy → Word → List Access) : Out :=
  vecOp w xs none s fun s1 c x y =>
    (s1.markedIndex w c i).vload s w c x y c.w (byElem c) [loadDst c (wVd w).toNat 0] (accs s1 c x)

def indexedStore (w : IWord) (xs : List RegNo) (i : RegNo) (ordered : Bool) (s : State)
    (accs : State → Convoy → Word → List Access) : Out :=
  vecOp w xs none s fun s1 c x y => (s1.markedIndex w c i).vstore s w c x y c.w (byElem c) ordered (accs s1 c x)


/-- `vle` (R142). -/
def execVle (k : Bool) (d : RegNo) (x : RegNo) (mask : Option (BitVec 2)) (u0 : State) : Out :=
  loadOp (packV 0x21#6 (BitVec.ofBool k) d x 0#5 0#1 0#1 (maskMe mask) (maskMk mask) 0#5) [x] 1 byElem u0 fun s1 c b _ => s1.unitAccs (packV 0x21#6 (BitVec.ofBool k) d x 0#5 0#1 0#1 (maskMe mask) (maskMk mask) 0#5) c d (fun i => b + BitVec.ofNat 64 (i * (c.w / 8)))

/-- `vlse` (R142). -/
def execVlse (k : Bool) (d : RegNo) (x : RegNo) (s : RegNo) (mask : Option (BitVec 2)) (u0 : State) : Out :=
  loadOp (packV 0x21#6 (BitVec.ofBool k) d x s 0#1 0#1 (maskMe mask) (maskMk mask) 1#5) [x, s] 1 byElem u0 fun s1 c b y => s1.unitAccs (packV 0x21#6 (BitVec.ofBool k) d x s 0#1 0#1 (maskMe mask) (maskMk mask) 1#5) c d (stridden b y)

/-- `vlseg` (R142). -/
def execVlseg (k : Bool) (d : RegNo) (x : RegNo) (f : BitVec 3) (mask : Option (BitVec 2)) (u0 : State) : Out :=
  loadOp (packV 0x21#6 (BitVec.ofBool k) d x (0#2 ++ f) 0#1 0#1 (maskMe mask) (maskMk mask) 2#5) [x] (f.toNat + 1) byElem u0 fun s1 c b _ => s1.segAccs (packV 0x21#6 (BitVec.ofBool k) d x (0#2 ++ f) 0#1 0#1 (maskMe mask) (maskMk mask) 2#5) c d (f.toNat + 1) b

/-- `vlx` (R142). -/
def execVlx (k : Bool) (d : RegNo) (x : RegNo) (i : RegNo) (mask : Option (BitVec 2)) (u0 : State) : Out :=
  indexedLoad (packV 0x21#6 (BitVec.ofBool k) d x i 0#1 0#1 (maskMe mask) (maskMk mask) 3#5) [x] i u0 fun s1 c b =>
    s1.unitAccs (packV 0x21#6 (BitVec.ofBool k) d x i 0#1 0#1 (maskMe mask) (maskMk mask) 3#5) c d (fun e => b + BitVec.ofNat 64 (s1.index i e * (c.w / 8)))

/-- `vlb` (R142). -/
def execVlb (k : Bool) (d : RegNo) (x : RegNo) (o : RegNo) (mask : Option (BitVec 2)) (u0 : State) : Out :=
  stripOp (packV 0x21#6 (BitVec.ofBool k) d x o 0#1 0#1 (maskMe mask) (maskMk mask) 4#5) [x, o] u0 fun s1 c b y l => s1.vload u0 (packV 0x21#6 (BitVec.ofBool k) d x o 0#1 0#1 (maskMe mask) (maskMk mask) 4#5) c b y c.w 1 [loadDst c d.toNat 0] l

/-- `vlkv` (R148). -/
def execVlkv (k : Bool) (d : RegNo) (x : RegNo) (p : RegNo) (u0 : State) : Out :=
  vecOp (packV 0x21#6 (BitVec.ofBool k) d x p 0#1 0#1 0#1 0#2 5#5) [x, p] none u0 fun s1 c b y => s1.vlkv u0 (packV 0x21#6 (BitVec.ofBool k) d x p 0#1 0#1 0#1 0#2 5#5) c b y

/-- `vlsc` (R143). -/
def execVlsc (k : Bool) (d : RegNo) (x : RegNo) (u0 : State) : Out :=
  vecOp (packV 0x21#6 (BitVec.ofBool k) d x 0#5 0#1 0#1 0#1 0#2 6#5) [x] none u0 fun s1 c b _ => s1.scaleLoad u0 (packV 0x21#6 (BitVec.ofBool k) d x 0#5 0#1 0#1 0#1 0#2 6#5) c b

/-- `vse` (R142). -/
def execVse (k : Bool) (v : RegNo) (x : RegNo) (c : Bool) (mask : Option (BitVec 2)) (u0 : State) : Out :=
  storeOp (packV 0x22#6 (BitVec.ofBool k) v x 0#5 (BitVec.ofBool c) 0#1 (maskMe mask) (maskMk mask) 0#5) [x] byElem false u0 fun s1 g b _ => s1.unitAccs (packV 0x22#6 (BitVec.ofBool k) v x 0#5 (BitVec.ofBool c) 0#1 (maskMe mask) (maskMk mask) 0#5) g v (fun i => b + BitVec.ofNat 64 (i * (g.w / 8)))

/-- `vsse` (R142). -/
def execVsse (k : Bool) (v : RegNo) (x : RegNo) (s : RegNo) (c : Bool) (mask : Option (BitVec 2)) (u0 : State) : Out :=
  storeOp (packV 0x22#6 (BitVec.ofBool k) v x s (BitVec.ofBool c) 0#1 (maskMe mask) (maskMk mask) 1#5) [x, s] byElem false u0 fun s1 g b y => s1.unitAccs (packV 0x22#6 (BitVec.ofBool k) v x s (BitVec.ofBool c) 0#1 (maskMe mask) (maskMk mask) 1#5) g v (stridden b y)

/-- `vsseg` (R142). -/
def execVsseg (k : Bool) (v : RegNo) (x : RegNo) (f : BitVec 3) (c : Bool) (mask : Option (BitVec 2)) (u0 : State) : Out :=
  storeOp (packV 0x22#6 (BitVec.ofBool k) v x (0#2 ++ f) (BitVec.ofBool c) 0#1 (maskMe mask) (maskMk mask) 2#5) [x] byElem false u0 fun s1 g b _ => s1.segAccs (packV 0x22#6 (BitVec.ofBool k) v x (0#2 ++ f) (BitVec.ofBool c) 0#1 (maskMe mask) (maskMk mask) 2#5) g v (f.toNat + 1) b

/-- `vsx` (R142). -/
def execVsx (k : Bool) (v : RegNo) (x : RegNo) (i : RegNo) (c : Bool) (mask : Option (BitVec 2)) (u0 : State) : Out :=
  indexedStore (packV 0x22#6 (BitVec.ofBool k) v x i (BitVec.ofBool c) 0#1 (maskMe mask) (maskMk mask) 3#5) [x] i false u0 fun s1 g b =>
    s1.unitAccs (packV 0x22#6 (BitVec.ofBool k) v x i (BitVec.ofBool c) 0#1 (maskMe mask) (maskMk mask) 3#5) g v (fun e => b + BitVec.ofNat 64 (s1.index i e * (g.w / 8)))

/-- `vsxo` (R142). -/
def execVsxo (k : Bool) (v : RegNo) (x : RegNo) (i : RegNo) (c : Bool) (mask : Option (BitVec 2)) (u0 : State) : Out :=
  indexedStore (packV 0x22#6 (BitVec.ofBool k) v x i (BitVec.ofBool c) 0#1 (maskMe mask) (maskMk mask) 4#5) [x] i true u0 fun s1 g b =>
    s1.unitAccs (packV 0x22#6 (BitVec.ofBool k) v x i (BitVec.ofBool c) 0#1 (maskMe mask) (maskMk mask) 4#5) g v (fun e => b + BitVec.ofNat 64 (s1.index i e * (g.w / 8)))

/-- `vsb` (R142). -/
def execVsb (k : Bool) (v : RegNo) (x : RegNo) (o : RegNo) (c : Bool) (mask : Option (BitVec 2)) (u0 : State) : Out :=
  stripOp (packV 0x22#6 (BitVec.ofBool k) v x o (BitVec.ofBool c) 0#1 (maskMe mask) (maskMk mask) 5#5) [x, o] u0 fun s1 g b y l => s1.vstore u0 (packV 0x22#6 (BitVec.ofBool k) v x o (BitVec.ofBool c) 0#1 (maskMe mask) (maskMk mask) 5#5) g b y g.w 1 false l

/-- `vssc` (R143). -/
def execVssc (k : Bool) (v : RegNo) (x : RegNo) (u0 : State) : Out :=
  vecOp (packV 0x22#6 (BitVec.ofBool k) v x 0#5 0#1 0#1 0#1 0#2 6#5) [x] none u0 fun s1 c b _ => s1.scaleStore u0 (packV 0x22#6 (BitVec.ofBool k) v x 0#5 0#1 0#1 0#1 0#2 6#5) c b

/-- `vlld` (R144). -/
def execVlld (k : Bool) (d : RegNo) (x : RegNo) (i : RegNo) (mask : Option (BitVec 2)) (u0 : State) : Out :=
  laneOp (packV 0x23#6 (BitVec.ofBool k) d x i 0#1 0#1 (maskMe mask) (maskMk mask) 0#5) [x] true u0 fun c s1 e lane off =>
    ({ s1 with vu := s1.vu.put (s1.vu.pos d.toNat c.w e) c.w (s1.sliceGet lane off (c.w / 8)) }, 0, false)

/-- `vlst` (R144). -/
def execVlst (k : Bool) (v : RegNo) (x : RegNo) (i : RegNo) (c : Bool) (mask : Option (BitVec 2)) (u0 : State) : Out :=
  laneOp (packV 0x23#6 (BitVec.ofBool k) v x i (BitVec.ofBool c) 0#1 (maskMe mask) (maskMk mask) 1#5) [x] false u0 fun g s1 e lane off =>
    (s1.slicePut lane off (g.w / 8) (s1.vu.elem v.toNat g.w e), 0, false)

/-- `vlla` (R144). -/
def execVlla (k : Bool) (d : RegNo) (x : RegNo) (i : RegNo) (mask : Option (BitVec 2)) (u0 : State) : Out :=
  laneOp (packV 0x23#6 (BitVec.ofBool k) d x i 0#1 0#1 (maskMe mask) (maskMk mask) 2#5) [x] true u0 fun c s1 e lane off =>
    let old := s1.sliceGet lane off (c.w / 8)
    let r := laneSum c old (s1.vu.elem d.toNat c.w e)
    let s2 := s1.slicePut lane off (c.w / 8) r.1
    ({ s2 with vu := s2.vu.put (s2.vu.pos d.toNat c.w e) c.w old }, r.2.1, r.2.2)

end Sys2Proof.Machine
end

