-- ==== Sys2Proof/Machine/EngineRun.lean ====
section
/-!
DEFINITION. The engines' transitions (R94, R186-R199): the start of a command, its read, write and push units, its
completion, and the handling of their faults.
-/

namespace Sys2Proof.Machine

/-! ## Faults of a unit (R186, R286) -/

/-- A fault's place in the queue of a suspended strand: the entry after the last valid one, so that the entries stand in arrival
order. Where the last entry is taken and an earlier one is empty, the valid entries first move down, in order (DESIGN CHOICE, log
entry 103). `none` while the queue is full. -/
def State.absentSlot (s : State) (m : Strand) : Option (Nat × State) :=
  let l := s.absentValid m
  match l.getLast? with
  | none => some (0, s)
  | some k =>
    if k < 15 then some (k + 1, s)
    else if l.length = 16 then none
    else
      let recs := l.map (fun i => s.readVa m.ctx (s.absentAt m i) 32)
      let s1 := s.writeVa m.ctx (s.absentAt m 0) 512 (packList 32 recs)
      some (l.length, { s1 with cmds := s1.cmds.map (fun c =>
        if c.uid = m.uid then { c with absent := c.absent.map (fun i => (l.findIdx (· == i))) } else c) })

/-- The command pauses at a unit. -/
def State.pauseAt (s : State) (c : Cmd) (u cause : Nat) (va : Word) : State :=
  s.modCmd c.token (fun e => { e with paused := some (u, cause, va) })

/-- Queues a fault to the handler of the context (R186, R301). -/
def State.reportFault (s : State) (c : Cmd) (cause : Nat) (va : Word) : State :=
  (s.report (.engineFault c.ctx c.token cause va)).migRequest c.ctx va (tokenSrc c.token) 0

/-- A unit that cannot be performed: its command pauses, and the fault goes to the handler, or to the absent-fault queue
of a suspended strand; when that is full the unit waits (R186, R286). -/
def State.engFault (s : State) (c : Cmd) (u cause : Nat) (va : Word) : State :=
  if c.paused.isSome then s
  else
    match s.strand c.uid with
    | some m =>
      if m.status == .suspended then
        match if s.imageAt m then s.absentSlot m else none with
        | none => s
        | some (k, s1) =>
          let r := cause + 2 ^ 8 + 2 ^ 16 * tokenSrc c.token + 2 ^ 64 * c.token.toNat + 2 ^ 128 * va.toNat + 2 ^ 192 * s.gts.toNat
          ((s1.writeVa m.ctx (s1.absentAt m k) 32 r).pauseAt c u cause va).modCmd c.token (fun e => { e with absent := some k })
      else (s.reportFault c cause va).pauseAt c u cause va
    | none => (s.reportFault c cause va).pauseAt c u cause va

/-! ## Places and bytes -/

/-- A byte on its way through an engine, with its poison. -/
abbrev PByte := BitVec 8 × Bool

/-- Where an engine access goes, or why it cannot be performed: a fault, a stop that no handler resolves, a wait. -/
inductive EPlace where
  | ok (l : Loc) (pte : Option Nat) (f : Option Surf) (s : State) (c : Cmd)
  | fault (cause : Nat)
  | stop (cause : Nat)
  | wait

/-- What a read unit finds. -/
inductive ERead where
  | ok (bs : List PByte) (s : State) (c : Cmd)
  | fault (cause : Nat) (va : Word)
  | stop (cause : Nat) (va : Word)
  | wait

/-- The side of a twin surface that a command reads, sampled at its first read unit (R95). -/
def State.sample (s : State) (c : Cmd) (f : Surf) : Bool × Cmd :=
  match assoc c.samples f.n with
  | some b => (b, c)
  | none => (s.sideNow f, { c with samples := c.samples ++ [(f.n, s.sideNow f)] })

/-- How far from an address on a list of ranges covers every byte, looking at most `n` times. -/
def reach (rs : List (Nat × Nat)) : Nat → Nat → Nat
  | 0, a => a
  | n + 1, a =>
    match rs.find? (fun r => decide (r.1 ≤ a) && decide (a < r.1 + r.2)) with
    | some r => reach rs n (r.1 + r.2)
    | none => a

/-- The rows of a copy together cover the page of an address: it is written whole (R209). -/
def Cmd.wholePage (c : Cmd) (va : Word) : Bool :=
  let p := va.toNat / 65536 * 65536
  let rs := (Copy.of c.block.toNat).dsts.map (fun r => (r.1.toNat, r.2))
  c.kind == 0 && decide (p + 65536 ≤ reach rs rs.length p)

/-- An engine access of at most one page (R188, R201, R207-R210, R214, R273, R293-R298), by the records that stood at its command's
acceptance. `raw` reads the stored form (R190). -/
def State.engPlace (s : State) (c : Cmd) (va : Word) (n : Nat) (acc : Acc) (raw : Bool) : EPlace :=
  if inWindow va then
    match (s.strand c.uid).bind (fun m => s.padPlace m va n) with
    | some l => if s.homeStill l then .ok l none none s c else .wait
    | none => .fault 0x06
  else if let some o := s.capOffset c.ctx va then (if acc.writes then .fault 0x06 else .ok (.caps o) none none s c)
  else
    let hit := surfAtIn c.recs va
    let write := acc.writes
    let p : Bool × Cmd := match hit with
      | some (g, _, _) =>
        if !g.twin then (false, c) else if write then (!((assoc c.destSides g.n).getD (s.sideNow g)), c) else s.sample c g
      | none => (false, c)
    let at' : Word := match hit with | some (g, o, _) => if p.1 then BitVec.ofNat 64 (g.alt + o) else va | none => va
    let slow (pa : Nat) : Bool := write && s.tierOf pa == 1 && !c.wholePage va
    match s.translate c.ctx c.die none at' acc c.priv with
    | .moving => .wait
    | .fault cause => .fault (if cause = 0x06 && (match s.rawPa c.ctx at' with | some pa => slow pa | none => false) then 0x05 else cause)
    | .ok pa leaf pte s1 =>
      let aperture := leaf.getLsbD 9 || (match hit with | some (_, _, w) => w.isSome | none => false)
      if slow pa then .fault 0x05
      else if s.remote pa && c.scope != 3 then .stop 0x06
      else if (side1In c.recs va).isSome || write && aperture then .fault 0x06
      else
        let plain := !write && !raw && (aperture || (match hit with | some (g, _, _) => g.compressed | none => false))
        let w := match hit with | some (g, _, _) => g.elemBytes | none => 1
        .ok (if plain then .aperture pa w else .mem pa) (some pte) (hit.map (·.1)) s1 p.2

/-- The source number of an engine access: the engine's own, or, for a table element of a `gath` that an HBM5 stack of the module
holds, that of the stack's Gleaner (R193, R301, R322). -/
def State.accessSrc (s : State) (c : Cmd) (pa : Nat) (table : Bool) : Nat :=
  let p := s.normPa pa
  if table && !s.remote pa && s.tierOf pa == 0 then (Requester.gleaner ((p - s.regions[0].1) / 65536 % 8)).number else tokenSrc c.token

/-- Counts an engine access, once for each distinct page of the command (R300). -/
def State.countEngine (s : State) (c : Cmd) (l : Loc) (va : Word) (table : Bool) : State × Cmd :=
  let page := va.toNat / 65536
  match l.pa with
  | none => (s, c)
  | some pa => if c.pages.contains page then (s, c) else
      (s.countAccess pa va (s.accessSrc c pa table) false, { c with pages := page :: c.pages })

/-- Writes a poison log record (R331). -/
def State.logPoison (s : State) (pa ctx tier : Nat) (replica : Bool) : State :=
  let k := s.counters.toList.getD 8 0 % 256
  let r := pa / 65536 * 65536 + 2 ^ 64 * s.gts.toNat + 2 ^ 128 * ctx + 2 ^ 144 * tier + 2 ^ 152 * (if replica then 1 else 0)
  ({ s with plog := (k, BitVec.ofNat 256 r) :: s.plog.filter (·.1 != k) }).bumpCounter 8

/-- The bytes of a replica, when they can be read (R288). -/
def State.replicaBytes (s : State) (ctx : Nat) (va : Word) (n : Nat) : Option (List PByte) :=
  let l := (List.range n).map (fun i => s.rawPa ctx (va + BitVec.ofNat 64 i))
  if l.all (fun o => match o with | some pa => !s.poisonedPa pa | none => false) then
    some (l.map (fun o => (match o with | some pa => s.byte pa | none => 0, false)))
  else none

/-- The page of a replica, where a surface has one, is not moving (R295). -/
def State.replicaStill (s : State) (ctx : Nat) (f : Option Surf) (va : Word) (n : Nat) : Bool :=
  match f with
  | some g => !g.hasReplica || !s.vaMoving ctx (BitVec.ofNat 64 (g.replica + (va.toNat - g.base))) n
  | none => true

/-- An uncorrectable error of a slow tier (R288, R331): served from the replica, else poison; counted and logged once for
each page. -/
def State.slowError (s : State) (c : Cmd) (va : Word) (n pa : Nat) (f : Option Surf) (bs : List PByte) :
    List PByte × State × Cmd :=
  let rep := match f with
    | some g => if g.hasReplica && s.firmware.replicaRetry != 0 then s.replicaBytes c.ctx (BitVec.ofNat 64 (g.replica + (va.toNat - g.base))) n else none
    | none => none
  let page := va.toNat / 65536
  let out := rep.getD (bs.map (fun b => (b.1, true)))
  if c.errs.contains page then (out, s, c)
  else
    let s1 := s.bumpCounter 2
    let s2 := if rep.isSome then s1.bumpCounter 3 else s1
    (out, s2.logPoison (s.normPa pa) c.ctx (s.tierOf pa) rep.isSome, { c with errs := page :: c.errs })

/-- A read of at most one page; `bad` is an uncorrectable error of the medium, `table` says that it reads a table of a `gath`. -/
def State.engReadPiece (s : State) (c : Cmd) (va : Word) (n : Nat) (raw bad table : Bool) : ERead :=
  match s.engPlace c va n .load raw with
  | .fault cause => .fault cause va
  | .stop cause => .stop cause va
  | .wait => .wait
  | .ok l _ f s1 c1 =>
    let bs : List PByte := (List.range n).map (fun i => (s1.homeByte l i, s1.poisonedAt (l.plus i) 1))
    let p := s1.countEngine c1 l va table
    match l.pa with
    | some pa =>
      if 1 ≤ s.tierOf pa && !s.remote pa && (bad || bs.any (·.2)) then
        if !s.replicaStill c.ctx f va n then .wait else
        let e := p.1.slowError p.2 va n pa f bs
        .ok e.1 e.2.1 e.2.2
      else .ok bs p.1 p.2
    | none => .ok bs p.1 p.2

/-- A read unit of any length; `table` says that it reads a table of a `gath`. -/
def State.engReadOf (s : State) (c : Cmd) (va : Word) (n : Nat) (bad table : Bool) : ERead :=
  (pagePieces va n).foldl (fun acc p =>
    match acc with
    | .ok bs t d =>
      match t.engReadPiece d (va + BitVec.ofNat 64 p.1) p.2 false bad table with
      | .ok b t' d' => .ok (bs ++ b) t' d'
      | e => e
    | e => e) (.ok [] s c)

/-- A read unit that reads no table. -/
def State.engRead (s : State) (c : Cmd) (va : Word) (n : Nat) (bad : Bool) : ERead := s.engReadOf c va n bad false

/-- The number in a list of bytes, low first. -/
def numOf (bs : List PByte) : Nat := packList 1 (bs.map (fun b => b.1.toNat))

/-- The bytes of a number, all with one poison. -/
def bytesOf (n v : Nat) (p : Bool) : List PByte := (List.range n).map (fun i => (BitVec.ofNat 8 (v / 256 ^ i), p))

/-- Cuts a list into pieces of 16. -/
def cutGranules (bs : List PByte) : List (Nat × List PByte) :=
  (List.range ((bs.length + 15) / 16)).map (fun k => (16 * k, (bs.drop (16 * k)).take 16))

/-- Writes bytes at a location, granule by granule, with their poison. -/
def State.engStore (s : State) (l : Loc) (pte : Option Nat) (bs : List PByte) : State :=
  (cutGranules bs).foldl (fun t g =>
    let k := l.plus g.1
    let t1 := t.performWrite k pte g.2.length (numOf g.2)
    if g.2.any (·.2) then t1.setPoisonAt k true else t1) s

/-- Sets the descriptor of a compressed block (R212). -/
def State.setBlock (s : State) (pa d : Nat) : State :=
  let b := s.normPa pa / 4096 * 4096
  { s with blocks := let l := s.blocks.filter (·.1 != b); if d = 0 then l else (b, d) :: l }

/-- The bytes of a chunk of a block (R212). -/
def chunkOf (bs : List Nat) (w c : Nat) : List Nat :=
  (List.range 64).map (fun k => bs.getD ((64 * (c % (64 / w)) + k) * w + c / (64 / w)) 0)

/-- The code and the data of a chunk: the first code that fits (R213). -/
def chunkEnc (l : List Nat) : Nat × List Nat :=
  if l.all (· == 0) then (1, []) else if l.all (· == l.headD 0) then (2, [l.headD 0]) else (0, l)

/-- The descriptor and the stored bytes of a block (R212, R213). -/
def compress (bs : List Nat) (w : Nat) : Nat × List Nat :=
  let e := (List.range 64).map (fun c => chunkEnc (chunkOf bs w c))
  let header := (List.range 16).map (fun k =>
    (e.getD (4 * k) (0, [])).1 + 4 * (e.getD (4 * k + 1) (0, [])).1 + 16 * (e.getD (4 * k + 2) (0, [])).1
      + 64 * (e.getD (4 * k + 3) (0, [])).1)
  let data := header ++ e.flatMap (·.2)
  let d := (data.length + 511) / 512
  if d ≤ 7 then (d, data ++ List.replicate (512 * d - data.length) 0) else (0, bs)

/-- Writes a whole block of a compressed surface in one unit (R190, R213); a block with a poisoned byte is poisoned. -/
def State.storeBlock (s : State) (pa : Nat) (pte : Option Nat) (w : Nat) (bs : List PByte) : State :=
  let p := bs.any (·.2)
  let z := compress (bs.map (fun b => b.1.toNat)) w
  (s.engStore (.mem pa) pte (z.2.map (fun v => (BitVec.ofNat 8 v, p)))).setBlock pa z.1

/-! ## The units of a command (R88, R94, R187) -/

/-- The queue that a command pushes (R188, R193). -/
def Cmd.toQueue (c : Cmd) : Option Nat :=
  if c.kind = 1 then some (c.fld 8 8 % 8) else if c.kind = 3 && c.flags.getLsbD 1 then some (c.fld 16 8 % 8) else none

/-- The bytes of an element of `scad` and `coll`. -/
def Cmd.sumBytes (c : Cmd) : Nat := etypeWidth (c.fld (if c.kind = 5 then 33 else 28) 1) / 8

/-- The bytes that a command writes or pushes, in order. -/
def Cmd.streamLen (c : Cmd) : Nat :=
  if c.kind ≤ 2 then (Copy.of c.block.toNat).rows * (Copy.of c.block.toNat).drow
  else if c.kind = 3 then c.fld 24 4 * c.fld 28 1
  else
    match c.fld 32 1 with
    | 2 => c.fld 24 4 / c.members * c.sumBytes
    | 3 => c.members * c.fld 24 4 * c.sumBytes
    | _ => c.fld 24 4 * c.sumBytes

/-- The bytes of a destination row. -/
def Cmd.rowLen (c : Cmd) : Nat := if c.kind ≤ 2 then (Copy.of c.block.toNat).drow else c.streamLen

/-- The address of a destination byte. -/
def Cmd.destVa (c : Cmd) (off : Nat) : Word :=
  if c.kind ≤ 2 then (Copy.of c.block.toNat).dstRow (off / c.rowLen) + BitVec.ofNat 64 (off % c.rowLen)
  else BitVec.ofNat 64 (c.fld (if c.kind = 3 then 16 else 8) 8 + off)

/-- The bytes of the write unit that a destination address lies in: a granule, or a block of a compressed surface. -/
def Cmd.unitSize (c : Cmd) (va : Word) : Nat :=
  if !inWindow va && ((c.kind == 0 && c.flags.getLsbD 0) || (match surfIn c.recs va with | some f => f.compressed | none => false))
  then 4096 else 16

/-- The part of its row that the unit of a destination byte covers: its first byte, its length, and whether it is one unit: a whole
granule, or what the row has of a block of a compressed surface (R190); a partial granule is written byte by byte (R88). -/
def Cmd.unitOf (c : Cmd) (off : Nat) : Nat × Nat × Bool :=
  let u := c.unitSize (c.destVa off)
  let j := off % c.rowLen
  let v := (c.destVa off).toNat % u
  let lo := if v ≤ j then j - v else 0
  let hi := Nat.min c.rowLen (j - v + u)
  let hi := if v ≤ j then hi else Nat.min c.rowLen (u - (v - j))
  (off - j + lo, hi - lo, hi - lo == u || u == 4096)

/-- A destination byte is written. -/
def Cmd.byteWritten (c : Cmd) (off : Nat) : Bool :=
  let g := c.unitOf off
  c.written.contains (if g.2.2 then g.1 else off)

/-- The bytes that a command has written. -/
def Cmd.bytesWritten (c : Cmd) : Nat :=
  (c.written.map (fun off => if (c.unitOf off).2.2 then (c.unitOf off).2.1 else 1)).sum

/-- The physical byte that a command's write of an address reaches, on the invisible side of a twin surface; none for the scratchpad
window and where nothing is mapped. -/
def State.writtenPa (s : State) (c : Cmd) (va : Word) : Option Nat :=
  if inWindow va then none
  else
    s.rawPa c.ctx (match surfAtIn c.recs va with
      | some (g, o, _) => if g.twin && !((assoc c.destSides g.n).getD (s.sideNow g)) then BitVec.ofNat 64 (g.alt + o) else va
      | none => va)

/-- Two addresses that a command writes are one location (R94): the same address, or two that are mapped to one frame. -/
def State.sameTarget (s : State) (c : Cmd) (a b : Word) : Bool :=
  a == b || (a.toNat % 65536 == b.toNat % 65536 && (s.writtenPa c a).isSome && s.writtenPa c a == s.writtenPa c b)

/-- Every destination byte of an earlier row that a unit overlaps, under whatever address, is written (R94). -/
def State.rowsBefore (s : State) (c : Cmd) (off n : Nat) : Bool :=
  if 2 < c.kind then true
  else
    let k := Copy.of c.block.toNat
    (List.range (off / c.rowLen)).all (fun r => (List.range n).all (fun b =>
      let va := c.destVa off + BitVec.ofNat 64 b
      let d := (va - k.dstRow r).toNat
      (d :: (List.range (k.drow / 65536 + 1)).map (fun i => d % 65536 + 65536 * i)).all (fun e =>
        decide (k.drow ≤ e) || c.byteWritten (r * k.drow + e) || !s.sameTarget c va (k.dstRow r + BitVec.ofNat 64 e))))

/-- Cuts a list of bytes into elements. -/
def elements (n : Nat) (bs : List PByte) : List (List PByte) :=
  (List.range (bs.length / n)).map (fun i => (bs.drop (n * i)).take n)

/-- Converts source bytes into destination bytes (R189). -/
def Copy.convert (k : Copy) (bs : List PByte) : List PByte × FF :=
  if !k.conv then (bs, 0)
  else
    (elements k.sb bs).foldl (fun acc e =>
      let r := convertCode k.stype k.dtype false k.rm (numOf e)
      (acc.1 ++ bytesOf k.db r.1 (e.any (·.2)), acc.2 ||| r.2)) ([], 0)

/-- The destination bytes `lo .. hi-1` of a row, read from its source row (R187). -/
def State.rowBytes (s : State) (c : Cmd) (r lo hi : Nat) (bad : Bool) : ERead :=
  let k := Copy.of c.block.toNat
  let e0 := lo / k.db
  let e1 := (hi - 1) / k.db
  match s.engRead c (k.srcRow r + BitVec.ofNat 64 (e0 * k.sb)) ((e1 - e0 + 1) * k.sb) bad with
  | .ok bs t d =>
    let v := k.convert bs
    .ok ((v.1.drop (lo - e0 * k.db)).take (hi - lo)) t { d with fpflags := d.fpflags ||| v.2 }
  | e => e

/-- The destination bytes of a range of a copy's stream. -/
def State.copyBytes (s : State) (c : Cmd) (off n : Nat) (bad : Bool) : ERead :=
  let d := c.rowLen
  (List.range ((off + n - 1) / d - off / d + 1)).foldl (fun acc i =>
    match acc with
    | .ok bs t e =>
      let r := off / d + i
      match t.rowBytes e r (Nat.max off (r * d) - r * d) (Nat.min (off + n) (r * d + d) - r * d) bad with
      | .ok b t' e' => .ok (bs ++ b) t' e'
      | x => x
    | x => x) (.ok [] s c)

/-- The stored form of a source block, its descriptor first: the sectors that it has (R190). A block whose header holds code 11, or
whose descriptor is above 7, is poisoned data (R213). -/
def State.keepBytes (s : State) (c : Cmd) (off : Nat) (bad : Bool) : ERead :=
  let va := (Copy.of c.block.toNat).srcRow (off / c.rowLen) + BitVec.ofNat 64 (off % c.rowLen)
  match s.engPlace c va 4096 .load true with
  | .fault cause => .fault cause va
  | .stop cause => .stop cause va
  | .wait => .wait
  | .ok l _ _ _ _ =>
    let pa := l.pa.getD 0
    let d0 := (assoc s.blocks (s.normPa pa / 4096 * 4096)).getD 0
    let k := if d0 ≤ 7 then d0 else 0
    let n := if k = 0 then 4096 else 512 * k
    match s.engReadPiece c va n true bad false with
    | .ok bs t d =>
      let broken := (s.plainByte pa 1).isNone
      .ok ((BitVec.ofNat 8 k, false) :: bs.map (fun b => (b.1, b.2 || broken))) t d
    | e => e

/-! ## Queues (R193, R284) -/

/-- Pops the head of a queue of a strand that is present, for a command: a carried token holds the command (R93). -/
def State.popFor (s : State) (c : Cmd) (q : Nat) : Option ((Granule × Bool) × State × Cmd) :=
  match s.strand c.uid with
  | none => none
  | some m =>
    let k := m.queues.toList.getD q Queue.reset
    if !m.resident || s.cmds.any (fun e => e.uid == c.uid && decide (e.aop < c.aop) && e.stillPops q) ||
       m.aops.any (fun o => decide (o.id < c.aop) && (match o.kind with | .spwr k _ _ _ => k == q | _ => false)) then none
    else
      match k.items with
      | [] => none
      | e :: l =>
        some ((e.val, e.poison), s.modStrand c.uid (fun m => { m with queues := m.queues.setIfInBounds q { k with items := l } }),
              { c with hold := match e.tok with | some b => Nat.max c.hold b | none => c.hold })

/-- Pops index or value granules until a command has `n` of them. -/
def State.popTo (s : State) (c : Cmd) (q n : Nat) (vals : Bool) : Nat → Option (State × Cmd)
  | 0 => if n ≤ (if vals then c.vals else c.popped).length then some (s, c) else none
  | f + 1 =>
    if n ≤ (if vals then c.vals else c.popped).length then some (s, c)
    else
      match s.popFor c q with
      | none => none
      | some (g, t, d) => t.popTo (if vals then { d with vals := d.vals ++ [g] } else { d with popped := d.popped ++ [g] }) q n vals f

/-- Bytes `o .. o+n-1` of a list of granules. -/
def granuleBytes (gs : List (Granule × Bool)) (o n : Nat) : List PByte :=
  (List.range n).map (fun i =>
    let g := gs.getD ((o + i) / 16) (0, false)
    (g.1.extractLsb' (8 * ((o + i) % 16)) 8, g.2))

/-- Pushes an entry for a command (R92, R284): onto the queue, which takes the strand's pending token, or, while the
strand is away, into the log of its shadow image, where the merge gives the first entry the token (R93); `none` while the queue or the
log is full, an earlier arrival is due or the table's page is moving. A queue of a strand that is gone drops it. -/
def State.pushFrom (s : State) (c : Cmd) (q : Nat) (v : Granule) (poison : Bool) : Option State :=
  match s.strand c.uid with
  | none => some s
  | some m =>
    if m.resident then
      let k := m.queues.toList.getD q Queue.reset
      if capacity q ≤ k.items.length then none
      else
        let e : Entry := { val := v, tok := m.avTok.toList.getD q none, poison := poison }
        some (s.modStrand c.uid (fun m =>
          { m with queues := m.queues.setIfInBounds q { k with items := k.items ++ [e] }, avTok := m.avTok.setIfInBounds q none }))
    else if m.status == .suspended then
      let d := s.diversionAt m (1 + q)
      let n := s.readVa m.ctx (d + 24) 4
      let src := tokenSrc c.token
      if s.readVa m.ctx (d + 4) 4 ≤ n || !s.inTurn (shadowKey c.uid) src || s.vaMoving m.ctx (s.saveArea m) 16384 then none
      else
        let r := v.toNat + 2 ^ 128 * s.gts.toNat + 2 ^ 192 * src + 2 ^ 208 * (if poison then 1 else 0)
        some (((s.took (shadowKey c.uid) src).writePa (s.shadow m + s.readVa m.ctx (d + 16) 8 + 32 * n) 32 r).writeVa m.ctx (d + 24) 4 (n + 1))
    else some s

/-! ## Gather and scatter (R193, R194) -/

/-- The index of element `i`, and its poison. -/
def State.indexOf (s : State) (c : Cmd) (i : Nat) (bad : Bool) : ERead :=
  let iw := c.fld 29 1
  if c.flags.getLsbD 0 then
    match s.popTo c (8 + c.fld 8 8) ((iw * i + iw + 15) / 16) false 4194304 with
    | none => .wait
    | some (t, d) => .ok (granuleBytes d.popped (iw * i) iw) t d
  else s.engRead c (BitVec.ofNat 64 (c.fld 8 8) + BitVec.ofNat 64 (iw * i)) iw bad

/-- The value of element `i` of a `scad`. -/
def State.valueOf (s : State) (c : Cmd) (i : Nat) (bad : Bool) : ERead :=
  let n := c.sumBytes
  if c.flags.getLsbD 1 then
    match s.popTo c (8 + c.fld 16 8) ((n * i + n + 15) / 16) true 4194304 with
    | none => .wait
    | some (t, d) => .ok (granuleBytes d.vals (n * i) n) t d
  else s.engRead c (BitVec.ofNat 64 (c.fld 16 8) + BitVec.ofNat 64 (n * i)) n bad

/-- The address of the table element that an index names. -/
def Cmd.tableVa (c : Cmd) (idx n : Nat) : Word := BitVec.ofNat 64 (c.fld 0 8) + BitVec.ofNat 64 (idx * n)

/-- Reads the table element that an index of a gather names, which is poisoned where the index is (R193). -/
def State.gathElement (s : State) (c : Cmd) (ix : List PByte) (bad : Bool) : ERead :=
  let n := c.fld 28 1
  let va := c.tableVa (numOf ix) n
  if va.toNat % n ≠ 0 then .stop 0x03 va
  else
    match s.engReadOf c va n bad true with
    | .ok bs t d => .ok (if ix.any (·.2) then bs.map (fun b => (b.1, true)) else bs) t d
    | e => e

/-- Adds two elements of a sum type (R194, R196). -/
def sumAdd (et a b : Nat) : Nat × FF :=
  match fmtOf et with
  | some f => f.add false 0 a b
  | none => ((a + b) % 2 ^ 32, 0)

/-- The greater of two elements (R196, R72). -/
def sumMax (et a b : Nat) : Nat × FF :=
  match fmtOf et with
  | some f => f.minMax false true a b
  | none => if et = 9 then (if signedOf 32 a < signedOf 32 b then b else a, 0) else (Nat.max a b, 0)

/-- The target of an element of a scatter, by its index. -/
def Cmd.scadTarget (c : Cmd) (ix : List PByte) : Word := c.tableVa (numOf ix) c.sumBytes

/-- Every earlier element of a scatter is added, or is known to go elsewhere (R194). -/
def State.scadTurn (s : State) (c : Cmd) (i : Nat) (va : Word) : Bool :=
  (List.range i).all (fun k => c.written.contains k ||
    (match assoc c.held k with | some ix => !s.sameTarget c (c.scadTarget ix) va | none => false))

/-! ## Collectives (R195, R196) -/

/-- Every member of this module has started. -/
def State.allStarted (s : State) (c : Cmd) : Bool :=
  (List.range c.members).all (fun k => s.memberAway c k || (match s.memberCmd c k with | some e => e.started | none => false))

/-- The number of the first free value that stands for contributions from other modules: one for the whole group. -/
def State.groupBase (s : State) (c : Cmd) : Nat :=
  (((List.range c.members).filterMap (s.memberCmd c)).head?.map (·.base)).getD c.base

/-- Element `i` of the contribution of rank `k`: read by its member, or, from another module, a free value. -/
def State.contribution (s : State) (c : Cmd) (k i : Nat) : Option (Nat × Bool) :=
  if s.memberAway c k then some ((Config.freeWord (s.groupBase c + k * c.fld 24 4 + i)).toNat % 2 ^ (8 * c.sumBytes), false)
  else
    match s.memberCmd c k with
    | some e => (assoc e.held i).map (fun h => (numOf h, h.any (·.2)))
    | none => none

/-- The contributions of every rank at `i`, combined in rank order. -/
def State.combine (s : State) (c : Cmd) (i : Nat) (f : Nat → Nat → Nat × FF) : Option (Nat × Bool × FF) :=
  (List.range c.members).foldl (fun acc k =>
    match acc, s.contribution c k i with
    | some (v, p, g), some (x, q) => if k = 0 then some (x, q, 0) else some ((f v x).1, p || q, g ||| (f v x).2)
    | _, _ => none) (some (0, false, 0))

/-- Element `j` of a member's result (R196). -/
def State.collElement (s : State) (c : Cmd) (j : Nat) : Option (Nat × Bool × FF) :=
  let et := c.fld 33 1
  let n := c.fld 24 4
  match c.fld 32 1 with
  | 0 => s.combine c j (sumAdd et)
  | 1 => s.combine c j (sumMax et)
  | 2 => s.combine c (c.rank * (n / c.members) + j) (sumAdd et)
  | 3 => (s.contribution c (j / n) (j % n)).map (fun x => (x.1, x.2, 0))
  | _ => (s.contribution c (c.fld 34 2) j).map (fun x => (x.1, x.2, 0))

/-- The bytes `off .. off+n-1` of a member's result. -/
def State.collBytes (s : State) (c : Cmd) (off n : Nat) : Option (List PByte × FF) :=
  let w := c.sumBytes
  (List.range ((off + n - 1) / w - off / w + 1)).foldl (fun acc i =>
    match acc, s.collElement c (off / w + i) with
    | some (bs, g), some (v, p, h) => some (bs ++ bytesOf w v p, g ||| h)
    | _, _ => none) (some ([], 0))
  |>.map (fun r => ((r.1.drop (off % w)).take n, r.2))

/-! ## Read units -/

/-- The elements of a gather, scatter or collective. -/
def Cmd.count (c : Cmd) : Nat := c.fld 24 4

/-- The read unit `n` of a command (R88, R94). Of a copy: the source bytes of the destination unit that begins at byte `n` (DESIGN
CHOICE, log entry 73). Of a gather of N elements: the table element of element `n` below N, whose index is read, and the index of
element `n` - N above. Of a scatter: the index of element `n` below N, and the value of element `n` - N above. Of a collective: an
element of the contribution. -/
def State.unitRead (s : State) (c : Cmd) (n : Nat) (bad : Bool) : ERead :=
  if c.kind = 0 && c.flags.getLsbD 0 then s.keepBytes c n bad
  else if c.kind = 1 then s.copyBytes c (16 * n) 16 bad
  else if c.kind ≤ 2 then s.copyBytes c n (c.unitOf n).2.1 bad
  else if c.kind = 3 then
    if n < c.count then
      match assoc c.held (c.count + n) with
      | some ix => s.gathElement c ix bad
      | none => .wait
    else s.indexOf c (n - c.count) bad
  else if c.kind = 4 then (if n < c.count then s.indexOf c n bad else s.valueOf c (n - c.count) bad)
  else s.engRead c (BitVec.ofNat 64 (c.fld 0 8) + BitVec.ofNat 64 (c.sumBytes * n)) c.sumBytes bad

/-- A command has a read unit of a number. -/
def Cmd.hasRead (c : Cmd) (n : Nat) : Bool :=
  if c.kind = 1 then decide (16 * n < c.streamLen)
  else if c.kind ≤ 2 then decide (n < c.streamLen) && (c.unitOf n).1 == n
  else if c.kind ≤ 4 then decide (n < 2 * c.count)
  else decide (n < c.count)

/-- A read unit has been performed: its bytes are held, or what they served is done. -/
def Cmd.wasRead (c : Cmd) (n : Nat) : Bool :=
  (assoc c.held n).isSome ||
  (c.kind == 1 && decide (n < c.next)) ||
  (c.kind == 3 && decide (c.count ≤ n) && (assoc c.held (n - c.count)).isSome) ||
  (c.kind == 4 && c.written.contains (n % c.count))

/-- The answer of a unit: its effect, or the pause, the stop or the wait that it meets. -/
def State.afterRead (s : State) (c : Cmd) (u : Nat) (r : ERead) (k : List PByte → State → Cmd → State) : State :=
  match r with
  | .ok bs t d => k bs t { d with poisoned := d.poisoned || bs.any (·.2) }
  | .fault cause va => s.engFault c u cause va
  | .stop cause va => s.endCmd c 2 cause va
  | .wait => s

/-- Puts back a command that a unit has changed. -/
def State.putCmd (s : State) (c : Cmd) : State := s.modCmd c.token (fun _ => c)

/-- What a command holds after a read unit: its bytes; a table element takes the place of its index. -/
def Cmd.keep (c : Cmd) (n : Nat) (bs : List PByte) : Cmd :=
  let l := if c.kind = 3 && n < c.count then c.held.filter (fun h => h.1 != c.count + n) else c.held
  { c with held := l ++ [(n, bs)] }

/-- Performs a read unit (R94). -/
def State.readUnit (s : State) (c : Cmd) (n : Nat) (bad : Bool) : State :=
  if !c.hasRead n || c.wasRead n then s
  else s.afterRead c (2 * n) (s.unitRead c n bad) (fun bs t d => t.putCmd (d.keep n bs))

/-! ## Reads that could trap when they are performed (R116, R129; log entry 96) -/

/-- A location on another module. -/
def State.away (s : State) (l : Loc) : Bool :=
  match l.pa with
  | some pa => s.remote pa
  | none => false

/-- The surface records that a command takes numbers of, as it knows them. -/
def Cmd.writes (c : Cmd) : List Surf := c.recs.filter (fun f => c.surfs.any (fun p => p.1 == f.n))

/-- The ranges that a command writes, as far as its block tells. -/
def Cmd.dests (c : Cmd) : List (Word × Nat) :=
  if c.isTier then []
  else if c.kind = 0 || c.kind = 2 then (Copy.of c.block.toNat).dsts
  else if c.kind = 3 && !c.flags.getLsbD 1 then [(BitVec.ofNat 64 (c.fld 16 8), c.streamLen)]
  else if c.kind = 5 then [(BitVec.ofNat 64 (c.fld 8 8), (if c.fld 32 1 = 3 then 1024 else 1) * c.count * c.sumBytes)]
  else []

/-- An open command of the context may still write an address, or bring another side of it into view. -/
def State.exposed (s : State) (va : Word) (n : Nat) : Bool :=
  s.cmds.any (fun c => c.open && c.ctx == s.me.ctx &&
    (c.dests.any (fun r => rangesMeet r.1.toNat r.2 va.toNat n) ||
     ((c.kind == 4 || c.kind == 6) && (c.writes.any (fun f => rangesMeet f.base f.len va.toNat n) || c.writes.isEmpty))))

/-- A pending load or AMO may be performed now. -/
def State.firm (s : State) (o : AOp) : Bool :=
  match o.kind with
  | .load _ n _ _ => s.loadReady o && (s.loadValue o (s.placeNow s.me.ctx o.place) n).isSome
  | .amo _ _ _ _ _ _ _ => s.amoReady o
  | _ => true

/-- The A-thread, or the X-thread, has issued words past the one of a pending operation. -/
def Strand.passedA (m : Strand) (o : AOp) : Bool := m.a.pc != o.pc + 4 || m.anext != o.id + 1
def Strand.passedV (m : Strand) (o : VOp) : Bool := m.x.pc != o.pc + 4 || m.vins != o.ins + 1

/-- A pending load or AMO would trap if it were performed now, or could still come to: its home is on another module, or it must wait
while a command may yet write its location or change the side in view. The A-thread issues nothing past it, so that its trap is precise
(R116, R117; DEDUCED, log entry 96). -/
def State.risky (s : State) (o : AOp) : Bool :=
  let l := s.placeNow s.me.ctx o.place
  let open' (n : Nat) : Bool := s.away l || (s.exposed o.va n && !s.firm o)
  match o.kind with
  | .load _ n _ _ => ((match l with | .absent _ => true | _ => s.poisonedAt l n) &&
        (match s.loadValue o l n with | some (_, home) => home | none => true)) || open' n
  | .amo _ _ n _ _ _ _ => s.poisonedAt l n || open' n
  | _ => false

/-- The same of a pending read of the V pipe, and the X-thread (R136, R138). -/
def State.riskyV (s : State) (o : VOp) : Bool :=
  let bad (w : Nat) : Bool :=
    let p := s.vPieces o w
    p.1.any (fun l => (match l.1 with | .absent _ => true | k => s.poisonedAt k l.2) || s.away l.1) ||
      (s.exposed o.va ((o.bit + w + 7) / 8) && !s.vReady o)
  match o.kind with
  | .load _ w => bad w
  | .scale _ _ => bad 8
  | _ => false

/-- The thread at hand issues nothing: a read that it has pending would trap now, or could still come to (R129; log entry 96). -/
def State.trapsAhead (s : State) : Bool :=
  match s.thr with
  | .a => s.me.aops.any s.risky
  | .x => s.me.vops.any s.riskyV

/-- A read of a register by a thread or a V pipe is pending at a location that a write is about to poison, and may be performed now, or
the thread has issued past it: the write waits for it, so that the instructions behind the read have not seen it trap (log entry 96). -/
def State.readPending (s : State) (l : Loc) (n : Nat) : Bool :=
  s.strands.any fun m =>
    m.resident &&
    (m.aops.any (fun o => (o.reads && !o.sameStream o || o.amo) && o.touches l n && ((s.focus m.uid .a).firm o || m.passedA o)) ||
     m.vops.any (fun v => v.loads && v.spans.any (fun r => r.1.meets r.2 l n) && ((s.focus m.uid .a).vReady v || m.passedV v)))

/-- A read of surface `n` is pending that would trap, once its visible side is `side`, at a location that is poisoned or does not
translate, and may be performed now, or its thread has issued past it: the flip waits for it, for the same reason (log entry 96). -/
def State.flipHeld (s : State) (ctx n : Nat) (side : Bool) : Bool :=
  let bad (p : Place) (k : Nat) : Bool :=
    match p.twin with
    | some (m, l1) => m == n && (match (if side then l1 else p.loc) with | .absent _ => true | l => s.poisonedAt l k)
    | none => false
  s.strands.any fun m =>
    m.ctx == ctx && m.resident &&
    (m.aops.any (fun o =>
       (match o.kind with | .load _ k _ _ => bad o.place k | _ => false) && ((s.focus m.uid .a).firm o || m.passedA o)) ||
     m.vops.any (fun v => v.loads && !m.samples.any (fun e => e.1 == v.ins && e.2.1 == n) &&
       (bad v.place ((v.bit + v.width + 7) / 8) || (v.far.map (fun q => bad q 1)).getD false) &&
       ((s.focus m.uid .a).vReady v || m.passedV v)))

/-! ## Write units -/

/-- The bytes of a write unit, when its reads are performed. -/
def State.unitBytes (s : State) (c : Cmd) (off n : Nat) : Option (List PByte × FF) :=
  if c.kind ≤ 2 then
    (assoc c.held (c.unitOf off).1).map (fun h => ((h.drop (off - (c.unitOf off).1)).take n, 0))
  else if c.kind = 3 then
    let w := c.fld 28 1
    (List.range ((off + n - 1) / w - off / w + 1)).foldl (fun acc i =>
      match acc, assoc c.held (off / w + i) with
      | some bs, some h => some (bs ++ h)
      | _, _ => none) (some [])
    |>.map (fun bs => ((bs.drop (off % w)).take n, 0))
  else if s.allStarted c then s.collBytes c off n
  else none

/-- A write of a unit with its poison may be performed now: it is its turn at the home (R284), and no read that its poison would trap
is pending (log entry 96). -/
def State.mayStore (s : State) (c : Cmd) (l : Loc) (bs : List PByte) : Bool :=
  s.mayReach l (tokenSrc c.token) && (!bs.any (·.2) || !s.readPending l bs.length)

/-- Notes the page of an address that a copy writes whole in tier 1. -/
def State.noteFlash (s : State) (c : Cmd) (l : Loc) (va : Word) : Cmd :=
  let page := BitVec.ofNat 64 (va.toNat / 65536 * 65536)
  match l with
  | .mem pa => if s.tierOf pa = 1 && !c.flashed.contains page then { c with flashed := c.flashed ++ [page] } else c
  | _ => c

/-- Stores a part of a block: in place, or, in a compressed surface, with the whole block that it lies in, which is compressed
anew (R190, R194). -/
def State.storeElement (s : State) (l : Loc) (pte : Option Nat) (f : Option Surf) (bs : List PByte) : State :=
  match f, l with
  | some g, .mem pa =>
    if g.compressed then
      let b := pa / 4096 * 4096
      let at' : Loc := .aperture b g.elemBytes
      let old : List PByte := (List.range 4096).map (fun i => (s.homeByte at' i, s.poisonedByte at' i))
      s.storeBlock b pte g.elemBytes (old.take (pa - b) ++ bs ++ old.drop (pa - b + bs.length))
    else s.engStore l pte bs
  | _, _ => s.engStore l pte bs

/-- Writes a unit at its destination: plain bytes, a block to compress, or a block as stored (R190). -/
def State.writeAt (s : State) (c : Cmd) (off n : Nat) (bs : List PByte) : State :=
  let va := c.destVa off
  let keep := c.kind == 0 && c.flags.getLsbD 0
  match s.engPlace c va n .store false with
  | .fault cause => s.engFault c (2 * off + 1) cause va
  | .stop cause => s.endCmd c 2 cause va
  | .wait => s
  | .ok l pte f s1 c1 =>
    if !s.mayStore c l bs then s
    else
      let p := s1.countEngine c1 l va false
      let w := match f with | some g => g.elemBytes | none => 1
      let pa := l.pa.getD 0
      let d := (bs.headD (0, false)).1.toNat
      let s2 :=
        if keep then (p.1.engStore l pte (bs.drop 1)).setBlock pa d
        else if n = 4096 then p.1.storeBlock pa pte w bs
        else p.1.storeElement l pte f bs
      let c2 := s2.noteFlash { p.2 with written := off :: p.2.written, poisoned := p.2.poisoned || bs.any (·.2) } l va
      (s2.reached l (tokenSrc c.token)).putCmd c2

/-- Performs a write unit of memory (R94, R199). -/
def State.memUnit (s : State) (c : Cmd) (off : Nat) : State :=
  let g := c.unitOf off
  let n := if g.2.2 then g.2.1 else 1
  if !decide (off < c.streamLen) || (g.2.2 && g.1 != off) || c.written.contains off || !s.rowsBefore c off n then s
  else
    match (if c.kind = 0 && c.flags.getLsbD 0 then (assoc c.held off).map (fun h => (h, (0 : FF))) else s.unitBytes c off n) with
    | none => s
    | some (bs, fl) =>
      let c1 := { c with fpflags := c.fpflags ||| fl }
      (s.putCmd c1).writeAt c1 off n bs

/-- Pushes the next entry of a command that feeds a queue (R188, R193). -/
def State.pushUnit (s : State) (c : Cmd) (q n : Nat) : State :=
  if n ≠ c.next || c.streamLen ≤ 16 * n then s
  else
    match (if c.kind = 1 then (assoc c.held n).map (fun h => (h, (0 : FF)))
           else s.unitBytes c (16 * n) (Nat.min 16 (c.streamLen - 16 * n))) with
    | none => s
    | some (bs, _) =>
      match s.pushFrom c q (BitVec.ofNat 128 (numOf bs)) (bs.any (·.2)) with
      | none => s
      | some t => t.putCmd { c with next := n + 1, held := if c.kind = 1 then c.held.filter (·.1 != n) else c.held }

/-- Adds an element of a scatter, in one transition at its home (R194). A poisoned index or value adds poison (R186; log entry 73). -/
def State.addUnit (s : State) (c : Cmd) (i : Nat) : State :=
  match assoc c.held i, assoc c.held (c.count + i) with
  | some ix, some v =>
    let va := c.scadTarget ix
    let n := c.sumBytes
    let et := c.fld 28 1
    if c.written.contains i || !s.scadTurn c i va then s
    else if va.toNat % n ≠ 0 then s.endCmd c 2 0x03 va
    else
      match s.engPlace c va n .amo false with
      | .fault cause => s.engFault c (2 * i + 1) cause va
      | .stop cause => s.endCmd c 2 cause va
      | .wait => s
      | .ok l pte f s1 c1 =>
        let from' : Loc := match f, l with
          | some g, .mem pa => if g.compressed then .aperture pa g.elemBytes else l
          | _, _ => l
        let r := sumAdd et (s.readHome from' n) (numOf v)
        let bad := s.poisonedAt from' n || v.any (·.2) || ix.any (·.2)
        let out := bytesOf n r.1 bad
        if !s.mayStore c l out then s
        else
          let p := s1.countEngine c1 l va false
          ((p.1.storeElement l pte f out).reached l (tokenSrc c.token)).putCmd
            { p.2 with written := i :: p.2.written, held := p.2.held.filter (fun h => h.1 != c.count + i),
                       fpflags := p.2.fpflags ||| r.2, poisoned := p.2.poisoned || bad }
  | _, _ => s

/-- A popped token holds a command behind V operations of its strand (R93). -/
def State.cmdHeld (s : State) (c : Cmd) : Bool :=
  match s.strand c.uid with
  | some m => m.vops.any (fun v => decide (v.id < c.hold))
  | none => false

/-- A read unit that pops granules from a queue (R193, R194). -/
def Cmd.popsAt (c : Cmd) (n : Nat) : Bool :=
  (c.kind == 3 && c.flags.getLsbD 0 && decide (c.count ≤ n)) || (c.kind == 4 && c.flags.getLsbD (if n < c.count then 0 else 1))

/-- Performs a unit of a command (R94): a read, or a write, push or add, which wait for its start, but for the pops of its queues, which
come before it (R193). A unit at which the command is paused waits for its handler. -/
def State.unit (s : State) (c : Cmd) (n : Nat) (w bad : Bool) : State :=
  if !w && c.popsAt n then s.readUnit c n bad
  else if !c.started || 5 < c.kind || c.isTier || s.cmdHeld c || (c.paused.map (·.1)) == some (2 * n + (if w then 1 else 0)) then s
  else if !w then s.readUnit c n bad
  else
    match c.toQueue with
    | some q => s.pushUnit c q n
    | none => if c.kind = 4 then s.addUnit c n else s.memUnit c n

/-- ENGINE_UNIT (R94): unit `n` of a command, a read or (`w`) a write, push or add; `bad` is an uncorrectable error of the
medium that it reads (R288). -/
def execEngineUnit (t : BitVec 64) (n : Nat) (w bad : Bool) (s : State) : Out :=
  match s.cmd t with
  | some c => .next (s.unit c n w bad)
  | none => .next s

/-! ## Start (R94, R191, R195) -/

/-- The operations that the strand issued before a command are performed, it has popped what it pops, and no popped token holds it
(R94, R193). -/
def State.startReady (s : State) (c : Cmd) : Bool :=
  !s.cmdHeld c && s.seqReady c && [8, 9, 10, 11].all (fun q => !c.stillPops q) &&
  (match s.strand c.uid with
   | some m => m.aops.all (fun o => decide (c.aop ≤ o.id))
   | none => true)

/-- The pages that a tier transfer or a `mig` includes: leaves, moving or not, named by their first page. -/
def State.movePages (s : State) (c : Cmd) : List Word :=
  let va := BitVec.ofNat 64 (c.fld 0 8)
  let ps := if c.kind = 9 then (List.range (c.fld 8 4)).map (fun k => va + BitVec.ofNat 64 (65536 * k))
    else match surfIn c.recs va with
      | some f => f.pages va (c.fld 16 4)
      | none => []
  ps.filter (fun p => match s.leafOf c.ctx p with | some (_, _, n) => decide (p.toNat % n = 0) | none => true)

/-- The target tier of a move. -/
def Cmd.target (c : Cmd) : Nat := if c.kind = 9 then c.fld 12 1 % 4 else c.fld 8 8 % 4

/-- The frame of a page, moving or not. -/
def State.frameOf (s : State) (ctx : Nat) (va : Word) : Option Nat := (s.leafOf ctx va).map (fun l => leafPa l.1 l.2.2 va)

/-- A frame of a leaf is held (R304). -/
def State.heldLeaf (s : State) (ctx : Nat) (va : Word) : Bool :=
  match s.leafOf ctx va with
  | some (e, _, n) => (List.range (n / 65536)).any (fun k => s.heldFrame (leafPa e n va / n * n + 65536 * k))
  | none => false

/-- Starts a move of pages: a held frame ends it in state 3 (R304); pages that are there already do not move (R191). -/
def State.startMove (s : State) (c : Cmd) : State :=
  let ps := s.movePages c
  if ps.any (s.heldLeaf c.ctx) then s.endCmd c 3 0 0
  else
    s.putCmd { c with started := true, table := ps.filter (fun p =>
      match s.rawPa c.ctx p with | some pa => c.kind == 9 || s.tierOf pa != c.target | none => true) }

/-- The group table of a collective, read at its start: its header and its members (R195), which the model reads in one transition
(DESIGN CHOICE, log entry 73). -/
def State.groupTable (s : State) (c : Cmd) : ERead :=
  let g := BitVec.ofNat 64 (c.fld 16 8)
  match s.engRead c g 8 false with
  | .ok h t d =>
    match t.engRead d (g + 8) (4 * (numOf h % 65536 % 1025)) false with
    | .ok m t' d' => .ok (h ++ m) t' d'
    | e => e
  | e => e

/-- The table that its bytes hold. -/
def tableOf (bs : List PByte) : List Word :=
  BitVec.ofNat 64 (numOf (bs.take 8)) :: (elements 4 (bs.drop 8)).map (fun e => BitVec.ofNat 64 (numOf e))

/-- A member's own table rejects its collective (R196): it is malformed, its entry does not name the member, it spans
modules under scope `pkg`, or the elements do not divide. -/
def State.ownReject (s : State) (c : Cmd) : Bool :=
  let p := c.members
  let me := c.table.getD (c.rank + 1) 0
  p == 0 || decide (1024 < p) || decide (p ≤ c.rank) || bits (c.table.headD 0).toNat 63 32 != 0 ||
  memberModule me != s.platform.moduleNo || memberDie me != c.die || memberCtx me != c.ctx ||
  (c.scope == 2 && (List.range p).any (s.memberAway c)) ||
  (c.fld 32 1 == 2 && decide (c.fld 24 4 % p ≠ 0)) || (c.fld 32 1 == 4 && decide (p ≤ c.fld 34 2))

/-- Two members disagree on members, op, elements, element type or root (R196). -/
def Cmd.disagrees (c e : Cmd) : Bool :=
  c.members != e.members || c.fld 32 1 != e.fld 32 1 || c.fld 24 4 != e.fld 24 4 || c.fld 33 1 != e.fld 33 1 ||
  c.fld 34 2 != e.fld 34 2

/-- A command is rejected: it completes with state 3 and writes nothing (R196). -/
def State.rejectCmd (s : State) (c : Cmd) : State :=
  (s.modCmd c.token (fun x => { x with rejected := true })).endCmd { c with rejected := true } 3 0 0

/-- Every started command whose table names a rejected one is rejected too: `n` of them at most (R196). One that no table of the
group names, and that names none of it, is no member and goes on (R182). -/
def State.rejectNamers (s : State) : Nat → State
  | 0 => s
  | n + 1 =>
    match s.cmds.find? (fun e => e.kind == 5 && e.started && !e.done && !e.rejected &&
        (s.homeMembers e).any (fun k => match s.memberCmd e k with | some o => o.rejected | none => false)) with
    | some e => (s.rejectCmd e).rejectNamers n
    | none => s

/-- Rejects a collective that a command joins: its own token, and those of the members that name it (R196). -/
def State.rejectGroup (s : State) (c : Cmd) : State := (s.rejectCmd c).rejectNamers s.cmds.length

/-- Starts a member of a collective (R195, R196). A member of another module agrees, or not, by a free value. -/
def State.startColl (s : State) (c : Cmd) : State :=
  match s.groupTable c with
  | .wait => s
  | .fault cause va => s.endCmd c 2 cause va
  | .stop cause va => s.endCmd c 2 cause va
  | .ok bs t d =>
    if bs.any (·.2) then s.endCmd c 2 0x09 (BitVec.ofNat 64 (c.fld 16 8))
    else
      let c1 := { d with table := tableOf bs, started := true, base := t.free }
      let away := (List.range c1.members).any (s.memberAway c1)
      let t1 := { t with free := t.free + c1.members * c1.fld 24 4 }
      let t2 := if away then t1.drawFree.2 else t1
      let others := (List.range c1.members).filterMap (t2.memberCmd c1)
      let bad := s.ownReject c1 || (away && t1.drawFree.1.getLsbD 0) || others.any (fun e => e.rejected || (e.started && e.token != c1.token && c1.disagrees e))
      let t3 := t2.putCmd c1
      if bad then t3.rejectGroup c1 else t3

/-- ENGINE_START (R94): the command's agent may begin reading its source; it samples the sides of the twin surfaces that
it writes (R95). A cancelled page-out ends instead (R192). -/
def execEngineStart (t : BitVec 64) (s : State) : Out :=
  match s.cmd t with
  | none => .next s
  | some c =>
    if c.isTier && c.rejected then .next (s.endCmd c 4 0 0)
    else if c.started || c.kind = 6 || !s.startReady c then .next s
    else
      let c1 := { c with destSides := c.writes.map (fun f => (f.n, s.sideNow f)) }
      let s1 := (s.dropCmdOp c.uid c.token).putCmd c1
      .next (if c.kind = 5 then s1.startColl c1
             else if c.kind = 9 || c.isTier then s1.startMove c1
             else s1.putCmd { c1 with started := true })

/-! ## Completion (R94, R184) -/

/-- What a collective needs of its own contribution is read: all of it, but for a broadcast by another rank. Its token completes only
then, so that the program may write the contribution again (DEDUCED, log entry 73). -/
def Cmd.contributed (c : Cmd) : Bool := (c.fld 32 1 == 4 && c.fld 34 2 != c.rank) || decide (c.count ≤ c.held.length)

/-- Every write unit and every push of a command is performed. -/
def State.unitsDone (s : State) (c : Cmd) : Bool :=
  if c.kind = 9 || c.isTier then c.table.isEmpty && c.moving.isNone && s.seqReady c && (c.kind != 16 || c.next == 1)
  else
    match c.toQueue with
    | some _ => decide (c.streamLen ≤ 16 * c.next)
    | none => if c.kind = 4 then c.written.length == c.fld 24 4 else c.bytesWritten == c.streamLen && (c.kind != 5 || c.contributed)

/-- ENGINE_TOKEN_COMPLETE (R94): state 1, or 5 with poisoned units (R186). -/
def execEngineTokenComplete (t : BitVec 64) (s : State) : Out :=
  match s.cmd t with
  | some c => .next (if c.started && s.unitsDone c then s.endCmd c (if c.poisoned then 5 else 1) 0 0 else s)
  | none => .next s

/-! ## Resolution of faults (R186, R287, R291) -/

/-- Releases a paused command: its unit is tried again, or its token completes with state 2, the cause and the address. -/
def State.release (s : State) (c : Cmd) (ok : Bool) : State :=
  match c.paused with
  | none => s
  | some (_, cause, va) => if ok then s.modCmd c.token (fun e => { e with paused := none }) else s.endCmd c 2 cause va

/-- ENGINE_FAULT_RESOLUTION (R186): the handler of the context resolves a fault that was
reported to it, or declares it unresolvable; one that stands in an absent-fault queue is resolved there (R287). -/
def execEngineFaultResolution (t : BitVec 64) (ok : Bool) (s : State) : Out :=
  match s.cmd t with
  | some c => .next (if (s.absentEntry c).isNone then s.release c ok else s)
  | none => .next s

/-- A write of bit 1 or 2 of an entry of an absent-fault queue is performed: its command is released, and the entry becomes empty
(R287). Nothing happens while the entry's page is moving (R295). -/
def State.releaseAbsent (s : State) (c : Cmd) : State :=
  match s.absentEntry c with
  | some (m, k) =>
    let fl := if s.imageAt m then s.absentFlags m k else 0
    if fl % 2 = 1 && fl / 2 % 4 ≠ 0 then
      let t := s.release c (fl / 2 % 2 = 1)
      match t.cmd c.token with
      | some d => if d.paused.isNone then (t.absentEmpty c).modCmd c.token (fun e => { e with absent := none }) else t
      | none => t
    else s
  | none => s

/-- What the writes performed so far release. -/
def State.released (s : State) : State := (s.cmds.filter (·.absent.isSome)).foldl State.releaseAbsent s

/-- ABSENT_FAULT_RESOLVE (R286, R287): firmware sets bit 1, or bit 2, of entry `n` of a strand's absent-fault queue, while the entry
has neither; the command is released. -/
def execAbsentFaultResolve (u n : Nat) (ok : Bool) (s : State) : Out :=
  match s.strand u with
  | none => .next s
  | some m =>
    if n ≥ 16 || s.absentFlags m n % 8 != 1 then .next s
    else .next (s.writeVa m.ctx (s.absentAt m n + 1) 1 (if ok then 3 else 5)).released

/-- ENGINE_INTERNAL_ERROR (R291): the commands of the context that the unit of a token serves complete with state 2 and
cause 0x13; the strands go on. -/
def execEngineInternalError (t : BitVec 64) (s : State) : Out :=
  .next ((s.cmds.filter (fun c => c.open && c.ctx == tokenCtx t && tokenSrc c.token == tokenSrc t)).foldl
    (fun u c => u.endCmd c 2 0x13 0) s)

/-! ## Publish (R95, R197) -/

/-- Flips the side bit of a surface record. -/
def State.flipSide (s : State) (f : Surf) : State := s.writePa (f.addr + 34) 1 (if s.sideNow f then 0 else 1)

/-- The release of a `pub` holds it back: its scope, package or domain, is in force, and an operation that its A-thread issued before
it is not performed (R95, R97). -/
def State.pubHeld (s : State) (c : Cmd) : Bool :=
  match s.strand c.uid with
  | none => false
  | some m => (s.focus c.uid .a).inForce (if c.scope = 3 then 3 else 2) && m.aops.any (fun o => decide (o.id < c.aop))

/-- A `pub` may flip: every earlier transfer of its surface is complete, no popped token holds it, its release is met, and no read
that the flip would trap is pending (R93, R95; log entry 96). -/
def State.flipReady (s : State) (c : Cmd) : Bool :=
  c.kind == 6 && s.seqReady c && !s.cmdHeld c && !s.pubHeld c && c.writes.all (fun f => !s.flipHeld c.ctx f.n (!s.sideNow f))

/-- PUB_FLIP (R95): the side bit flips in one transition and the token completes. -/
def execPubFlip (t : BitVec 64) (s : State) : Out :=
  match s.cmd t with
  | some c => .next (if s.flipReady c then (c.writes.foldl State.flipSide s).endCmd c 1 0 0 else s)
  | none => .next s

end Sys2Proof.Machine
end

