-- ==== Sys2Proof/Machine/Paging.lean ====
section
/-!
DEFINITION. Page walks and the movement of pages (R295-R298, R302, R304, R207, R211, R332).
-/

namespace Sys2Proof.Machine

/-! ## Walks -/

/-- PAGE_WALK (R295): a walk reads the entries from level 3 down, sets the accessed bit and caches a valid leaf; a moving
or invalid entry is not cached (R296, R298). -/
def execPageWalk (ctx die core : Nat) (va : BitVec 64) (s : State) : Out :=
  match s.walk ctx va with
  | .leaf e pte size =>
    .next ((if e.getLsbD 6 then s else s.orPte pte 64).tlbFill ctx die (some core) va (e ||| 64) pte size)
  | _ => .next s

/-- A thread that waits for a walk walks again. -/
def Thread.walkAgain (t : Thread) : Thread := if t.wait = .walk then { t with wait := .none } else t

/-- WALK_RETRY (R295): the walks of the strand at hand that wait on a moving page are tried again. -/
def execWalkRetry (s : State) : Out :=
  .next { s with me := { s.me with a := s.me.a.walkAgain, x := s.me.x.walkAgain } }

/-! ## Flash (R332) -/

/-- A tier-1 address lies in a stack without spare blocks (R332). -/
def State.flashSpent (s : State) (pa : Nat) : Bool :=
  s.tierOf pa == 1 && s.spares.toList.getD (s.flashBlock pa).1 0 == 0

/-! ## Free frames (R317) -/

/-- The free-frame list of a tier of a context. -/
def State.freeList (s : State) (ctx tier : Nat) : Nat := s.ctxFld ctx (80 + 8 * tier) 8

/-- Takes the last frame of a free-frame list. -/
def State.takeFrame (s : State) (ctx tier : Nat) : Option (Nat × State) :=
  let l := s.freeList ctx tier
  let n := s.readPa l 8
  if l = 0 || n = 0 then none else some (s.readPa (l + 8 * n) 8, s.writePa l 8 (n - 1))

/-- Gives a frame back to a free-frame list. -/
def State.giveFrame (s : State) (ctx tier pa : Nat) : State :=
  let l := s.freeList ctx tier
  let n := s.readPa l 8
  if l = 0 then s else (s.writePa (l + 8 * (n + 1)) 8 pa).writePa l 8 (n + 1)

/-! ## Moving a page (R302) -/

/-- Copies the cells of a frame to another. -/
def copyCells (m : List Host.Cell) (old new n : Nat) : List Host.Cell :=
  (m.filter (fun c => decide (old ≤ c.1) && decide (c.1 < old + n))).foldl (fun t c => cellSet t (c.1 - old + new) c.2)
    (m.filter (fun c => !(decide (new ≤ c.1) && decide (c.1 < new + n))))

/-- Moves the keys of a list that lie in a range, over those of another range. -/
def copyKeys (l : List Nat) (old new n : Nat) : List Nat :=
  (l.filter (fun k => !(decide (new ≤ k) && decide (k < new + n)))) ++
  ((l.filter (fun k => decide (old ≤ k) && decide (k < old + n))).map (fun k => k - old + new))

/-- Copies a frame: its bytes, its poison and the descriptors of its compressed blocks (R302 step 3). -/
def State.copyFrame (s : State) (old new n : Nat) : State :=
  let o := s.normPa old
  let w := s.normPa new
  { s with
    mem := copyCells s.mem o w n
    poison := copyKeys s.poison (o / 16) (w / 16) (n / 16)
    blocks := s.blocks.filter (fun b => !(decide (w ≤ b.1) && decide (b.1 < w + n))) ++
      ((s.blocks.filter (fun b => decide (o ≤ b.1) && decide (b.1 < o + n))).map (fun b => (b.1 - o + w, b.2))) }

/-- Copies dev, host and flags of the counter records of a frame (R302 step 5). -/
def State.copyCounters (s : State) (old new n : Nat) : State :=
  (List.range (n / 65536)).foldl (fun t k =>
    match t.counterRec (old + 65536 * k), t.counterRec (new + 65536 * k) with
    | some a, some b => (t.writePa b 4 (t.readPa a 4)).writePa (b + 6) 1 (t.readPa (a + 6) 1)
    | _, _ => t) s

/-- The surface that a page belongs to, on either side, among records in order. -/
def pageSurf (l : List Surf) (va : Word) : Option Surf := (surfIn l va).orElse fun _ => side1In l va

/-- What the surface records take of a leaf of `k` pages that has moved, each surface for its own pages: at once for a `mig` (R207), and
for a tier transfer when its token completes (R191). -/
def State.noteMove (s : State) (c : Cmd) (va : Word) (oldTier newTier k : Nat) : State × Cmd :=
  let fs := (List.range k).filterMap (fun i => pageSurf c.recs (va + BitVec.ofNat 64 (65536 * i)))
  let parts := fs.eraseDups.map (fun f => (f, oldTier, newTier, fs.count f))
  if c.isTier then (s, { c with moved := c.moved ++ parts })
  else (parts.foldl (fun t p => t.recordMove c.ctx p.1 oldTier newTier p.2.2.2) s, c)

/-- The page of a command that moves next has been dealt with. -/
def Cmd.nextPage (c : Cmd) : Cmd := { c with table := c.table.drop 1, moving := none, next := if c.kind = 16 then c.next else c.next + 1 }

/-- The frame that a page goes to: the runtime's choice, or the last of the context's free list (R302). A frame that is not
aligned to the leaf, or lies in a stack that takes no more pages, is none. -/
def State.targetFrame (s : State) (c : Cmd) (va : Word) (size : Nat) : Option (Nat × State) :=
  let pick := if c.kind = 9 then some (c.fld 16 8 + (va.toNat - c.fld 0 8), s) else s.takeFrame c.ctx c.target
  match pick with
  | some (pa, t) => if pa % size ≠ 0 || t.flashSpent pa then none else some (pa, t)
  | none => none

/-- One 64 KiB page of a frame that moves from a slow tier to tier 0 (R186, R288): an uncorrectable error of the medium, which a free
value brings, or poison that stands in it, is answered from the replica when there is one, else it stands as poison. Either is
counted and logged once for the page. The answer says whether poison is left. -/
def State.slowPage (s : State) (c : Cmd) (va : Word) (old new : Nat) : Bool × State :=
  let hurt := (List.range 4096).filter (fun g => s.poisonedPa (old + 16 * g))
  let fails := s.drawFree.1.getLsbD 0
  let s1 := s.drawFree.2
  let gs := if fails then (bits s.drawFree.1.toNat 12 1) :: hurt else hurt
  if gs.isEmpty then (false, s1)
  else
    let rep := match pageSurf c.recs va with
      | some f => if f.hasReplica then s1.replicaBytes c.ctx (BitVec.ofNat 64 (f.replica + (va.toNat - f.base))) 65536 else none
      | none => none
    let s2 := (s1.bumpCounter 2).logPoison (s1.normPa old) c.ctx (s1.tierOf old) rep.isSome
    match rep with
    | some bs => (false, gs.foldl (fun t g => t.writePa (new + 16 * g) 16 (numOf ((bs.drop (16 * g)).take 16))) (s2.bumpCounter 3))
    | none => (true, gs.foldl (fun t g => t.setPoison (new + 16 * g) true) s2)

/-- The pages of a frame that has been copied: their errors, where they leave a slow tier for tier 0; else the poison they hold. -/
def State.framePages (s : State) (c : Cmd) (va : Word) (old new size : Nat) : Bool × State :=
  if s.tierOf new = 0 && s.tierOf old != 0 && !s.remote old then
    (List.range (size / 65536)).foldl (fun acc k =>
      let r := acc.2.slowPage c (va + BitVec.ofNat 64 (65536 * k)) (old + 65536 * k) (new + 65536 * k)
      (acc.1 || r.1, r.2)) (false, s)
  else ((List.range (size / 16)).any (fun g => s.poisonedPa (old + 16 * g)), s)

/-- The flash controller takes the pages of a frame of tier 1 (R211). -/
def State.flashPages (s : State) (new size : Nat) : State :=
  if s.tierOf new = 1 then (List.range (size / 65536)).foldl (fun t k => t.flashWrite (new + 65536 * k)) s else s

/-- The leaf entry of a page that moves no more, as it was, with MV = 0. -/
def State.unmove (s : State) (pte : Nat) : State := s.writePa pte 8 (s.readPa pte 8 - bits (s.readPa pte 8) 8 8 * 256)

/-- Steps 2 to 6 of a move, once every access through the old translation is performed (R297, R302). -/
def State.finishMove (s : State) (c : Cmd) (va : Word) (pte : Nat) (size : Nat) : State :=
  match s.targetFrame c va size with
  | none => (s.unmove pte).endCmd c 2 0x05 va
  | some (new, s1) =>
    let e := BitVec.ofNat 64 (s1.readPa pte 8)
    let old := leafPa e size va / size * size
    let keep : Word := e &&& 0xFFF000000000FEFF
    let s2 := (s1.invalidate va (BitVec.ofNat 64 c.ctx)).copyFrame old new size
    let q := s2.framePages c (BitVec.ofNat 64 (va.toNat / size * size)) old new size
    let s3 := ((q.2.flashPages new size).writePa pte 8 (keep ||| BitVec.ofNat 64 (new / 65536 * 65536 % 2 ^ 52)).toNat).copyCounters old new size
    let s4 := s3.giveFrame c.ctx (s.tierOf old) old
    let r := s4.noteMove { c with poisoned := c.poisoned || q.1 } va (s.tierOf old) (s4.tierOf new) (size / 65536)
    r.1.putCmd r.2.nextPage

/-- Step 1 of a move (R302): MV is set by atomic OR, and no TLB keeps the translation (R296). -/
def State.setMoving (s : State) (pte : Nat) : State :=
  let s1 := s.writePa pte 8 (Nat.lor (s.readPa pte 8) 256)
  { s1 with tlb := s1.tlb.filter (fun e => e.pte != pte) }

/-- No page of the replicas of a leaf's pages is moving (R295). -/
def State.replicasStill (s : State) (c : Cmd) (va : Word) (size : Nat) : Bool :=
  let base := va.toNat / size * size
  (List.range (size / 65536)).all (fun k =>
    let p := BitVec.ofNat 64 (base + 65536 * k)
    s.replicaStill c.ctx (pageSurf c.recs p) p 65536)

/-- One move of a page: first MV is set in its leaf, then, once the accesses through it are performed, the rest (R302). A
page that is not mapped pauses the command (R186); a page that another command moves waits. -/
def State.movePage (s : State) (c : Cmd) : State :=
  match c.table with
  | [] => s
  | va :: _ =>
    match c.moving with
    | some (pte, _, size) =>
      if s.usesRange c.ctx (va.toNat / size * size) size || !s.replicasStill c va size then s else s.finishMove c va pte size
    | none =>
      match s.walk c.ctx va with
      | .moving _ _ _ => s
      | .invalid => s.engFault c 0 0x04 va
      | .leaf e pte size =>
        if c.kind ≠ 9 && s.tierOf (leafPa e size va) = c.target then s.putCmd c.nextPage
        else (s.setMoving pte).putCmd { c with moving := some (pte, e, size), written := [0] }

/-- PAGE_MOVE (R302): the migration engine takes the next step of a command's next page. -/
def execPageMove (t : BitVec 64) (s : State) : Out :=
  match s.cmd t with
  | some c => .next (if c.started && (c.kind = 9 || c.isTier) && c.paused.isNone then s.movePage c else s)
  | none => .next s

end Sys2Proof.Machine
end

