-- ==== Sys2Proof/Machine/Kv.lean ====
section
/-!
DEFINITION. The KV agent (R216-R229): pools, maps and page entries in memory, the seven SPAN instructions, and the two
transitions that end its transfers.
-/

namespace Sys2Proof.Machine

/-! ## Records (R216-R218, R221) -/

/-- The die of the agent of a map: the home of its pool header (R220). -/
def State.kvDie (s : State) (map : Word) : Nat :=
  match s.rawPa s.me.ctx (s.visible s.me.ctx (BitVec.ofNat 64 (s.getRec s.me.ctx (map + 16) 8))) with
  | some pa => s.homeDie pa
  | none => 0

/-- Where the agent's access to a record goes (R208, R209, R221): a translation that permits a write, the visible side of a twin
surface, no page of tier 1, no window and no side-1 address. -/
def State.kvAddr (s : State) (die : Nat) (va : Word) : Chk (Nat × Nat × State) :=
  if inWindow va then .trap 0x06 0 va
  else
    let l := s.surfs s.me.ctx
    match s.translate s.me.ctx die none (s.visible s.me.ctx va) .store s.cur.priv with
    | .moving => .stall .walk
    | .fault c => .trap (if c = 0x04 then 0x05 else c) 0 va
    | .ok pa leaf pte s1 =>
      if s.tierOf pa == 1 then .trap 0x05 0 va
      else if (side1In l va).isSome || leaf.getLsbD 9 || (apertureIn l va).isSome then .trap 0x06 0 va
      else .ok (pa, pte, s1)

/-- Reads a record of at most 64 bytes that stands in one page; it holds no poison (R221). -/
def State.kvRec (s : State) (die : Nat) (va : Word) (n : Nat) : Chk (Nat × State) :=
  (s.kvAddr die va).bind fun (pa, _, s1) =>
    if s1.poisonedAt (.mem pa) n then .trap 0x09 0 va
    else .ok (s1.readPa pa n, s1.countAccess pa va (kvSource die) false)

/-- Writes a part of a record that the agent of a die has read: an ordinary write at the record's home (R220). -/
def State.kvPut (s : State) (die : Nat) (va : Word) (n v : Nat) : State :=
  match s.kvAddr die va with
  | .ok (pa, pte, s1) => (s1.countAccess pa va (kvSource die) false).performWrite (.mem pa) (some pte) n v
  | _ => s.writeVa s.me.ctx (s.visible s.me.ctx va) n v

/-- A map header (R217). -/
structure KMap where
  va : Word
  entries : Word
  cap : Nat
  count : Nat
  pool : Word
  nextpos : Nat
  tpp : Nat
  curtag : Nat
  live : Nat
deriving DecidableEq, Repr

/-- A pool header (R216). -/
structure KPool where
  va : Word
  cap : Nat
  freehead : Nat
  framebytes : Nat
  nfree : Nat
  surface : Word
  frames : Option Surf
  compressed : Bool
deriving DecidableEq, Repr

/-- A pool entry (R216). -/
structure KFrame where
  n : Nat
  va : Word
  frame : Word
  refs : Nat
  next : Nat
  tier : Nat
  inflight : Bool
  token : Word
deriving DecidableEq, Repr

/-- A page entry (R218). -/
structure KEnt where
  e : Nat
  va : Word
  page : Word
  first : Nat
  used : Nat
  tag : Nat
  tier : Nat
  flags : Nat
  pool : Nat
deriving DecidableEq, Repr

def KEnt.retired (e : KEnt) : Bool := e.flags % 2 = 1
def KEnt.pinned (e : KEnt) : Bool := e.flags / 2 % 2 = 1
/-- The address through which a live entry reads its frame: through the aperture when its compressed flag is set (R218). -/
def KEnt.through (e : KEnt) (f : KFrame) : Word :=
  if e.flags / 8 % 2 = 1 then f.frame + 0x0080000000000000 else f.frame
def KEnt.inflight (e : KEnt) : Bool := e.flags / 4 % 2 = 1

/-- A violation of R219. -/
def kvBad {α : Type} (va : Word) : Chk α := .trap 0x10 0 va

/-- The map header at an address (R217, R219). -/
def State.kvMap (s : State) (die : Nat) (va : Word) : Chk (KMap × State) :=
  if va.toNat % 64 ≠ 0 then .trap 0x03 0 va
  else (s.kvRec die va 64).bind fun (r, s1) =>
    let m : KMap := { va := va, entries := BitVec.ofNat 64 (field r 0 8), cap := field r 8 4, count := field r 12 4,
                      pool := BitVec.ofNat 64 (field r 16 8), nextpos := field r 24 4, tpp := field r 28 1,
                      curtag := field r 29 1, live := field r 32 8 }
    if m.entries.toNat % 32 ≠ 0 || m.cap < m.count || m.tpp = 0 || 15 < m.curtag || field r 30 2 ≠ 0 || field r 40 24 ≠ 0
    then kvBad va else .ok (m, s1)

/-- The pool header at an address (R216, R219). -/
def State.kvPool (s : State) (die : Nat) (va : Word) : Chk (KPool × State) :=
  if va.toNat % 64 ≠ 0 then .trap 0x03 0 va
  else (s.kvRec die va 64).bind fun (r, s1) =>
    let f := BitVec.ofNat 64 (field r 16 8)
    let g := (s.surfOf s.me.ctx f).filter (fun g => g.tiered && g.base == f.toNat)
    let p : KPool := { va := va, cap := field r 0 4, freehead := field r 4 4, framebytes := field r 8 4, nfree := field r 12 4,
                       surface := f, frames := g, compressed := match g with | some g => g.compressed | none => false }
    if p.cap = 0 || 2 ^ 24 < p.cap || p.framebytes = 0 || p.framebytes % 65536 ≠ 0 || field r 24 40 ≠ 0 || g.isNone ||
       p.cap < p.nfree || (p.freehead ≠ 0xFFFFFFFF && p.cap ≤ p.freehead) then kvBad va
    else .ok (p, s1)

/-- Pool entry `k`; an index outside the pool is charged to the record that holds it. -/
def State.kvFrame (s : State) (die : Nat) (p : KPool) (k : Nat) (who : Word) : Chk (KFrame × State) :=
  if p.cap ≤ k then kvBad who
  else
    let va := p.va + BitVec.ofNat 64 (64 + 32 * k)
    (s.kvRec die va 32).bind fun (r, s1) =>
      if 3 < field r 16 1 || 1 < field r 17 1 || field r 18 6 ≠ 0 || field r 0 8 % 65536 ≠ 0 ||
         !(match p.frames with | some g => g.holds (BitVec.ofNat 64 (field r 0 8)) p.framebytes | none => false) ||
         (field r 12 4 ≠ 0xFFFFFFFF && p.cap ≤ field r 12 4) then kvBad va
      else .ok ({ n := k, va := va, frame := BitVec.ofNat 64 (field r 0 8), refs := field r 8 4, next := field r 12 4,
                  tier := field r 16 1, inflight := field r 17 1 = 1, token := BitVec.ofNat 64 (field r 24 8) }, s1)

/-- Page entry `e` of a map, not refreshed (R218, R219). -/
def State.kvEntRaw (s : State) (die : Nat) (m : KMap) (e : Nat) : Chk (KEnt × State) :=
  let va := m.entries + BitVec.ofNat 64 (32 * e)
  (s.kvRec die va 32).bind fun (r, s1) =>
    let gone := field r 14 1 % 2 = 1
    if m.tpp < field r 12 1 || 63 < field r 13 1 || 31 < field r 14 1 || field r 15 1 ≠ 0 || field r 20 12 ≠ 0 ||
       (gone && (field r 0 8 ≠ 0 || field r 16 4 ≠ 0xFFFFFFFF)) then kvBad va
    else .ok ({ e := e, va := va, page := BitVec.ofNat 64 (field r 0 8), first := field r 8 4, used := field r 12 1,
                tag := field r 13 1 % 16, tier := field r 13 1 / 16, flags := field r 14 1, pool := field r 16 4 }, s1)

/-- Writes the tag, tier and flags bytes of an entry. -/
def State.putEntBits (s : State) (die : Nat) (e : KEnt) : State := s.kvPut die (e.va + 13) 2 (e.tag + 16 * e.tier + 256 * e.flags)

/-- Refreshes the tier and in-flight copies of a live entry from its pool entry (R218). -/
def State.kvRefresh (s : State) (die : Nat) (p : KPool) (e : KEnt) : Chk (KEnt × State) :=
  if e.retired then .ok (e, s)
  else (s.kvFrame die p e.pool e.va).bind fun (f, s1) =>
    if f.refs = 0 || e.page ≠ e.through f then kvBad e.va
    else
      let e' := { e with tier := f.tier, flags := e.flags - e.flags / 4 % 2 * 4 + (if f.inflight then 4 else 0) }
      .ok (e', if e' = e then s1 else s1.putEntBits die e')

/-- Page entry `e` of a map, refreshed. -/
def State.kvEnt (s : State) (die : Nat) (m : KMap) (p : KPool) (e : Nat) : Chk (KEnt × State) :=
  (s.kvEntRaw die m e).bind fun r => r.2.kvRefresh die p r.1

/-- The first `n` entries of a map, refreshed. -/
def State.kvEnts (s : State) (die : Nat) (m : KMap) (p : KPool) : Nat → Chk (List KEnt × State)
  | 0 => .ok ([], s)
  | n + 1 => (s.kvEnts die m p n).bind fun r => (r.2.kvEnt die m p n).bind fun q => .ok (r.1 ++ [q.1], q.2)

/-! ## The form of a SPAN word (R220, R221) -/

/-- The agent may act for the A-thread: every operation that it issued is performed (R220). -/
def State.agentReady (s : State) : Bool := s.me.aops.isEmpty && !s.me.vops.any (fun v => decide (v.id < s.me.ahold))

/-- A SPAN word: one transition of the agent, whose traps are precise; arrivals of one `gts` value are taken by ascending source
number (R220). The body computes ad and the state from the map, its
pool and the operands. -/
def spanForm (w : IWord) (d p n : RegNo) (s : State)
    (body : State → Nat → KMap → KPool → Word → Word → Chk (Word × State)) : Out :=
  scalarOp w [p, n, d] (some d) s fun s1 x y z =>
    let die := s1.kvDie x
    if !s1.agentReady || !s1.inTurn (kvKey die) s1.me.source then .stall .agent s
    else
      ((s1.kvMap die x).bind fun m => (m.2.kvPool die m.1.pool).bind fun q => body q.2 die m.1 q.1 y z).then s fun r =>
        .done (((r.2.took (kvKey die) s1.me.source).put d r.1).retire)

/-- All ones. -/
def kvNone : Word := 0xFFFFFFFFFFFFFFFF

/-! ## Fork (R222) -/

/-- Shares entry `e` with a child whose entry stands at `c`. -/
def State.shareEnt (s : State) (die : Nat) (p : KPool) (e : KEnt) (c : Word) : Chk State :=
  (s.kvRec die c 32).bind fun (_, s1) =>
    let copy (t : State) : State := t.kvPut die c 32 (t.getRec t.me.ctx e.va 32)
    if e.retired then .ok (copy s1)
    else (s1.kvFrame die p e.pool e.va).bind fun (f, s2) =>
      .ok (copy ((s2.kvPut die (f.va + 8) 4 (f.refs + 1)).kvPut die (e.va + 14) 1 (Nat.lor e.flags 16)))

/-- `kvfork` (R222). -/
def State.kvForkTo (s : State) (w : IWord) (die : Nat) (m : KMap) (p : KPool) (child : Word) : Chk (Word × State) :=
  if child.toNat % 64 ≠ 0 || child = m.va then sub6 w
  else (s.kvRec die child 64).bind fun (r, s1) =>
    let entries := BitVec.ofNat 64 (field r 0 8)
    if BitVec.ofNat 64 (field r 16 8) ≠ m.pool then sub6 w
    else if entries.toNat % 32 ≠ 0 || field r 30 2 ≠ 0 || field r 40 24 ≠ 0 then kvBad child
    else if field r 8 4 < m.count then .ok (kvNone, s1)
    else (s1.kvEnts die m p m.count).bind fun (es, s2) =>
      (es.foldl (fun (acc : Chk State) e => acc.bind fun t => t.shareEnt die p e (entries + BitVec.ofNat 64 (32 * e.e))) (.ok s2)).bind
        fun s3 =>
          let s4 := ((s3.kvPut die (child + 12) 4 m.count).kvPut die (child + 24) 6 (m.nextpos + 2 ^ 32 * m.tpp + 2 ^ 40 * m.curtag)).kvPut die
            (child + 32) 8 m.live
          .ok (BitVec.ofNat 64 (es.filter (fun e => !e.retired)).length, s4)

/-- `kvfork` (R222). -/
def execKvfork (d p n : RegNo) (sc : BitVec 2) (s : State) : Out :=
  spanForm (packE 0x1c#6 d p n 0#6 sc 0#3) d p n s
    (fun s1 die m q y _ => s1.kvForkTo (packE 0x1c#6 d p n 0#6 sc 0#3) die m q y)

/-! ## Append (R223) -/

/-- Takes the first free frame of a pool, for one reference. -/
def State.kvTake (s : State) (die : Nat) (p : KPool) : Chk (KFrame × KPool × State) :=
  (s.kvFrame die p p.freehead p.va).bind fun (f, s1) =>
    let p' := { p with freehead := f.next, nfree := p.nfree - 1 }
    .ok (f, p', ((s1.kvPut die (p.va + 4) 4 f.next).kvPut die (p.va + 12) 4 (p.nfree - 1)).kvPut die (f.va + 8) 4 1)

/-- An address of a twin surface on one of its sides (R208). -/
def Surf.onSide (f : Surf) (side : Bool) (va : Word) : Word :=
  if f.twin && side then BitVec.ofNat 64 (f.alt + (va.toNat - f.base)) else va

/-- Where an engine unit of a frame copy goes: a page that does not permit it, or a target in tier 1, is a fault; a page that moves is
waited for (R186, R209, R295). -/
def State.kvUnit (s : State) (die : Nat) (va : Word) (acc : Acc) : Chk (Nat × Nat × State) :=
  match s.translate s.me.ctx die none va acc s.cur.priv with
  | .moving => .stall .walk
  | .fault c => .trap c 0 va
  | .ok pa _ pte s1 => if acc == .store && s.tierOf pa == 1 then .trap 0x05 0 va else .ok (pa, pte, s1)

/-- Copies the bytes of a frame of a pool to another, page by page, as engine units do (R223): from the visible side of a twin surface
to the other (R95); each page counts once at its home (R300). -/
def State.kvCopyFrame (s : State) (die : Nat) (p : KPool) (a b : Word) : Chk State :=
  (List.range (p.framebytes / 65536)).foldl (fun (acc : Chk State) k => acc.bind fun t =>
    let on (side : Bool) (va : Word) : Word := match p.frames with | some g => g.onSide (g.side != side) va | none => va
    let x := on false (a + BitVec.ofNat 64 (65536 * k))
    let y := on true (b + BitVec.ofNat 64 (65536 * k))
    (t.kvUnit die x .load).bind fun (o, _, t1) =>
      (t1.kvUnit die y .store).bind fun (w, pte, t2) =>
        .ok ((((t2.countAccess o x (kvSource die) false).countAccess w y (kvSource die) false).orPte pte 128).copyFrame o w 65536)) (.ok s)

/-- The address through which a frame is read (R218). -/
def KPool.page (p : KPool) (f : KFrame) : Word := if p.compressed then f.frame + 0x0080000000000000 else f.frame

/-- The tail takes `k` more tokens: in a copy of its frame when others share it (R223, R224). -/
def State.kvTail (s : State) (die : Nat) (p : KPool) (t : KEnt) (k : Nat) : Chk (KPool × State) :=
  if k = 0 then .ok (p, s)
  else
    let fl := t.flags - t.flags / 16 % 2 * 16
    (s.kvFrame die p t.pool t.va).bind fun (f, s1) =>
      if 1 < f.refs then
        (s1.kvTake die p).bind fun (g, p', s2) =>
          (s2.kvCopyFrame die p f.frame g.frame).bind fun s3 =>
            let s4 := ((s3.kvPut die (f.va + 8) 4 (f.refs - 1)).kvPut die (t.va + 16) 4 g.n).kvPut die t.va 8 (p.page g).toNat
            .ok (p', (s4.kvPut die (t.va + 14) 1 fl).kvPut die (t.va + 12) 1 (t.used + k))
      else .ok (p, (s1.kvPut die (t.va + 14) 1 fl).kvPut die (t.va + 12) 1 (t.used + k))

/-- Appends new pages from entry `e` on, for `left` tokens at position `pos` (R223). -/
def State.kvGrow (s : State) (die : Nat) (m : KMap) : Nat → KPool → Nat → Nat → Nat → Chk State
  | 0, _, _, _, _ => .ok s
  | x + 1, p, e, pos, left =>
    let va := m.entries + BitVec.ofNat 64 (32 * e)
    (s.kvRec die va 32).bind fun (_, s0) =>
      (s0.kvTake die p).bind fun (f, p', s1) =>
        let used := Nat.min m.tpp left
        let flags := (if f.inflight then 4 else 0) + (if p.compressed then 8 else 0)
        let r := (p.page f).toNat + 2 ^ 64 * (pos % 2 ^ 32) + 2 ^ 96 * used + 2 ^ 104 * (m.curtag + 16 * f.tier) + 2 ^ 112 * flags
          + 2 ^ 128 * f.n
        (s1.kvPut die va 32 r).kvGrow die m x p' (e + 1) (pos + used) (left - used)

/-- The tail of a map, when it has one (R223). -/
def State.kvTailOf (s : State) (die : Nat) (m : KMap) (p : KPool) : Chk (Option KEnt × State) :=
  if m.count = 0 then .ok (none, s) else (s.kvEnt die m p (m.count - 1)).bind fun r => .ok (some r.1, r.2)

/-- The references of a tail's frame. -/
def State.kvRefs (s : State) (die : Nat) (p : KPool) (t : Option KEnt) : Chk Nat :=
  match t with
  | none => .ok 0
  | some e => if e.retired then .ok 0 else (s.kvFrame die p e.pool e.va).bind fun f => .ok f.1.refs

/-- `kvapp` (R223). -/
def State.kvAppend (s : State) (w : IWord) (die : Nat) (m : KMap) (p : KPool) (y : Word) : Chk (Word × State) :=
  let n := y.toNat
  if n = 0 || 65535 < n then sub6 w
  else (s.kvTailOf die m p).bind fun (t, s1) =>
    let room := match t with
      | some e => if !e.retired && e.tag == m.curtag && decide (e.used < m.tpp) then m.tpp - e.used else 0
      | none => 0
    let k := Nat.min n room
    let extra := (n - k + m.tpp - 1) / m.tpp
    (s1.kvRefs die p t).bind fun refs =>
      let copy := if 0 < k && decide (1 < refs) then 1 else 0
      if m.cap < m.count + extra || p.nfree < extra + copy || 2 ^ 32 < m.nextpos + n then .ok (kvNone, s1)
      else
        (match t with | some e => s1.kvTail die p e k | none => .ok (p, s1)).bind fun (p', s2) =>
          (s2.kvGrow die m extra p' m.count (m.nextpos + k) (n - k)).bind fun s3 =>
            .ok (BitVec.ofNat 64 m.nextpos,
              ((s3.kvPut die (m.va + 12) 4 (m.count + extra)).kvPut die (m.va + 24) 4 (m.nextpos + n)).kvPut die (m.va + 32) 8 (m.live + n))

/-- `kvapp` (R223). -/
def execKvapp (d p n : RegNo) (sc : BitVec 2) (s : State) : Out :=
  spanForm (packE 0x1c#6 d p n 1#6 sc 0#3) d p n s
    (fun s1 die m q y _ => s1.kvAppend (packE 0x1c#6 d p n 1#6 sc 0#3) die m q y)

/-! ## Tag (R225) -/

/-- `kvtag` (R225). -/
def execKvtag (d p n : RegNo) (sc : BitVec 2) (s : State) : Out :=
  spanForm (packE 0x1c#6 d p n 2#6 sc 0#3) d p n s (fun s1 die m _ y _ =>
    if y.extractLsb' 4 60 != 0 then sub6 (packE 0x1c#6 d p n 2#6 sc 0#3)
    else .ok (BitVec.ofNat 64 m.curtag, s1.kvPut die (m.va + 29) 1 y.toNat))

/-! ## Transfers (R228) -/

/-- The block of a KV transfer: the first fields stand where a tier transfer's do. -/
def kvBlock (frame tier bytes pool k entry free : Nat) : Nat :=
  frame + 2 ^ 64 * tier + 2 ^ 128 * bytes + 2 ^ 160 + 2 ^ 192 * pool + 2 ^ 256 * k + 2 ^ 320 * entry + 2 ^ 384 * free

/-- The surface of a transfer that passes the checks of R191 and R210. -/
def State.kvSurf (s : State) (p : KPool) (f : KFrame) (tier : Nat) : Option Surf :=
  match s.surfOf s.me.ctx f.frame with
  | none => none
  | some g =>
    if g.tiered && g.holds f.frame p.framebytes && (tier != 1 || g.readmostly) &&
       !s.splitsLeaf s.me.ctx (g.pages f.frame p.framebytes) then some g else none

/-- The pool's surface is in turn for the agent's commands (R192). -/
def State.kvTurn (s : State) (die : Nat) (p : KPool) : Bool := p.frames.all (fun g => s.inTurn (surfKey g) (s.issuer 16 die))

/-- No transfer of a surface can be accepted now: 256 commands of the context are uncompleted on the agent's die (R182), or as many
transfers of the surface as may be (R192). -/
def State.agentFull (s : State) (die : Nat) (g : Surf) : Bool :=
  decide (256 ≤ (s.cmds.filter (fun c => c.ctx == s.me.ctx && c.die == die && c.open)).length) ||
  !s.mayTake (s.issuer 16 die) [g]

/-- Accepts a tier transfer of a frame, whose pool entry records it (R228). -/
def State.kvTransfer (s : State) (w : IWord) (die : Nat) (p : KPool) (f : KFrame) (g : Surf) (tier : Nat) (entry : Word) (free : Nat) : Word × State :=
  let b := kvBlock f.frame.toNat tier p.framebytes p.va.toNat f.n entry.toNat free
  let t := s.accept w 16 die 2 0 s.cur.priv b [g] .cmd
  let s1 := t.2.dropCmdOp s.me.uid t.1
  (t.1, (s1.kvPut die (f.va + 17) 1 1).kvPut die (f.va + 24) 8 t.1.toNat)

/-- The transfer of a frame that is in flight, and its target tier. -/
def State.kvFlying (s : State) (f : KFrame) : Option (Cmd × Nat) :=
  if f.inflight then (s.cmd f.token).map (fun c => (c, c.target)) else none

/-! ## Retire (R226) -/

/-- Puts a frame on the free list of its pool. -/
def State.kvPush (s : State) (die : Nat) (p : KPool) (f : KFrame) : State :=
  let head := s.getRec s.me.ctx (p.va + 4) 4
  let n := s.getRec s.me.ctx (p.va + 12) 4
  ((s.kvPut die (f.va + 12) 4 head).kvPut die (p.va + 4) 4 f.n).kvPut die (p.va + 12) 4 (n + 1)

/-- A transfer's frame joins the free list when the transfer ends. -/
def Cmd.setFree (c : Cmd) : Cmd := { c with block := c.block ||| BitVec.ofNat 512 (2 ^ 384) }

/-- A frame without references: to the free list at once, or after a transfer to tier 0 (R226). -/
def State.kvDrop (s : State) (w : IWord) (die : Nat) (p : KPool) (f : KFrame) : State :=
  if f.tier = 0 && !f.inflight then s.kvPush die p f
  else
    match s.kvFlying f with
    | some (c, 0) => s.modCmd c.token Cmd.setFree
    | _ =>
      match s.kvSurf p f 0 with
      | some g =>
        if s.agentFull die g then ((s.kvPut die (f.va + 17) 1 0).kvPut die (f.va + 24) 8 0).kvPush die p f
        else (s.kvTransfer w die p f g 0 0 1).2
      | none => ((s.kvPut die (f.va + 17) 1 0).kvPut die (f.va + 24) 8 0).kvPush die p f

/-- Retires an entry: a hole with its first, used and tag (R219, R226). -/
def State.kvRetire (s : State) (w : IWord) (die : Nat) (p : KPool) (e : KEnt) : Chk State :=
  (s.kvFrame die p e.pool e.va).bind fun (f, s1) =>
    let s2 := ((s1.kvPut die e.va 8 0).kvPut die (e.va + 16) 4 0xFFFFFFFF).kvPut die (e.va + 14) 1 (Nat.lor e.flags 1)
    let s3 := s2.kvPut die (f.va + 8) 4 (f.refs - 1)
    .ok (if f.refs = 1 then s3.kvDrop w die p f else s3)

/-- `kvret` (R226). -/
def State.kvRetireSpan (s : State) (w : IWord) (die : Nat) (m : KMap) (p : KPool) (y z : Word) : Chk (Word × State) :=
  let lo := bits y.toNat 31 0
  let hi := bits y.toNat 63 32
  if z.extractLsb' 4 60 != 0 || hi < lo then sub6 w
  else if !s.kvTurn die p then .stall .agent
  else (s.kvEnts die m p m.count).bind fun (es, s1) =>
    let hit := es.filter (fun e => !e.retired && e.tag == z.toNat && decide (lo ≤ e.first) && decide (e.first + e.used ≤ hi))
    (hit.foldl (fun (acc : Chk State) e => acc.bind fun t => t.kvRetire w die p e) (.ok s1)).bind fun s2 =>
      .ok (BitVec.ofNat 64 hit.length, if hit.isEmpty then s2 else s2.kvPut die (m.va + 32) 8 (m.live - (hit.map (·.used)).sum))

/-- `kvret` (R226). -/
def execKvret (d p n : RegNo) (sc : BitVec 2) (s : State) : Out :=
  spanForm (packE 0x1c#6 d p n 3#6 sc 0#3) d p n s
    (fun s1 die m q y z => s1.kvRetireSpan (packE 0x1c#6 d p n 3#6 sc 0#3) die m q y z)

/-! ## Query (R227) -/

/-- The answer of a code over entries and a tag mask. -/
def kvCount (m : KMap) (es : List KEnt) (mask : BitVec 16) (code : Nat) : Nat :=
  let sel := es.filter (fun e => mask.getLsbD e.tag && !e.retired)
  match code with
  | 0 => (sel.map (·.used)).sum
  | 1 => (sel.filter (fun e => e.tier == 0 && !e.inflight)).length
  | 2 => (sel.filter (fun e => e.tier != 0 && !e.inflight)).length
  | 3 => (sel.filter (·.inflight)).length
  | _ => m.nextpos

/-- `kvres` (R227). -/
def execKvres (d p n : RegNo) (sc : BitVec 2) (s : State) : Out :=
  spanForm (packE 0x1c#6 d p n 4#6 sc 0#3) d p n s (fun s1 die m q y _ =>
    if y.extractLsb' 20 44 != 0 || 4 < bits y.toNat 19 16 then sub6 (packE 0x1c#6 d p n 4#6 sc 0#3)
    else (s1.kvEnts die m q m.count).bind fun (es, s2) =>
      .ok (BitVec.ofNat 64 (kvCount m es (y.extractLsb' 0 16) (bits y.toNat 19 16)), s2))

/-! ## Pin and move (R228) -/

/-- A strand watches the end of a transfer. -/
def State.watch (s : State) (t : Word) (ev : Bool) : State :=
  if ev then s.modCmd t (fun c => { c with watchers := c.watchers ++ [s.me.uid] }) else s

/-- The move that `kvpin` asks for, once the pinned flag is set or cleared. -/
def State.kvMove (s : State) (w : IWord) (die : Nat) (p : KPool) (e : KEnt) (f : KFrame) (tier : Nat) (ev : Bool) : Chk (Word × State) :=
  let fresh : Chk (Word × State) :=
    match s.kvSurf p f tier with
    | none => sub6 w
    | some g =>
      if s.agentFull die g then .stall .commands
      else
        let t := s.kvTransfer w die p f g tier e.va 0
        .ok (t.1, (t.2.watch t.1 ev).putEntBits die { e with flags := Nat.lor e.flags 4 })
  if f.tier = tier && !f.inflight then .ok (0, s)
  else if tier ≠ 0 && e.pinned then .ok (0, s)
  else
    match s.kvFlying f with
    | some (c, τ) => if τ = tier then .ok (c.token, (s.watch c.token ev).putEntBits die { e with flags := Nat.lor e.flags 4 }) else fresh
    | none => fresh

/-- `kvpin` (R228). -/
def State.kvPin (s : State) (w : IWord) (die : Nat) (m : KMap) (p : KPool) (y : Word) (ev un pin : Bool) : Chk (Word × State) :=
  if y.extractLsb' 34 30 != 0 || m.count ≤ bits y.toNat 31 0 || (un && pin) then sub6 w
  else if !s.kvTurn die p then .stall .agent
  else (s.kvEnt die m p (bits y.toNat 31 0)).bind fun (e, s1) =>
    if e.retired then .ok (0, s1)
    else (s1.kvFrame die p e.pool e.va).bind fun (f, s2) =>
      let e' := { e with flags := if pin then Nat.lor e.flags 2 else if un then e.flags - e.flags / 2 % 2 * 2 else e.flags }
      (if e' = e then s2 else s2.putEntBits die e').kvMove w die p e' f (bits y.toNat 33 32) ev

/-- `kvpin` (R228). -/
def execKvpin (d p n : RegNo) (sc : BitVec 2) (ev un pin : Bool) (s : State) : Out :=
  let w := packE 0x1c#6 d p n 5#6 sc (BitVec.ofBool ev ++ BitVec.ofBool un ++ BitVec.ofBool pin)
  spanForm w d p n s (fun s1 die m q y _ => s1.kvPin w die m q y ev un pin)

/-! ## Look up (R229) -/

/-- The first entry that holds a position, not refreshed. -/
def State.kvFind (s : State) (die : Nat) (m : KMap) (pos : Nat) : Nat → Nat → Chk (Option KEnt × State)
  | 0, _ => .ok (none, s)
  | k + 1, e =>
    (s.kvEntRaw die m e).bind fun r =>
      if r.1.first ≤ pos && pos < r.1.first + r.1.used then .ok (some r.1, r.2) else r.2.kvFind die m pos k (e + 1)

/-- `kvlook` (R229). -/
def execKvlook (d p n : RegNo) (sc : BitVec 2) (s : State) : Out :=
  spanForm (packE 0x1c#6 d p n 6#6 sc 0#3) d p n s (fun s1 die m q y _ =>
    if y.extractLsb' 32 32 != 0 then sub6 (packE 0x1c#6 d p n 6#6 sc 0#3)
    else (s1.kvFind die m y.toNat m.count 0).bind fun (o, s2) =>
      match o with
      | none => .ok (0x300, s2)
      | some e => (s2.kvRefresh die q e).bind fun (e', s3) =>
          let t := y.toNat - e'.first
          .ok (if e'.retired then BitVec.ofNat 64 (0x200 + t)
               else BitVec.ofNat 64 (e'.page.toNat / 65536 * 65536 + (if e'.tier = 0 && !e'.inflight then 0 else 256) + t), s3))

/-! ## The end of a transfer (R226, R228) -/

/-- A KV transfer has moved every page, after every transfer with a lower number. -/
def State.kvLanded (s : State) (c : Cmd) : Bool :=
  c.kind == 16 && c.started && c.table.isEmpty && c.moving.isNone && c.next == 0 && s.seqReady c

/-- The pool entry takes the tier, and nothing is in flight (R228). -/
def State.kvLand (s : State) (c : Cmd) : State := (s.putRec c (c.poolEntry + 16) 1 c.target).kvClear c

/-- What the agent does when a transfer has landed, in one transition before the token completes (R226, R228). -/
def State.kvFinish (s : State) (c : Cmd) : State :=
  let s1 := s.kvLand c
  let s2 := if c.fld 48 1 = 1 then s1.poolFree c (BitVec.ofNat 64 (c.fld 24 8)) (c.fld 32 8) else s1.kvCatchUp c
  ((s2.wakeAll c).modCmd c.token (fun e => { e with next := 1 })).endNow { c with next := 1 } (if c.poisoned then 5 else 1) 0 0

/-- KV_PAGE_IN_COMPLETE (R228): the pool entry and the entry of the `kvpin` are updated, the strands that asked for the event
are woken, and the token completes. One event, so that no strand sleeps after its wake while the token is untaken (log entry 51); it
waits while a page that it writes is moving (R295). -/
def execKvPageInComplete (t : BitVec 64) (s : State) : Out :=
  match s.cmd t with
  | some c => .next (if s.kvLanded c && c.fld 48 1 = 0 && s.kvWritable c then s.kvFinish c else s)
  | none => .next s

/-- KVRET_FRAME_FREE (R226): the frame of a retired page joins the free list when its transfer to tier 0 is done. -/
def execKvretFrameFree (t : BitVec 64) (s : State) : Out :=
  match s.cmd t with
  | some c => .next (if s.kvLanded c && c.fld 48 1 = 1 && s.kvWritable c then s.kvFinish c else s)
  | none => .next s

end Sys2Proof.Machine
end

