-- ==== Sys2Proof/Machine/Chain.lean ====
section
/-!
DEFINITION. The chain-reversal sequencer (R230-R243, R334): the four CHAIN instructions, the schedule, and the
sequencer's transitions.
-/

namespace Sys2Proof.Machine

/-! ## Frames (R233, R234) -/

/-- The CHAIN instruction that a thread waits at, with the value of its register. -/
def Strand.ch (m : Strand) : Tid → Option (IWord × Word)
  | .a => m.chA
  | .x => m.chX

/-- A thread arrives at a CHAIN instruction, or leaves it. -/
def State.setCh (s : State) (t : Tid) (v : Option (IWord × Word)) : State :=
  { s with me := match t with | .a => { s.me with chA := v } | .x => { s.me with chX := v } }

/-- Sets a register of the top frame. -/
def State.setCf (s : State) (j : Nat) (v : Word) : State := { s with me := { s.me with cf := s.me.cf.setIfInBounds j v } }

/-- The segment in hand, its slot count, the occupancy, the stack entries in use, and the index of the current state. -/
def Strand.segA (m : Strand) : Nat := bits (m.cfr 7).toNat 31 0
def Strand.segB (m : Strand) : Nat := bits (m.cfr 7).toNat 63 32
def Strand.segC (m : Strand) : Nat := bits (m.cfr 8).toNat 20 16
def Strand.occ (m : Strand) : Nat := bits (m.cfr 8).toNat 15 0
def Strand.nstack (m : Strand) : Nat := bits (m.cfr 8).toNat 28 24
def Strand.cidx (m : Strand) : Nat := bits (m.cfr 9).toNat 31 0

/-- Writes `cf.seg` and `cf.slots`. -/
def State.setSeg (s : State) (a b c occ n : Nat) : State :=
  (s.setCf 7 (BitVec.ofNat 64 (a + 2 ^ 32 * b))).setCf 8 (BitVec.ofNat 64 (occ + 2 ^ 16 * c + 2 ^ 24 * n))

/-- Writes `cf.cidx`, valid. -/
def State.setCidx (s : State) (i : Nat) : State := s.setCf 9 (BitVec.ofNat 64 (i + 2 ^ 63))

/-- The value of `cf.act`. -/
def actWord (act : Nat) (call : Bool) (slot idx : Nat) : Word :=
  BitVec.ofNat 64 (act + (if call then 8 else 0) + 16 * slot + 2 ^ 32 * idx)

/-- The bits of `cf.act` that are not reserved (R234). -/
def actMask : Word := 0xFFFFFFFF000000FF

/-- Adds one to a counter of the frame. -/
def State.bumpCf (s : State) (j : Nat) : State := s.setCf j (s.me.cfr j + 1)

/-- Reads of the sequencer, as A-loads: permitted, without poison (R235). -/
def State.seqLoad (s : State) (va : Word) (n : Nat) : Chk (Nat × State) :=
  ((s.placePieces va .load s.me.a.priv (pagePieces va n)).at' va).bind fun (qs, s1) =>
    let l (q : Place × Nat × Nat) : Loc := s1.placeNow s1.me.ctx q.1
    if qs.any (fun q => s1.poisonedAt (l q) q.2.2) then .trap 0x09 0 va
    else .ok (qs.foldl (fun v q => v + 2 ^ (8 * q.2.1) * s1.readHome (l q) q.2.2) 0, s1)

/-- Writes of the sequencer, as A-stores (R235): permitted, and performed at once. -/
def State.seqStore (s : State) (va : Word) (n v : Nat) : Chk State :=
  ((s.placePieces va .store s.me.a.priv (pagePieces va n)).at' va).bind fun (qs, s1) =>
    .ok (qs.foldl (fun t q =>
      t.performWrite (t.placeNow t.me.ctx q.1) q.1.pte q.2.2 (v / 2 ^ (8 * q.2.1) % 2 ^ (8 * q.2.2))) s1)

/-- A field of the top frame's block, on the side in view of a twin surface (R208). -/
def State.blkFld (s : State) (o n : Nat) : Nat := s.viewVa s.me.ctx (s.me.cfr 1 + BitVec.ofNat 64 o) n

/-- The address of a slot entry (R231). -/
def State.slotAt (s : State) (j : Nat) : Word := BitVec.ofNat 64 (s.blkFld 40 8 + 16 * j)

/-- A trap of the A-thread at the CHAIN instruction at which it waits; the X-thread goes on waiting (R232, R243, R334). -/
def State.chainTrap (s : State) (cause sub : Nat) (tval : Word) : State :=
  (s.setCh .a none).trapA
    { cause := cause, sub := sub, tval := tval, tepc := s.me.a.pc, pages := [], more := false, resume := false }

/-- The A-thread's CHAIN word. -/
def Strand.wordA (m : Strand) : Word := match m.chA with | some (w, _) => w.zeroExtend 64 | none => 0

/-! ## The instructions (R232, R236, R239, R240) -/

/-- A thread that has taken a trap at its `rvchain` or `rvret`, or before it, while the frame's action is no call, executes it again:
both threads wait there until the action is done (R237, R243). -/
def Strand.pendingAction (m : Strand) (t : Thread) : Bool := m.cfd != 0 && !callOf (m.cfr 5) && t.priv == .u

/-- A CHAIN word of a rendezvous: the thread arrives and waits. A thread that has arrived goes on waiting. -/
def chainOp (w : IWord) (srcs : List RegNo) (s : State) (legal : State → Word → Bool) : Out :=
  if (s.me.ch s.thr).isSome then perform w s fun s0 => .stall .chain s0
  else
    scalarOp w srcs none s fun s1 x _ _ =>
      if legal s1 x || (wFn6 w ≤ 1 && s1.me.pendingAction s1.cur) then .stall .chain (s1.setCh s1.thr (some (w, x)))
      else .trap (s.trapAt 0x01 6 (w.zeroExtend 64)) s

/-- Inside a routine that the top frame called. -/
def Strand.inCall (m : Strand) : Bool := m.cfd != 0 && callOf (m.cfr 5)

/-- `rvchain` (R232). -/
def execRvchain (p : RegNo) (s : State) : Out :=
  chainOp (packE 0x1d#6 0#5 p 0#5 0#6 0#2 0#3) [p] s (fun s1 _ =>
    (s1.me.cfd == 0 && !(s1.me.thread s1.thr.other).halted) || (s1.me.inCall && decide (s1.me.cfd ≤ 3)))

/-- `rvret` (R236). -/
def execRvret (s : State) : Out := chainOp (packE 0x1d#6 0#5 0#5 0#5 1#6 0#2 0#3) [] s (fun s1 _ => s1.me.inCall)

/-- `rvq` (R239). -/
def execRvq (d : RegNo) (s : State) : Out :=
  regOp (packE 0x1d#6 d 0#5 0#5 2#6 0#2 0#3) [] d s (fun _ _ =>
    if s.me.cfd = 0 then 0
    else BitVec.ofNat 64 (bits (s.me.cfr 10).toNat 31 0 + 2 ^ 32 * actOf (s.me.cfr 5)
      + 2 ^ 35 * (if callOf (s.me.cfr 5) then 1 else 0) + 2 ^ 36 * s.me.cfd))

/-- `rvabort` (R240): a count above 4 is illegal. -/
def execRvabort (n : RegNo) (s : State) : Out :=
  chainOp (packE 0x1d#6 0#5 0#5 n 3#6 0#2 0#3) [n] s (fun s1 x => s1.me.inCall && decide (x.toNat ≤ 4))

/-! ## The schedule (R235) -/

/-- `C(c + k, c)`. -/
def binom (c k : Nat) : Nat := (List.range c).foldl (fun acc i => acc * (k + i + 1) / (i + 1)) 1

/-- The least `k` from a start on with `C(c + k, c) ≥ m`. -/
def leastK (c m : Nat) : Nat → Nat → Nat
  | 0, k => k
  | f + 1, k => if m ≤ binom c k then k else leastK c m f (k + 1)

/-- The steps to the next snapshot of a segment of `m` steps with `c` slots. -/
def advanceBy (c m : Nat) : Nat := Nat.max 1 (m - binom (c - 1) (leastK c m 100000 1))

/-- The lowest free slot. -/
def freeSlot (occ : Nat) : Nat := ((List.range 16).find? (fun j => bits occ j j == 0)).getD 16

/-- The address of stack entry `k`. -/
def State.stackAt (s : State) (k : Nat) : Word := s.me.cfr 1 + BitVec.ofNat 64 (256 + 16 * k)

/-- The slot that holds the first state of the segment in hand, and the step to reverse next: `sa` and `i` of R235. -/
def Strand.sa (m : Strand) : Nat := (m.plans.headD (0, 0)).1
def Strand.adjIdx (m : Strand) : Nat := (m.plans.headD (0, 0)).2

/-- Sets them for the top frame. -/
def State.setPlan (s : State) (sa i : Nat) : State := { s with me := { s.me with plans := (sa, i) :: s.me.plans.tail } }

/-- The segment is one whose steps are reversed one by one. -/
def Strand.leafSegment (m : Strand) : Bool := m.segB - m.segA == 1 || m.segC == 1

/-! ## Actions (R236-R238) -/

/-- The block of a cask copy. -/
def caskBlock (src dst : Word) (size : Nat) : Nat := src.toNat + 2 ^ 64 * dst.toNat + 2 ^ 128 * size + 2 ^ 160

/-- The CHAIN word of a copy's own checks is none; a failure of sub-code 6 names the slot entry instead (R243). -/
def State.issueCask (s : State) : State :=
  let act := s.me.cfr 5
  let e := s.slotAt (slotOf act)
  match s.seqLoad e 16 with
  | .stall _ => s
  | .trap cause sub v => s.chainTrap cause sub v
  | .ok (r, _) =>
  let cask := BitVec.ofNat 64 (field r 0 8)
  let size := s.blkFld 48 4
  let b := if actOf act = 1 then caskBlock (s.me.cfr 2) cask size else caskBlock cask (s.me.cfr 2) size
  let window := inWindow cask || inWindow (s.me.cfr 2)
  if s.commandsFull then s
  else
    match (if window then s.cpysCheck 0 b else s.cpyCheck 0 0 b) with
    | .stall _ => s
    | .trap cause sub v => if cause = 0x01 then s.chainTrap 0x0F 0 e else s.chainTrap cause sub v
    | .ok fs =>
      if !s.mayTake s.me.source fs then s
      else
        let t := s.accept 0 (if window then 2 else 0) s.me.die 2 0 s.me.a.priv b fs .cmd
        t.2.setCf 6 t.1

/-- Begins a copy: SNAP (1) or RESTORE (2). -/
def State.startCask (s : State) (act slot idx : Nat) : State := (s.setCf 5 (actWord act false slot idx)).issueCask

/-- Both threads leave their CHAIN instructions for two addresses. -/
def State.resumeBoth (s : State) (pa px : Word) : State :=
  let m := s.me
  { s with me := { m with chA := none, chX := none, a := { m.a with pc := pa, wait := .none }, x := { m.x with pc := px, wait := .none } } }

/-- Calls the routines of an action: ADVANCE (0) or ADJOINT (3). -/
def State.startCall (s : State) (act idx : Nat) : State :=
  let o := if act = 0 then 0 else 16
  (s.setCf 5 (actWord act true 0 idx)).resumeBoth (BitVec.ofNat 64 (s.blkFld o 8)) (BitVec.ofNat 64 (s.blkFld (o + 8) 8))

/-- The words of a frame image (R233). -/
def State.writeImage (s : State) (blk : Word) (cf : Vector Word 16) : Chk State :=
  s.seqStore (blk + 128) 128 (packList 8 (cf.toList.map (·.toNat)))

/-- The frame in an image of 128 bytes; the reserved bits of `cf.act` stay zero (R234). -/
def imageFrame (r : Nat) : Vector Word 16 :=
  Vector.ofFn (fun j : Fin 16 => BitVec.ofNat 64 (field r (8 * j.val) 8) &&& (if j.val = 5 then actMask else 0#64 - 1))

/-- A reloaded frame is sound (R241): its segment, its slot count, its occupancy and its stack count. -/
def State.frameOk (s : State) (blk : Word) (cf : Vector Word 16) : Bool :=
  let seg := cf[7].toNat
  let sl := cf[8].toNat
  let c := s.viewVa s.me.ctx (blk + 36) 1
  decide (bits seg 31 0 < bits seg 63 32) && decide (1 ≤ bits sl 20 16) && decide (bits sl 20 16 ≤ 16) &&
  decide (bits sl 15 0 < 2 ^ c) && decide (bits sl 28 24 + 1 ≤ c)

/-- Writes back cur, next and the status of the top frame's block, and pops the frame: the enclosing frame is reloaded from
its image (R238, R240, R241); an unsound image is 0x0F at its address. -/
def State.popFrame (s : State) (status : Nat) : Chk State :=
  let blk := s.me.cfr 1
  let parent := s.me.cfr 14
  (s.seqStore (blk + 56) 16 ((s.me.cfr 2).toNat + 2 ^ 64 * (s.me.cfr 3).toNat)).bind fun s0 =>
    (s0.seqStore (blk + 80) 8 status).bind fun s1 =>
      if s.me.cfd ≤ 1 then .ok { s1 with me := { s1.me with cfd := 0, cf := Vector.replicate 16 0, plans := [] } }
      else
        (s1.seqLoad (parent + 128) 128).bind fun (r, s2) =>
          if s2.frameOk parent (imageFrame r) then
            .ok { s2 with me := { s2.me with cfd := s2.me.cfd - 1, cf := imageFrame r, plans := s2.me.plans.tail } }
          else .trap 0x0F 0 (parent + 128)

/-- DONE (R238): the frame is popped and both threads resume at their return addresses. -/
def State.chainDone (s : State) : State :=
  match s.popFrame 1 with
  | .stall _ => s
  | .trap cause sub v => (s.setCf 5 (actWord 4 false 0 0)).chainTrap cause sub v
  | .ok t => t.resumeBoth (s.me.cfr 0) (s.me.cfr 15)

/-- Advances to the next snapshot or to the next step to reverse, then takes it (R235). -/
def State.advanceOn (s : State) : State :=
  let m := s.me
  let t := m.adjIdx
  let goal := if m.leafSegment then t else m.segA + advanceBy m.segC (m.segB - m.segA)
  if m.cidx < goal then s.startCall 0 m.cidx
  else if m.leafSegment then s.startCall 3 t
  else s.startCask 1 (freeSlot m.occ) m.cidx

/-- Want of R235 for the segment in hand: the state x_a first. -/
def State.wantSegment (s : State) : State := if s.me.cidx = s.me.segA then s.advanceOn else s.startCask 2 s.me.sa s.me.segA

/-- Plan of R235 for a new segment whose first state is in slot `sa`: the steps to reverse one by one count from its last. -/
def State.planSegment (s : State) (sa : Nat) : State := (s.setPlan sa (s.me.segB - 1)).wantSegment

/-- Pop of R235: the entry is read as an A-load and checked, its slot is free again, and its segment is next; with an empty stack,
DONE. -/
def State.popSegment (s : State) : State :=
  let n := s.me.nstack
  if n = 0 then s.chainDone
  else
    let e := s.stackAt (n - 1)
    match s.seqLoad e 16 with
    | .stall _ => s
    | .trap cause sub v => s.chainTrap cause sub v
    | .ok (r, s1) =>
      let a := field r 0 4
      let b := field r 4 4
      let c := field r 8 1
      let sa := field r 9 1
      let sl := field r 10 1
      let bc := s1.blkFld 36 1
      if c = 0 || 16 < c || bc ≤ sa || bc ≤ sl || bits s1.me.occ sl sl = 0 || b ≤ a then s1.chainTrap 0x0F 0 e
      else (s1.setSeg a b c (s1.me.occ - 2 ^ sl) (n - 1)).planSegment sa

/-- The action after a call (R235, R236). -/
def State.afterCall (s : State) (act : Nat) : State :=
  if act = 0 then s.advanceOn
  else if s.me.adjIdx ≤ s.me.segA then s.popSegment
  else (s.setPlan s.me.sa (s.me.adjIdx - 1)).wantSegment

/-- The action after a snapshot (R235): the first one fills slot 0; each other one splits the segment, and its stack entry is
written as an A-store. -/
def State.afterSnap (s : State) (slot : Nat) : Chk State :=
  let m := s.me
  if m.cfr 11 = 1 then .ok ((s.setSeg m.segA m.segB m.segC 1 m.nstack).planSegment 0)
  else
    let e := m.segA + 2 ^ 32 * m.cidx + 2 ^ 64 * m.segC + 2 ^ 72 * m.sa + 2 ^ 80 * slot
    (s.seqStore (s.stackAt m.nstack) 16 e).bind fun s1 =>
      .ok ((s1.setSeg m.cidx m.segB (m.segC - 1) (m.occ + 2 ^ slot) (m.nstack + 1)).planSegment slot)

/-! ## Starting a chain (R230-R232) -/

/-- The field checks of R230. -/
def chainBlockOk (b : Nat) : Bool :=
  field b 0 8 % 4 == 0 && field b 8 8 % 4 == 0 && field b 16 8 % 4 == 0 && field b 24 8 % 4 == 0 &&
  decide (1 ≤ field b 32 4) && decide (field b 32 4 < 2 ^ 31) && decide (1 ≤ field b 36 1) && decide (field b 36 1 ≤ 16) &&
  field b 37 3 == 0 && field b 40 8 % 16 == 0 && field b 48 4 % 16 == 0 && decide (16 ≤ field b 48 4) &&
  decide (field b 48 4 ≤ 2 ^ 30) && field b 52 4 == 0 && field b 56 8 % 16 == 0 && field b 64 8 % 16 == 0 && field b 88 40 == 0

/-- The first 128 bytes of a block, read as A-loads; every line of it translates (R232). -/
def State.readChain (s : State) (va : Word) : Chk (Nat × State) :=
  if va.toNat % 64 ≠ 0 then .trap 0x03 0 va
  else if inWindow va then .trap 0x06 0 va
  else
    (List.range 8).foldl (fun (acc : Chk (Nat × State)) k => acc.bind fun r =>
      let at' := va + BitVec.ofNat 64 (64 * k)
      ((r.2.memPlace at' .load s.me.a.priv).at' va).bind fun (p, t) =>
        let l := t.placeNow t.me.ctx p
        if 2 ≤ k then .ok (r.1, t)
        else if t.poisonedAt l 64 then .trap 0x09 0 va
        else .ok (r.1 + 2 ^ (512 * k) * t.readHome l 64, t.countMaybe l at' t.me.source)) (.ok (0, s))

/-- A slot entry keeps R231, for casks of `size` bytes. -/
def State.slotOk (s : State) (r size : Nat) : Bool :=
  let addr := BitVec.ofNat 64 (field r 0 8)
  let kind := field r 8 1
  addr.toNat % 16 == 0 && decide (kind < 8) && field r 9 7 == 0 &&
  (if kind / 4 = 1 then kind % 4 == 0 && inWindow addr && (s.padPlace s.me addr size).isSome
   else !inWindow addr && kind % 4 != 1 && (match s.rawPa s.me.ctx addr with | some pa => s.tierOf pa == kind % 4 | none => false))

/-- The first pair of items that overlap, ordered by the higher, then by the lower. -/
def firstOverlap (items : List Word) (size : Nat) : Option Nat :=
  (List.range items.length).find? (fun i => (items.take i).any (fun a => rangesMeet a.toNat size (items.getD i 0).toNat size))

/-- The checks that follow the rendezvous (R232): the state in which the block has been read, and the block. -/
def State.chainCheck (s : State) (va vx w : Word) : Chk (Nat × State) :=
  if va ≠ vx then .trap 0x01 6 w
  else (s.readChain va).bind fun (b, s1) =>
    if !chainBlockOk b then .trap 0x01 6 w
    else
      let c := field b 36 1
      let size := field b 48 4
      let at' (j : Nat) : Word := BitVec.ofNat 64 (field b 40 8 + 16 * j)
      ((List.range c).foldl (fun (acc : Chk (List Nat × State)) j => acc.bind fun p => (p.2.seqLoad (at' j) 16).bind fun r =>
        if r.2.slotOk r.1 size then .ok (p.1 ++ [r.1], r.2) else .trap 0x0F 0 (at' j)) (.ok ([], s1))).bind fun (ents, s2) =>
        let items := [BitVec.ofNat 64 (field b 56 8), BitVec.ofNat 64 (field b 64 8)] ++ ents.map (fun r => BitVec.ofNat 64 (field r 0 8))
        match firstOverlap items size with
        | some i => .trap 0x0F 0 (if i ≤ 1 then va + 56 else at' (i - 2))
        | none => .ok (b, s2)

/-- Loads a frame (R232): the enclosing frame goes to its image, and the first action is SNAP of x_0 into slot 0. -/
def State.loadFrame (s : State) (blk : Word) (b : Nat) : Chk State :=
  let m := s.me
  let parent := if m.cfd = 0 then 0 else m.cfr 1
  let cf : Vector Word 16 := #v[m.a.pc + 4, blk, BitVec.ofNat 64 (field b 56 8), BitVec.ofNat 64 (field b 64 8),
    BitVec.ofNat 64 (field b 72 8), 0, 0, BitVec.ofNat 64 (2 ^ 32 * field b 32 4), BitVec.ofNat 64 (2 ^ 16 * field b 36 1),
    BitVec.ofNat 64 (2 ^ 63), 0, 0, 0, 0, parent, m.x.pc + 4]
  (if m.cfd = 0 then .ok s else s.writeImage (m.cfr 1) m.cf).bind fun s1 =>
    (s1.seqStore (blk + 80) 8 0).bind fun s2 =>
      .ok (({ s2 with me := { s2.me with cfd := m.cfd + 1, cf := cf, plans := (0, 0) :: m.plans } }).startCask 1 0 0)

/-! ## The sequencer's transitions -/

/-- Both threads wait at the CHAIN instruction they last executed. A strand that is not placed, or a thread in its handler, leaves the
frame as it is (R238, R242). -/
def Strand.bothWait (m : Strand) : Bool :=
  m.status == .placed && m.chA.isSome && m.chX.isSome && m.a.priv == .u && m.x.priv == .u

/-- Both threads wait at the same CHAIN function: the values that they brought. -/
def Strand.rendezvous (m : Strand) (fn : Nat) : Option (Word × Word) :=
  match m.chA, m.chX with
  | some (wa, x), some (wx, y) => if m.bothWait && wFn6 wa = fn && wFn6 wx = fn then some (x, y) else none
  | _, _ => none

/-- The sequencer may read and write the blocks of its frames and the slot table: none of their pages is moving (R295). -/
def State.chainQuiet (s : State) : Bool :=
  s.me.cfd = 0 ||
    (!s.vaMoving s.me.ctx (s.me.cfr 1) 512 && !s.vaMoving s.me.ctx (s.slotAt 0) 256 &&
     (s.me.cfr 14 = 0 || !s.vaMoving s.me.ctx (s.me.cfr 14) 512))

/-- An action that a trap left unfinished goes on: a copy is issued anew, and the choice of the next action is made again
(R243). -/
def State.redoAction (s : State) : State :=
  match actOf (s.me.cfr 5) with
  | 1 => s.issueCask
  | 2 => s.issueCask
  | 4 => s.chainDone
  | _ => s.afterCall 3

/-- CHAIN_START (R232): both threads have arrived at `rvchain`, and the A-thread's stores are performed. -/
def execChainStart (s : State) : Out :=
  match s.me.rendezvous 0 with
  | none => .next s
  | some (va, vx) =>
    if s.me.aops.any (·.stores) || !s.chainQuiet || (s.me.cfd ≠ 0 && s.me.cfr 6 ≠ 0) then .next s
    else if s.me.cfd ≠ 0 && !callOf (s.me.cfr 5) then .next s.redoAction
    else
      match (s.chainCheck va vx s.me.wordA).bind (fun r => r.2.loadFrame va r.1) with
      | .stall _ => .next s
      | .trap cause sub v => .next (s.chainTrap cause sub v)
      | .ok t => .next t

/-- CALL_COMPLETE (R236): both threads have arrived at `rvret`; the pair completes as `fence.all pkg`, and the next action
begins. -/
def execCallComplete (s : State) : Out :=
  match s.me.rendezvous 1 with
  | none => .next s
  | some _ =>
    let act := s.me.cfr 5
    if !s.fenceQuiet || !s.chainQuiet || s.me.cfr 6 ≠ 0 then .next s
    else if !callOf act then .next s.redoAction
    else
      let s1 := s.setCf 5 (actWord (actOf act) false (slotOf act) (idxOf act))
      if actOf act = 0 then
        let s2 := (s1.setCf 2 (s.me.cfr 3)).setCf 3 (s.me.cfr 2)
        .next (((s2.setCidx (s.me.cidx + 1)).bumpCf 10).afterCall 0)
      else .next ((s1.bumpCf 13).afterCall 3)

/-- CASK_COPY_COMPLETE (R237, R243): the token of the copy in flight is complete. -/
def execCaskCopyComplete (s : State) : Out :=
  let tok := s.me.cfr 6
  let act := s.me.cfr 5
  if tok = 0 || !s.me.bothWait || !s.fenceQuiet || !s.chainQuiet then .next s
  else
    let st := s.tokenStatus tok
    let s1 := s.setCf 6 0
    match statusState st.1 with
    | 2 =>
      let cause := bits st.1.toNat 23 16
      .next (if cause = 0x13 then s1.chainTrap 0x0F 0 (s.slotAt (slotOf act)) else s1.chainTrap cause 0 st.2)
    | 0 => .next s
    | _ =>
      if actOf act = 1 then
        match (s1.bumpCf 11).afterSnap (slotOf act) with
        | .stall _ => .next s
        | .trap cause sub v => .next (s1.chainTrap cause sub v)
        | .ok t => .next t
      else .next (((s1.bumpCf 12).setCidx (idxOf act)).advanceOn)

/-- Pops `u` frames with status 2, innermost first; the return addresses are those of the last (R240). -/
def State.unwind (s : State) : Nat → Chk (Word × Word × State)
  | 0 => .ok (s.me.cfr 0, s.me.cfr 15, s)
  | u + 1 =>
    (s.popFrame 2).bind fun t => if u = 0 || t.me.cfd = 0 then .ok (s.me.cfr 0, s.me.cfr 15, t) else t.unwind u

/-- ABORT_UNWIND (R240): matching `rvabort` in both threads, once the copies of the frames are complete. -/
def execAbortUnwind (s : State) : Out :=
  match s.me.rendezvous 3 with
  | none => .next s
  | some (x, y) =>
    if x ≠ y || statusState (s.tokenStatus (s.me.cfr 6)).1 = 0 || !s.chainQuiet then .next s
    else
      match s.unwind (if x = 0 then 4 else x.toNat) with
      | .stall _ => .next s
      | .trap cause sub v => .next (s.chainTrap cause sub v)
      | .ok (pa, px, t) => .next (t.resumeBoth pa px)

/-- RENDEZVOUS_MISMATCH (R334, R240): the threads wait at different functions, or at `rvabort` with different counts. -/
def execRendezvousMismatch (s : State) : Out :=
  match s.me.chA, s.me.chX with
  | some (wa, x), some (wx, y) =>
    if s.me.bothWait && (wFn6 wa ≠ wFn6 wx || (wFn6 wa = 3 && x ≠ y)) then .next (s.chainTrap 0x01 6 s.me.wordA) else .next s
  | _, _ => .next s

end Sys2Proof.Machine
end

