-- ==== Sys2Proof/Machine/VArith.lean ====
section
/-!
DEFINITION. Vector integer and floating-point arithmetic (R152, R153).
-/

namespace Sys2Proof.Machine

/-! ## Operands (R149, R152) -/

/-- The second source of a word: the vs1 group, an x register or the 5-bit immediate. -/
inductive VSrc where
  | vec
  | x
  | imm
  | shamt
deriving DecidableEq, Repr

/-- The second operand of element `i`, of `w` bits, and the bits of the register file it is read from. -/
def VSrc.value (k : VSrc) (wd : IWord) (u : VecUnit) (x : Word) (w i : Nat) : Nat × List (Nat × Nat) :=
  match k with
  | .vec => (u.elem (wV1 wd).toNat w i, [(u.pos (wV1 wd).toNat w i, w)])
  | .x => (x.toNat % 2 ^ w, [])
  | .imm => (wrapInt w (wV1 wd).toInt, [])
  | .shamt => ((wV1 wd).toNat, [])

/-- The x register that a word reads. -/
def VSrc.regs (k : VSrc) (wd : IWord) : List RegNo :=
  match k with
  | .x => [wV1 wd]
  | _ => []

/-- Signedness of the captured type. -/
def Convoy.signed (c : Convoy) : Bool := (intOf c.et).getD true

/-! ## Integer functions (R152) -/

/-- A function of the element width, the signedness of the type, the two operands and the old destination element. -/
abbrev IntFn := Nat → Bool → Nat → Nat → Nat → Nat

/-- The bits `2w-1:w` of a product of integers. -/
def highProduct (w : Nat) (p : Int) : Nat := wrapInt (2 * w) p / 2 ^ w

/-- Quotient toward zero, saturating. -/
def elemDiv (sg : Bool) (w u v : Nat) : Nat :=
  let a := intValue sg w u
  let b := intValue sg w v
  if b = 0 then wrapInt w (if a < 0 then intLow sg w else intHigh sg w) else wrapInt w (saturate sg w (a.tdiv b))

/-- Remainder of the quotient toward zero. -/
def elemRem (sg : Bool) (w u v : Nat) : Nat :=
  let a := intValue sg w u
  let b := intValue sg w v
  if b = 0 then u else wrapInt w (a.tmod b)

/-- Lesser or greater of two elements. -/
def elemPick (sg wantMax : Bool) (w u v : Nat) : Nat :=
  if intValue sg w u < intValue sg w v then (if wantMax then v else u) else (if wantMax then u else v)

def fnAdd : IntFn := fun _ _ u v _ => u + v
def fnSub : IntFn := fun w _ u v _ => wrapInt w ((u : Int) - v)
def fnMul : IntFn := fun _ _ u v _ => u * v
def fnMulh : IntFn := fun w _ u v _ => highProduct w (signedOf w u * signedOf w v)
def fnMulhn : IntFn := fun w _ u v _ => highProduct w (u * v : Nat)
def fnDiv : IntFn := fun w _ u v _ => elemDiv true w u v
def fnDivn : IntFn := fun w _ u v _ => elemDiv false w u v
def fnRem : IntFn := fun w _ u v _ => elemRem true w u v
def fnRemn : IntFn := fun w _ u v _ => elemRem false w u v
def fnAnd : IntFn := fun _ _ u v _ => Nat.land u v
def fnOr : IntFn := fun _ _ u v _ => Nat.lor u v
def fnXor : IntFn := fun _ _ u v _ => Nat.xor u v
def fnSll : IntFn := fun w _ u v _ => u * 2 ^ (v % w)
def fnSrl : IntFn := fun w _ u v _ => u / 2 ^ (v % w)
def fnSra : IntFn := fun w _ u v _ => wrapInt w ((signedOf w u).fdiv (2 ^ (v % w)))
def fnMin : IntFn := fun w _ u v _ => elemPick true false w u v
def fnMax : IntFn := fun w _ u v _ => elemPick true true w u v
def fnMinn : IntFn := fun w _ u v _ => elemPick false false w u v
def fnMaxn : IntFn := fun w _ u v _ => elemPick false true w u v
def fnMacc : IntFn := fun _ _ u v d => d + u * v
def fnSadd : IntFn := fun w sg u v _ => wrapInt w (saturate sg w (intValue sg w u + intValue sg w v))
def fnSsub : IntFn := fun w sg u v _ => wrapInt w (saturate sg w (intValue sg w u - intValue sg w v))
def fnWadd : IntFn := fun w sg u v _ => wrapInt (2 * w) (intValue sg w u + intValue sg w v)
def fnWmul : IntFn := fun w sg u v _ => wrapInt (2 * w) (intValue sg w u * intValue sg w v)
def fnWmacc : IntFn := fun w sg u v d => wrapInt (2 * w) (d + intValue sg w u * intValue sg w v)

/-- `vnsra`: a `2w`-bit element shifted and clamped to the type. -/
def fnNsra : IntFn := fun w sg u v _ => wrapInt w (saturate sg w ((intValue sg (2 * w) u).fdiv (2 ^ (v % (2 * w)))))

/-- An integer word: element widths `a` of vs2 and `d` of the destination are multiples of the type's width; `acc` says
that it reads the destination. -/
def intPlan (wd : IWord) (k : VSrc) (a d : Nat) (acc : Bool) (f : IntFn) (c : Convoy) (x : Word) : Plan :=
  let r := (wVd wd).toNat
  let t := (wV2 wd).toNat
  { w := d * c.w, mask := wMask wd, dsts := [{ reg := r, n := d * c.g, w := d * c.w, et := c.et }], mdst := none, whole := false,
    gran := granOf (d * c.w),
    body := fun u _ i =>
      let v := k.value wd u x c.w i
      let dp := u.pos r (d * c.w) i
      ElRes.val dp (d * c.w) (f c.w c.signed (u.elem t (a * c.w) i) v.1 (if acc then u.get dp (d * c.w) else 0))
        ((u.pos t (a * c.w) i, a * c.w) :: v.2 ++ (if acc then [(dp, d * c.w)] else [])) }

/-- An integer word of one width. -/
def intOp (wd : IWord) (k : VSrc) (acc : Bool) (f : IntFn) (s : State) : Out :=
  planOp wd (k.regs wd) s fun _ c x => intPlan wd k 1 1 acc f c x

/-- A widening word, and `vnsra`, which narrows. -/
def wideOp (wd : IWord) (acc : Bool) (f : IntFn) (s : State) : Out :=
  planOp wd [] s fun _ c x => intPlan wd .vec 1 2 acc f c x
def narrowOp (wd : IWord) (f : IntFn) (s : State) : Out := planOp wd [] s fun _ c x => intPlan wd .vec 2 1 false f c x

/-! ## Floating-point functions (R153, R72, R83) -/

/-- A function of the captured type state, the source format, the destination format, the two operands and the old
destination element. -/
abbrev FpFn := Convoy → Fmt → Fmt → Nat → Nat → Nat → Nat × FF

/-- The rounding mode of an instruction that does not narrow: NS acts as RNE (R71). -/
def Convoy.prm (c : Convoy) : Nat := plainRm c.rm

/-- The format of the captured type. -/
def Convoy.fmt (c : Convoy) : Fmt := (fmtOf c.et).getD .f32

/-- An exact value rounded once to the destination format, with the flags of both steps. -/
def rounded (c : Convoy) (g : Fmt) (v : Val × FF) : Nat × FF :=
  let r := g.round c.fz c.prm v.1
  (r.1, v.2 ||| r.2)

def ffAdd : FpFn := fun c f g u v _ => rounded c g (Val.add c.prm (f.input c.fz u) (f.input c.fz v))
def ffSub : FpFn := fun c f g u v _ => rounded c g (Val.add c.prm (f.input c.fz u) (f.input c.fz v).negate)
def ffMul : FpFn := fun c f g u v _ => rounded c g (Val.mul (f.input c.fz u) (f.input c.fz v))
def ffDiv : FpFn := fun c f g u v _ => rounded c g (Val.div (f.input c.fz u) (f.input c.fz v))
def ffSqrt : FpFn := fun c f g u _ _ => rounded c g (f.input c.fz u).sqrt
def ffExp : FpFn := fun c f g u _ _ => rounded c g (f.input c.fz u).exp2
def ffLog : FpFn := fun c f g u _ _ => rounded c g (f.input c.fz u).log2
def ffRec : FpFn := fun c f g u _ _ => rounded c g (f.input c.fz u).recip
def ffRsq : FpFn := fun c f g u _ _ => rounded c g (f.input c.fz u).rsqrt
def ffMin : FpFn := fun c f _ u v _ => f.minMax c.fz false u v
def ffMax : FpFn := fun c f _ u v _ => f.minMax c.fz true u v
def ffMacc : FpFn := fun c f g u v d => rounded c g (fusedVal c.prm false (f.input c.fz u) (f.input c.fz v) (g.input c.fz d))
def ffSubm : FpFn := fun c f g u v d => rounded c g (fusedVal c.prm true (f.input c.fz u) (f.input c.fz v) (g.input c.fz d))

/-- A floating-point word: `wide` says that its results are FP32 in a group of 2G, `one` that it has one source, `acc`
that it reads the destination. A subnormal operand or result takes an assist unless `fz` is set (R77, R78). -/
def fpPlan (wd : IWord) (k : VSrc) (wide one acc : Bool) (f : FpFn) (c : Convoy) (x : Word) : Plan :=
  let r := (wVd wd).toNat
  let t := (wV2 wd).toNat
  let src := c.fmt
  let dst := if wide then Fmt.f32 else src
  let dw := dst.width
  { w := dw, mask := wMask wd, dsts := [{ reg := r, n := c.g * dw / c.w, w := dw, et := if wide then 0 else c.et }], mdst := none,
    whole := false, gran := granOf dw,
    body := fun u _ i =>
      let a := u.elem t c.w i
      let v := if one then (0, []) else k.value wd u x c.w i
      let dp := u.pos r dw i
      let d := if acc then u.get dp dw else 0
      let z := f c src dst a v.1 d
      { ElRes.val dp dw z.1 ((u.pos t c.w i, c.w) :: v.2 ++ (if acc then [(dp, dw)] else [])) with
        ff := z.2
        sub := !c.fz && (src.subnormal a || src.subnormal v.1 || dst.subnormal d || dst.subnormal z.1) } }

/-- A floating-point word. -/
def fpOp (wd : IWord) (k : VSrc) (wide one acc : Bool) (f : FpFn) (s : State) : Out :=
  planOp wd (k.regs wd) s fun _ c x => fpPlan wd k wide one acc f c x

/-- A word that moves (`vfcsgn`) or classifies (`one`: `vfkind`) the bits of floating-point elements: no flag. A subnormal that is
classified is an input like any other: flushed under `fz`, else assisted; one that is moved is neither (R77, R78). -/
def fpBits (wd : IWord) (one : Bool) (f : Fmt → Nat → Nat → Nat) (s : State) : Out :=
  planOp wd [] s fun _ c _ =>
    { w := c.w, mask := wMask wd, dsts := [{ reg := (wVd wd).toNat, n := c.g, w := c.w, et := c.et }], mdst := none, whole := false,
      gran := granOf c.w,
      body := fun u _ i =>
        let v := if one then (0, []) else VSrc.value .vec wd u 0 c.w i
        let t := (wV2 wd).toNat
        let a := u.elem t c.w i
        let flushed := if one && c.fz && c.fmt.subnormal a then a / 2 ^ (c.w - 1) * 2 ^ (c.w - 1) else a
        { ElRes.val (u.pos (wVd wd).toNat c.w i) c.w (f c.fmt flushed v.1) ((u.pos t c.w i, c.w) :: v.2) with
          sub := one && !c.fz && c.fmt.subnormal a } }

/-- `vfcsgn` of two codes. -/
def copySign (f : Fmt) (u v : Nat) : Nat := u % 2 ^ (f.width - 1) + v / 2 ^ (f.width - 1) % 2 * 2 ^ (f.width - 1)

/-! ## VINT.VV (0x24) -/

/-- `vadd.vv` (R152). -/
def execVaddVV (k : Bool) (d : RegNo) (s : RegNo) (t : RegNo) (a : Bool) (b : Bool) (mask : Option (BitVec 2)) (u0 : State) : Out :=
  intOp (packV 0x24#6 (BitVec.ofBool k) d s t (BitVec.ofBool a) (BitVec.ofBool b) (maskMe mask) (maskMk mask) 0#5) .vec false fnAdd u0

/-- `vsub.vv` (R152). -/
def execVsubVV (k : Bool) (d : RegNo) (s : RegNo) (t : RegNo) (a : Bool) (b : Bool) (mask : Option (BitVec 2)) (u0 : State) : Out :=
  intOp (packV 0x24#6 (BitVec.ofBool k) d s t (BitVec.ofBool a) (BitVec.ofBool b) (maskMe mask) (maskMk mask) 1#5) .vec false fnSub u0

/-- `vmul.vv` (R152). -/
def execVmulVV (k : Bool) (d : RegNo) (s : RegNo) (t : RegNo) (a : Bool) (b : Bool) (mask : Option (BitVec 2)) (u0 : State) : Out :=
  intOp (packV 0x24#6 (BitVec.ofBool k) d s t (BitVec.ofBool a) (BitVec.ofBool b) (maskMe mask) (maskMk mask) 2#5) .vec false fnMul u0

/-- `vmulh` (R152). -/
def execVmulh (k : Bool) (d : RegNo) (s : RegNo) (t : RegNo) (a : Bool) (b : Bool) (mask : Option (BitVec 2)) (u0 : State) : Out :=
  intOp (packV 0x24#6 (BitVec.ofBool k) d s t (BitVec.ofBool a) (BitVec.ofBool b) (maskMe mask) (maskMk mask) 3#5) .vec false fnMulh u0

/-- `vmulhn` (R152). -/
def execVmulhn (k : Bool) (d : RegNo) (s : RegNo) (t : RegNo) (a : Bool) (b : Bool) (mask : Option (BitVec 2)) (u0 : State) : Out :=
  intOp (packV 0x24#6 (BitVec.ofBool k) d s t (BitVec.ofBool a) (BitVec.ofBool b) (maskMe mask) (maskMk mask) 4#5) .vec false fnMulhn u0

/-- `vdiv` (R152). -/
def execVdiv (k : Bool) (d : RegNo) (s : RegNo) (t : RegNo) (a : Bool) (b : Bool) (mask : Option (BitVec 2)) (u0 : State) : Out :=
  intOp (packV 0x24#6 (BitVec.ofBool k) d s t (BitVec.ofBool a) (BitVec.ofBool b) (maskMe mask) (maskMk mask) 5#5) .vec false fnDiv u0

/-- `vdivn` (R152). -/
def execVdivn (k : Bool) (d : RegNo) (s : RegNo) (t : RegNo) (a : Bool) (b : Bool) (mask : Option (BitVec 2)) (u0 : State) : Out :=
  intOp (packV 0x24#6 (BitVec.ofBool k) d s t (BitVec.ofBool a) (BitVec.ofBool b) (maskMe mask) (maskMk mask) 6#5) .vec false fnDivn u0

/-- `vrem` (R152). -/
def execVrem (k : Bool) (d : RegNo) (s : RegNo) (t : RegNo) (a : Bool) (b : Bool) (mask : Option (BitVec 2)) (u0 : State) : Out :=
  intOp (packV 0x24#6 (BitVec.ofBool k) d s t (BitVec.ofBool a) (BitVec.ofBool b) (maskMe mask) (maskMk mask) 7#5) .vec false fnRem u0

/-- `vremn` (R152). -/
def execVremn (k : Bool) (d : RegNo) (s : RegNo) (t : RegNo) (a : Bool) (b : Bool) (mask : Option (BitVec 2)) (u0 : State) : Out :=
  intOp (packV 0x24#6 (BitVec.ofBool k) d s t (BitVec.ofBool a) (BitVec.ofBool b) (maskMe mask) (maskMk mask) 8#5) .vec false fnRemn u0

/-- `vand.vv` (R152). -/
def execVandVV (k : Bool) (d : RegNo) (s : RegNo) (t : RegNo) (a : Bool) (b : Bool) (mask : Option (BitVec 2)) (u0 : State) : Out :=
  intOp (packV 0x24#6 (BitVec.ofBool k) d s t (BitVec.ofBool a) (BitVec.ofBool b) (maskMe mask) (maskMk mask) 9#5) .vec false fnAnd u0

/-- `vor.vv` (R152). -/
def execVorVV (k : Bool) (d : RegNo) (s : RegNo) (t : RegNo) (a : Bool) (b : Bool) (mask : Option (BitVec 2)) (u0 : State) : Out :=
  intOp (packV 0x24#6 (BitVec.ofBool k) d s t (BitVec.ofBool a) (BitVec.ofBool b) (maskMe mask) (maskMk mask) 10#5) .vec false fnOr u0

/-- `vxor.vv` (R152). -/
def execVxorVV (k : Bool) (d : RegNo) (s : RegNo) (t : RegNo) (a : Bool) (b : Bool) (mask : Option (BitVec 2)) (u0 : State) : Out :=
  intOp (packV 0x24#6 (BitVec.ofBool k) d s t (BitVec.ofBool a) (BitVec.ofBool b) (maskMe mask) (maskMk mask) 11#5) .vec false fnXor u0

/-- `vsll.vv` (R152). -/
def execVsllVV (k : Bool) (d : RegNo) (s : RegNo) (t : RegNo) (a : Bool) (b : Bool) (mask : Option (BitVec 2)) (u0 : State) : Out :=
  intOp (packV 0x24#6 (BitVec.ofBool k) d s t (BitVec.ofBool a) (BitVec.ofBool b) (maskMe mask) (maskMk mask) 12#5) .vec false fnSll u0

/-- `vsrl.vv` (R152). -/
def execVsrlVV (k : Bool) (d : RegNo) (s : RegNo) (t : RegNo) (a : Bool) (b : Bool) (mask : Option (BitVec 2)) (u0 : State) : Out :=
  intOp (packV 0x24#6 (BitVec.ofBool k) d s t (BitVec.ofBool a) (BitVec.ofBool b) (maskMe mask) (maskMk mask) 13#5) .vec false fnSrl u0

/-- `vsra.vv` (R152). -/
def execVsraVV (k : Bool) (d : RegNo) (s : RegNo) (t : RegNo) (a : Bool) (b : Bool) (mask : Option (BitVec 2)) (u0 : State) : Out :=
  intOp (packV 0x24#6 (BitVec.ofBool k) d s t (BitVec.ofBool a) (BitVec.ofBool b) (maskMe mask) (maskMk mask) 14#5) .vec false fnSra u0

/-- `vmin.vv` (R152). -/
def execVminVV (k : Bool) (d : RegNo) (s : RegNo) (t : RegNo) (a : Bool) (b : Bool) (mask : Option (BitVec 2)) (u0 : State) : Out :=
  intOp (packV 0x24#6 (BitVec.ofBool k) d s t (BitVec.ofBool a) (BitVec.ofBool b) (maskMe mask) (maskMk mask) 15#5) .vec false fnMin u0

/-- `vmax.vv` (R152). -/
def execVmaxVV (k : Bool) (d : RegNo) (s : RegNo) (t : RegNo) (a : Bool) (b : Bool) (mask : Option (BitVec 2)) (u0 : State) : Out :=
  intOp (packV 0x24#6 (BitVec.ofBool k) d s t (BitVec.ofBool a) (BitVec.ofBool b) (maskMe mask) (maskMk mask) 16#5) .vec false fnMax u0

/-- `vminn` (R152). -/
def execVminn (k : Bool) (d : RegNo) (s : RegNo) (t : RegNo) (a : Bool) (b : Bool) (mask : Option (BitVec 2)) (u0 : State) : Out :=
  intOp (packV 0x24#6 (BitVec.ofBool k) d s t (BitVec.ofBool a) (BitVec.ofBool b) (maskMe mask) (maskMk mask) 17#5) .vec false fnMinn u0

/-- `vmaxn` (R152). -/
def execVmaxn (k : Bool) (d : RegNo) (s : RegNo) (t : RegNo) (a : Bool) (b : Bool) (mask : Option (BitVec 2)) (u0 : State) : Out :=
  intOp (packV 0x24#6 (BitVec.ofBool k) d s t (BitVec.ofBool a) (BitVec.ofBool b) (maskMe mask) (maskMk mask) 18#5) .vec false fnMaxn u0

/-- `vmacc.vv` (R152). -/
def execVmaccVV (k : Bool) (d : RegNo) (s : RegNo) (t : RegNo) (a : Bool) (b : Bool) (mask : Option (BitVec 2)) (u0 : State) : Out :=
  intOp (packV 0x24#6 (BitVec.ofBool k) d s t (BitVec.ofBool a) (BitVec.ofBool b) (maskMe mask) (maskMk mask) 19#5) .vec true fnMacc u0

/-- `vwadd` (R152). -/
def execVwadd (k : Bool) (d : RegNo) (s : RegNo) (t : RegNo) (a : Bool) (b : Bool) (mask : Option (BitVec 2)) (u0 : State) : Out :=
  wideOp (packV 0x24#6 (BitVec.ofBool k) d s t (BitVec.ofBool a) (BitVec.ofBool b) (maskMe mask) (maskMk mask) 20#5) false fnWadd u0

/-- `vwmul` (R152). -/
def execVwmul (k : Bool) (d : RegNo) (s : RegNo) (t : RegNo) (a : Bool) (b : Bool) (mask : Option (BitVec 2)) (u0 : State) : Out :=
  wideOp (packV 0x24#6 (BitVec.ofBool k) d s t (BitVec.ofBool a) (BitVec.ofBool b) (maskMe mask) (maskMk mask) 21#5) false fnWmul u0

/-- `vwmacc` (R152). -/
def execVwmacc (k : Bool) (d : RegNo) (s : RegNo) (t : RegNo) (a : Bool) (b : Bool) (mask : Option (BitVec 2)) (u0 : State) : Out :=
  wideOp (packV 0x24#6 (BitVec.ofBool k) d s t (BitVec.ofBool a) (BitVec.ofBool b) (maskMe mask) (maskMk mask) 22#5) true fnWmacc u0

/-- `vnsra` (R152). -/
def execVnsra (k : Bool) (d : RegNo) (s : RegNo) (t : RegNo) (a : Bool) (b : Bool) (mask : Option (BitVec 2)) (u0 : State) : Out :=
  narrowOp (packV 0x24#6 (BitVec.ofBool k) d s t (BitVec.ofBool a) (BitVec.ofBool b) (maskMe mask) (maskMk mask) 23#5) fnNsra u0

/-- `vsadd` (R152). -/
def execVsadd (k : Bool) (d : RegNo) (s : RegNo) (t : RegNo) (a : Bool) (b : Bool) (mask : Option (BitVec 2)) (u0 : State) : Out :=
  intOp (packV 0x24#6 (BitVec.ofBool k) d s t (BitVec.ofBool a) (BitVec.ofBool b) (maskMe mask) (maskMk mask) 24#5) .vec false fnSadd u0

/-- `vssub` (R152). -/
def execVssub (k : Bool) (d : RegNo) (s : RegNo) (t : RegNo) (a : Bool) (b : Bool) (mask : Option (BitVec 2)) (u0 : State) : Out :=
  intOp (packV 0x24#6 (BitVec.ofBool k) d s t (BitVec.ofBool a) (BitVec.ofBool b) (maskMe mask) (maskMk mask) 25#5) .vec false fnSsub u0

/-! ## VINT.VX (0x25) -/

/-- `vadd.vx` (R152). -/
def execVaddVX (k : Bool) (d : RegNo) (x : RegNo) (t : RegNo) (b : Bool) (mask : Option (BitVec 2)) (u0 : State) : Out :=
  intOp (packV 0x25#6 (BitVec.ofBool k) d x t 0#1 (BitVec.ofBool b) (maskMe mask) (maskMk mask) 0#5) .x false fnAdd u0

/-- `vsub.vx` (R152). -/
def execVsubVX (k : Bool) (d : RegNo) (x : RegNo) (t : RegNo) (b : Bool) (mask : Option (BitVec 2)) (u0 : State) : Out :=
  intOp (packV 0x25#6 (BitVec.ofBool k) d x t 0#1 (BitVec.ofBool b) (maskMe mask) (maskMk mask) 1#5) .x false fnSub u0

/-- `vmul.vx` (R152). -/
def execVmulVX (k : Bool) (d : RegNo) (x : RegNo) (t : RegNo) (b : Bool) (mask : Option (BitVec 2)) (u0 : State) : Out :=
  intOp (packV 0x25#6 (BitVec.ofBool k) d x t 0#1 (BitVec.ofBool b) (maskMe mask) (maskMk mask) 2#5) .x false fnMul u0

/-- `vand.vx` (R152). -/
def execVandVX (k : Bool) (d : RegNo) (x : RegNo) (t : RegNo) (b : Bool) (mask : Option (BitVec 2)) (u0 : State) : Out :=
  intOp (packV 0x25#6 (BitVec.ofBool k) d x t 0#1 (BitVec.ofBool b) (maskMe mask) (maskMk mask) 3#5) .x false fnAnd u0

/-- `vor.vx` (R152). -/
def execVorVX (k : Bool) (d : RegNo) (x : RegNo) (t : RegNo) (b : Bool) (mask : Option (BitVec 2)) (u0 : State) : Out :=
  intOp (packV 0x25#6 (BitVec.ofBool k) d x t 0#1 (BitVec.ofBool b) (maskMe mask) (maskMk mask) 4#5) .x false fnOr u0

/-- `vxor.vx` (R152). -/
def execVxorVX (k : Bool) (d : RegNo) (x : RegNo) (t : RegNo) (b : Bool) (mask : Option (BitVec 2)) (u0 : State) : Out :=
  intOp (packV 0x25#6 (BitVec.ofBool k) d x t 0#1 (BitVec.ofBool b) (maskMe mask) (maskMk mask) 5#5) .x false fnXor u0

/-- `vsll.vx` (R152). -/
def execVsllVX (k : Bool) (d : RegNo) (x : RegNo) (t : RegNo) (b : Bool) (mask : Option (BitVec 2)) (u0 : State) : Out :=
  intOp (packV 0x25#6 (BitVec.ofBool k) d x t 0#1 (BitVec.ofBool b) (maskMe mask) (maskMk mask) 6#5) .x false fnSll u0

/-- `vsrl.vx` (R152). -/
def execVsrlVX (k : Bool) (d : RegNo) (x : RegNo) (t : RegNo) (b : Bool) (mask : Option (BitVec 2)) (u0 : State) : Out :=
  intOp (packV 0x25#6 (BitVec.ofBool k) d x t 0#1 (BitVec.ofBool b) (maskMe mask) (maskMk mask) 7#5) .x false fnSrl u0

/-- `vsra.vx` (R152). -/
def execVsraVX (k : Bool) (d : RegNo) (x : RegNo) (t : RegNo) (b : Bool) (mask : Option (BitVec 2)) (u0 : State) : Out :=
  intOp (packV 0x25#6 (BitVec.ofBool k) d x t 0#1 (BitVec.ofBool b) (maskMe mask) (maskMk mask) 8#5) .x false fnSra u0

/-- `vmin.vx` (R152). -/
def execVminVX (k : Bool) (d : RegNo) (x : RegNo) (t : RegNo) (b : Bool) (mask : Option (BitVec 2)) (u0 : State) : Out :=
  intOp (packV 0x25#6 (BitVec.ofBool k) d x t 0#1 (BitVec.ofBool b) (maskMe mask) (maskMk mask) 9#5) .x false fnMin u0

/-- `vmax.vx` (R152). -/
def execVmaxVX (k : Bool) (d : RegNo) (x : RegNo) (t : RegNo) (b : Bool) (mask : Option (BitVec 2)) (u0 : State) : Out :=
  intOp (packV 0x25#6 (BitVec.ofBool k) d x t 0#1 (BitVec.ofBool b) (maskMe mask) (maskMk mask) 10#5) .x false fnMax u0

/-- `vmacc.vx` (R152). -/
def execVmaccVX (k : Bool) (d : RegNo) (x : RegNo) (t : RegNo) (b : Bool) (mask : Option (BitVec 2)) (u0 : State) : Out :=
  intOp (packV 0x25#6 (BitVec.ofBool k) d x t 0#1 (BitVec.ofBool b) (maskMe mask) (maskMk mask) 11#5) .x true fnMacc u0

/-! ## VINT.VI (0x26) -/

/-- `vadd.vi` (R152). -/
def execVaddVI (k : Bool) (d : RegNo) (i : RegNo) (t : RegNo) (b : Bool) (mask : Option (BitVec 2)) (u0 : State) : Out :=
  intOp (packV 0x26#6 (BitVec.ofBool k) d i t 0#1 (BitVec.ofBool b) (maskMe mask) (maskMk mask) 0#5) .imm false fnAdd u0

/-- `vand.vi` (R152). -/
def execVandVI (k : Bool) (d : RegNo) (i : RegNo) (t : RegNo) (b : Bool) (mask : Option (BitVec 2)) (u0 : State) : Out :=
  intOp (packV 0x26#6 (BitVec.ofBool k) d i t 0#1 (BitVec.ofBool b) (maskMe mask) (maskMk mask) 1#5) .imm false fnAnd u0

/-- `vor.vi` (R152). -/
def execVorVI (k : Bool) (d : RegNo) (i : RegNo) (t : RegNo) (b : Bool) (mask : Option (BitVec 2)) (u0 : State) : Out :=
  intOp (packV 0x26#6 (BitVec.ofBool k) d i t 0#1 (BitVec.ofBool b) (maskMe mask) (maskMk mask) 2#5) .imm false fnOr u0

/-- `vxor.vi` (R152). -/
def execVxorVI (k : Bool) (d : RegNo) (i : RegNo) (t : RegNo) (b : Bool) (mask : Option (BitVec 2)) (u0 : State) : Out :=
  intOp (packV 0x26#6 (BitVec.ofBool k) d i t 0#1 (BitVec.ofBool b) (maskMe mask) (maskMk mask) 3#5) .imm false fnXor u0

/-- `vsll.vi` (R152). -/
def execVsllVI (k : Bool) (d : RegNo) (i : RegNo) (t : RegNo) (b : Bool) (mask : Option (BitVec 2)) (u0 : State) : Out :=
  intOp (packV 0x26#6 (BitVec.ofBool k) d i t 0#1 (BitVec.ofBool b) (maskMe mask) (maskMk mask) 4#5) .shamt false fnSll u0

/-- `vsrl.vi` (R152). -/
def execVsrlVI (k : Bool) (d : RegNo) (i : RegNo) (t : RegNo) (b : Bool) (mask : Option (BitVec 2)) (u0 : State) : Out :=
  intOp (packV 0x26#6 (BitVec.ofBool k) d i t 0#1 (BitVec.ofBool b) (maskMe mask) (maskMk mask) 5#5) .shamt false fnSrl u0

/-- `vsra.vi` (R152). -/
def execVsraVI (k : Bool) (d : RegNo) (i : RegNo) (t : RegNo) (b : Bool) (mask : Option (BitVec 2)) (u0 : State) : Out :=
  intOp (packV 0x26#6 (BitVec.ofBool k) d i t 0#1 (BitVec.ofBool b) (maskMe mask) (maskMk mask) 6#5) .shamt false fnSra u0

/-! ## VFP.VV (0x27) -/

/-- `vfadd.vv` (R153). -/
def execVfaddVV (k : Bool) (d : RegNo) (s : RegNo) (t : RegNo) (a : Bool) (b : Bool) (mask : Option (BitVec 2)) (u0 : State) : Out :=
  fpOp (packV 0x27#6 (BitVec.ofBool k) d s t (BitVec.ofBool a) (BitVec.ofBool b) (maskMe mask) (maskMk mask) 0#5) .vec false false false ffAdd u0

/-- `vfsub.vv` (R153). -/
def execVfsubVV (k : Bool) (d : RegNo) (s : RegNo) (t : RegNo) (a : Bool) (b : Bool) (mask : Option (BitVec 2)) (u0 : State) : Out :=
  fpOp (packV 0x27#6 (BitVec.ofBool k) d s t (BitVec.ofBool a) (BitVec.ofBool b) (maskMe mask) (maskMk mask) 1#5) .vec false false false ffSub u0

/-- `vfmul.vv` (R153). -/
def execVfmulVV (k : Bool) (d : RegNo) (s : RegNo) (t : RegNo) (a : Bool) (b : Bool) (mask : Option (BitVec 2)) (u0 : State) : Out :=
  fpOp (packV 0x27#6 (BitVec.ofBool k) d s t (BitVec.ofBool a) (BitVec.ofBool b) (maskMe mask) (maskMk mask) 2#5) .vec false false false ffMul u0

/-- `vfdiv` (R153). -/
def execVfdiv (k : Bool) (d : RegNo) (s : RegNo) (t : RegNo) (a : Bool) (b : Bool) (mask : Option (BitVec 2)) (u0 : State) : Out :=
  fpOp (packV 0x27#6 (BitVec.ofBool k) d s t (BitVec.ofBool a) (BitVec.ofBool b) (maskMe mask) (maskMk mask) 3#5) .vec false false false ffDiv u0

/-- `vfsqrt` (R153). -/
def execVfsqrt (k : Bool) (d : RegNo) (t : RegNo) (b : Bool) (mask : Option (BitVec 2)) (u0 : State) : Out :=
  fpOp (packV 0x27#6 (BitVec.ofBool k) d 0#5 t 0#1 (BitVec.ofBool b) (maskMe mask) (maskMk mask) 4#5) .vec false true false ffSqrt u0

/-- `vfmin.vv` (R153). -/
def execVfminVV (k : Bool) (d : RegNo) (s : RegNo) (t : RegNo) (a : Bool) (b : Bool) (mask : Option (BitVec 2)) (u0 : State) : Out :=
  fpOp (packV 0x27#6 (BitVec.ofBool k) d s t (BitVec.ofBool a) (BitVec.ofBool b) (maskMe mask) (maskMk mask) 5#5) .vec false false false ffMin u0

/-- `vfmax.vv` (R153). -/
def execVfmaxVV (k : Bool) (d : RegNo) (s : RegNo) (t : RegNo) (a : Bool) (b : Bool) (mask : Option (BitVec 2)) (u0 : State) : Out :=
  fpOp (packV 0x27#6 (BitVec.ofBool k) d s t (BitVec.ofBool a) (BitVec.ofBool b) (maskMe mask) (maskMk mask) 6#5) .vec false false false ffMax u0

/-- `vfmacc.vv` (R153). -/
def execVfmaccVV (k : Bool) (d : RegNo) (s : RegNo) (t : RegNo) (a : Bool) (b : Bool) (mask : Option (BitVec 2)) (u0 : State) : Out :=
  fpOp (packV 0x27#6 (BitVec.ofBool k) d s t (BitVec.ofBool a) (BitVec.ofBool b) (maskMe mask) (maskMk mask) 7#5) .vec false false true ffMacc u0

/-- `vfsubm` (R153). -/
def execVfsubm (k : Bool) (d : RegNo) (s : RegNo) (t : RegNo) (a : Bool) (b : Bool) (mask : Option (BitVec 2)) (u0 : State) : Out :=
  fpOp (packV 0x27#6 (BitVec.ofBool k) d s t (BitVec.ofBool a) (BitVec.ofBool b) (maskMe mask) (maskMk mask) 8#5) .vec false false true ffSubm u0

/-- `vfwadd` (R153). -/
def execVfwadd (k : Bool) (d : RegNo) (s : RegNo) (t : RegNo) (a : Bool) (b : Bool) (mask : Option (BitVec 2)) (u0 : State) : Out :=
  fpOp (packV 0x27#6 (BitVec.ofBool k) d s t (BitVec.ofBool a) (BitVec.ofBool b) (maskMe mask) (maskMk mask) 9#5) .vec true false false ffAdd u0

/-- `vfwmul` (R153). -/
def execVfwmul (k : Bool) (d : RegNo) (s : RegNo) (t : RegNo) (a : Bool) (b : Bool) (mask : Option (BitVec 2)) (u0 : State) : Out :=
  fpOp (packV 0x27#6 (BitVec.ofBool k) d s t (BitVec.ofBool a) (BitVec.ofBool b) (maskMe mask) (maskMk mask) 10#5) .vec true false false ffMul u0

/-- `vfwmacc` (R153). -/
def execVfwmacc (k : Bool) (d : RegNo) (s : RegNo) (t : RegNo) (a : Bool) (b : Bool) (mask : Option (BitVec 2)) (u0 : State) : Out :=
  fpOp (packV 0x27#6 (BitVec.ofBool k) d s t (BitVec.ofBool a) (BitVec.ofBool b) (maskMe mask) (maskMk mask) 11#5) .vec true false true ffMacc u0

/-- `vfexp` (R83). -/
def execVfexp (k : Bool) (d : RegNo) (t : RegNo) (b : Bool) (mask : Option (BitVec 2)) (u0 : State) : Out :=
  fpOp (packV 0x27#6 (BitVec.ofBool k) d 0#5 t 0#1 (BitVec.ofBool b) (maskMe mask) (maskMk mask) 12#5) .vec false true false ffExp u0

/-- `vflog` (R83). -/
def execVflog (k : Bool) (d : RegNo) (t : RegNo) (b : Bool) (mask : Option (BitVec 2)) (u0 : State) : Out :=
  fpOp (packV 0x27#6 (BitVec.ofBool k) d 0#5 t 0#1 (BitVec.ofBool b) (maskMe mask) (maskMk mask) 13#5) .vec false true false ffLog u0

/-- `vfrec` (R83). -/
def execVfrec (k : Bool) (d : RegNo) (t : RegNo) (b : Bool) (mask : Option (BitVec 2)) (u0 : State) : Out :=
  fpOp (packV 0x27#6 (BitVec.ofBool k) d 0#5 t 0#1 (BitVec.ofBool b) (maskMe mask) (maskMk mask) 14#5) .vec false true false ffRec u0

/-- `vfrsq` (R83). -/
def execVfrsq (k : Bool) (d : RegNo) (t : RegNo) (b : Bool) (mask : Option (BitVec 2)) (u0 : State) : Out :=
  fpOp (packV 0x27#6 (BitVec.ofBool k) d 0#5 t 0#1 (BitVec.ofBool b) (maskMe mask) (maskMk mask) 15#5) .vec false true false ffRsq u0

/-- `vfcsgn` (R153). -/
def execVfcsgn (k : Bool) (d : RegNo) (s : RegNo) (t : RegNo) (a : Bool) (b : Bool) (mask : Option (BitVec 2)) (u0 : State) : Out :=
  fpBits (packV 0x27#6 (BitVec.ofBool k) d s t (BitVec.ofBool a) (BitVec.ofBool b) (maskMe mask) (maskMk mask) 16#5) false copySign u0

/-- `vfkind` (R153). -/
def execVfkind (k : Bool) (d : RegNo) (t : RegNo) (b : Bool) (mask : Option (BitVec 2)) (u0 : State) : Out :=
  fpBits (packV 0x27#6 (BitVec.ofBool k) d 0#5 t 0#1 (BitVec.ofBool b) (maskMe mask) (maskMk mask) 17#5) true (fun f a _ => f.kindCode a) u0

/-! ## VFP.VX (0x28) -/

/-- `vfadd.vx` (R153). -/
def execVfaddVX (k : Bool) (d : RegNo) (x : RegNo) (t : RegNo) (b : Bool) (mask : Option (BitVec 2)) (u0 : State) : Out :=
  fpOp (packV 0x28#6 (BitVec.ofBool k) d x t 0#1 (BitVec.ofBool b) (maskMe mask) (maskMk mask) 0#5) .x false false false ffAdd u0

/-- `vfsub.vx` (R153). -/
def execVfsubVX (k : Bool) (d : RegNo) (x : RegNo) (t : RegNo) (b : Bool) (mask : Option (BitVec 2)) (u0 : State) : Out :=
  fpOp (packV 0x28#6 (BitVec.ofBool k) d x t 0#1 (BitVec.ofBool b) (maskMe mask) (maskMk mask) 1#5) .x false false false ffSub u0

/-- `vfmul.vx` (R153). -/
def execVfmulVX (k : Bool) (d : RegNo) (x : RegNo) (t : RegNo) (b : Bool) (mask : Option (BitVec 2)) (u0 : State) : Out :=
  fpOp (packV 0x28#6 (BitVec.ofBool k) d x t 0#1 (BitVec.ofBool b) (maskMe mask) (maskMk mask) 2#5) .x false false false ffMul u0

/-- `vfmacc.vx` (R153). -/
def execVfmaccVX (k : Bool) (d : RegNo) (x : RegNo) (t : RegNo) (b : Bool) (mask : Option (BitVec 2)) (u0 : State) : Out :=
  fpOp (packV 0x28#6 (BitVec.ofBool k) d x t 0#1 (BitVec.ofBool b) (maskMe mask) (maskMk mask) 3#5) .x false false true ffMacc u0

/-- `vfmin.vx` (R153). -/
def execVfminVX (k : Bool) (d : RegNo) (x : RegNo) (t : RegNo) (b : Bool) (mask : Option (BitVec 2)) (u0 : State) : Out :=
  fpOp (packV 0x28#6 (BitVec.ofBool k) d x t 0#1 (BitVec.ofBool b) (maskMe mask) (maskMk mask) 4#5) .x false false false ffMin u0

/-- `vfmax.vx` (R153). -/
def execVfmaxVX (k : Bool) (d : RegNo) (x : RegNo) (t : RegNo) (b : Bool) (mask : Option (BitVec 2)) (u0 : State) : Out :=
  fpOp (packV 0x28#6 (BitVec.ofBool k) d x t 0#1 (BitVec.ofBool b) (maskMe mask) (maskMk mask) 5#5) .x false false false ffMax u0

end Sys2Proof.Machine
end

