-- ==== Sys2Proof/Machine/VConvert.lean ====
section
/-!
DEFINITION. Conversions (R154-R156, R70-R75) and reductions (R157, R81, R82).
-/

namespace Sys2Proof.Machine

/-! ## Conversions (R155) -/

/-- The element types and the registers of the two groups of a conversion word. -/
structure Cvt where
  src : Nat
  dst : Nat
  ns : Nat
  nd : Nat
deriving DecidableEq, Repr

/-- The pair that a word names under the captured type (R154, R155); the issue checks have refused a word without one. -/
def cvtOf (wd : IWord) (c : Convoy) : Cvt :=
  let p := (cvtPair wd c.et).getD (c.et, c.et)
  let n (t : Nat) : Nat := if t = c.et then c.g else wideRegs c.g c.w (etypeWidth t)
  { src := p.1, dst := p.2, ns := n p.1, nd := n p.2 }

/-- An element code is a subnormal that takes an assist: one of a wide format, unless `fz` is set (R77, R78). -/
def Convoy.assisted (c : Convoy) (et code : Nat) : Bool :=
  !c.fz && (match fmtOf et with | some f => f.subnormal code | none => false)

/-- What a conversion of one element gives: its code, its flags and, where it took part in noise-shaped rounding, the new
residue and the FP32 patterns of that rounding. -/
structure CvtRes where
  code : Nat
  ff : FF
  ns : Option Nat
  parts : List Nat

/-- The value of an element as a conversion reads it. -/
def Convoy.input (c : Convoy) (et code : Nat) : Val :=
  match fmtOf et with
  | some f => f.input c.fz code
  | none => .ofInt (intValue ((intOf et).getD true) (etypeWidth et) code)

/-- Rounds a value to an element type: by R73 under NS, for a float type, when `shaped` is set; by R71 or R70 otherwise. -/
def Convoy.narrow (c : Convoy) (shaped : Bool) (et residue : Nat) (v : Val) : CvtRes :=
  match fmtOf et with
  | some f =>
    if shaped && c.rm = 4 then
      let r := f.noiseShaped c.fz v residue
      { code := r.1, ff := r.2.2, ns := some r.2.1, parts := shapedParts v residue r.2.1 }
    else
      let r := f.round c.fz c.prm v
      { code := r.1, ff := r.2, ns := none, parts := [] }
  | none =>
    let sg := (intOf et).getD true
    let w := etypeWidth et
    let r := toInteger c.prm (intLow sg w) (intHigh sg w) v
    { code := wrapInt w r.1, ff := r.2, ns := none, parts := [] }

/-- A conversion word from what it gives for one element of a code. A subnormal residue, or sum with it, takes an assist as a source
does (R77; DEDUCED, log entry 102). -/
def cvtPlan (wd : IWord) (c : Convoy) (f : VecUnit → Cvt → Nat → Nat → Nat → CvtRes × Option (Nat × Nat × Nat)) : Plan :=
  let k := cvtOf wd c
  let sw := etypeWidth k.src
  let dw := etypeWidth k.dst
  let r := (wVd wd).toNat
  let t := (wV2 wd).toNat
  { w := dw, mask := wMask wd, dsts := [{ reg := r, n := k.nd, w := dw, et := k.dst }], mdst := none, whole := false, gran := granOf dw,
    body := fun u residue i =>
      let x := u.elem t sw i
      let z := f u k residue i x
      { ElRes.val (u.pos r dw i) dw z.1.code [(u.pos t sw i, sw)] with
        ff := z.1.ff
        ns := z.1.ns
        scale := z.2
        sub := c.assisted k.src x || c.assisted k.dst z.1.code || z.1.parts.any (c.assisted 0) } }

/-- A conversion word. -/
def cvtOp (wd : IWord) (s : State)
    (f : Convoy → VecUnit → Cvt → Nat → Nat → Nat → CvtRes × Option (Nat × Nat × Nat)) : Out :=
  planOp wd [] s fun _ c _ => cvtPlan wd c (f c)

/-- A conversion that rounds once, by R73 under NS. -/
def cvtRound (c : Convoy) (_ : VecUnit) (k : Cvt) (residue _ x : Nat) : CvtRes × Option (Nat × Nat × Nat) :=
  (c.narrow true k.dst residue (c.input k.src x), none)

/-- A conversion by the rows of R74 and R70, in which NS acts as RNE. -/
def cvtPlain (c : Convoy) (_ : VecUnit) (k : Cvt) (_ _ x : Nat) : CvtRes × Option (Nat × Nat × Nat) :=
  let r := convertCode k.src k.dst c.fz c.prm x
  ({ code := r.1, ff := r.2, ns := none, parts := [] }, none)

/-! ## Block scaling (R75, R156) -/

/-- The largest finite value of a scaled target, as `m 2^e` (R75). -/
def scaleMax (et : Nat) : Nat × Int :=
  match et with
  | 3 => (7, 6)
  | 4 => (7, 13)
  | 5 => (1, 18)
  | 6 => (7, 2)
  | 7 => (15, -1)
  | 8 => (3, 1)
  | 11 => (127, 0)
  | _ => (7, 0)

/-- A magnitude `m 2^e` is at most `n 2^k`. -/
def magLe (m : Nat) (e : Int) (n : Nat) (k : Int) : Bool :=
  let q := min e k
  decide (m * 2 ^ (e - q).toNat ≤ n * 2 ^ (k - q).toNat)

/-- The greater of two magnitudes. -/
def magMax (a b : Nat × Int) : Nat × Int := if magLe a.1 a.2 b.1 b.2 then b else a

/-- The scale of a block whose largest magnitude is given: 127 plus the least exponent that brings it within the target,
clamped (R75). -/
def blockScale (et : Nat) (x : Nat × Int) : Nat :=
  if x.1 = 0 then 127
  else
    let m := scaleMax et
    let near : Int := (Nat.log2 x.1 : Int) + x.2 - (Nat.log2 m.1 : Int) - m.2
    let fits (s : Int) : Bool := magLe x.1 x.2 m.1 (m.2 + s)
    let s : Int := if fits (near - 1) then near - 1 else if fits near then near else near + 1
    (127 + max (-127) (min 127 s)).toNat

/-- The active elements of block `b` of a word. -/
def VecUnit.block (u : VecUnit) (c : Convoy) (m : Option Nat) (b : Nat) : List Nat :=
  (span (Nat.max (32 * b) c.vstart) (Nat.min (32 * b + 32) c.vl)).filter (u.admits m)

/-- `vcvtq` of one element (R75): its block's scale, and the element scaled and rounded. -/
def quantise (wd : IWord) (c : Convoy) (u : VecUnit) (k : Cvt) (residue i x : Nat) : CvtRes × Option (Nat × Nat × Nat) :=
  let sw := etypeWidth k.src
  let sc := scaleOf (wVd wd).toNat (regCount u.vcfg)
  let vs := (u.block c (wMask wd) (i / 32)).map (fun j => c.input k.src (u.elem (wV2 wd).toNat sw j))
  if vs.any (fun v => v.isNan || v.isInf) then ({ code := 0, ff := ffNv, ns := none, parts := [] }, some (sc, i / 32, 0xFF))
  else
    let mags := vs.map (fun v => match v with | .fin _ m e _ => (m, e) | _ => (0, 0))
    let s := blockScale k.dst (mags.foldl magMax (0, 0))
    (c.narrow true k.dst residue ((c.input k.src x).scale (127 - (s : Int))), some (sc, i / 32, s))

/-- `vdeq` of one element (R75). -/
def dequantise (wd : IWord) (c : Convoy) (u : VecUnit) (k : Cvt) (residue i x : Nat) : CvtRes × Option (Nat × Nat × Nat) :=
  let s := u.scaleAt (scaleOf (wV2 wd).toNat (regCount u.vcfg)) (i / 32)
  if s = 0xFF then (c.narrow true k.dst residue (.nan false), none)
  else (c.narrow true k.dst residue ((c.input k.src x).scale ((s : Int) - 127)), none)

/-! ## Reductions (R157) -/

/-- What a reduction gives: element 0 of its destination, flags, and the source elements at which a sum is subnormal. -/
structure RedRes where
  val : Nat
  ff : FF
  subs : List Nat

/-- A reduction word (R157): `wide` says that vd and vs1 are FP32. With no active element, element 0 of vs1 goes to vd
unchanged. A subnormal that a lane consumes or produces takes an assist in the granule of the source element (R77): an element of
vs2 in its own, element 0 of vs1 in that of element 0, and a sum in that of the element it is reached at (log entry 34). -/
def redOp (wd : IWord) (wide : Bool) (s : State) (f : Convoy → VecUnit → List Nat → Nat → RedRes) : Out :=
  vecOp wd [] none s fun s1 c _ _ =>
    let m := wMask wd
    let h := s1.ran c m
    if c.vl = 0 then .done (s1.vretire wd c h)
    else
      let u := s1.vu
      let dw := if wide then 32 else c.w
      let d : Dst := { reg := (wVd wd).toNat, n := c.g * dw / c.w, w := dw, et := if wide then 0 else c.et }
      let is := u.active c m
      let e0 := u.elem (wV1 wd).toNat dw 0
      let r : RedRes := if is.isEmpty then ⟨e0, 0, []⟩ else f c u is e0
      let t := (wV2 wd).toNat
      let subs := is.filter (fun i => c.assisted c.et (u.elem t c.w i)) ++
        (if !is.isEmpty && c.assisted d.et e0 then [0] else []) ++ (if c.fz then [] else r.subs)
      let u1 := u.put (u.pos d.reg dw 0) dw r.val
      let u2 := if c.tfill then d.fill (span 1 (d.count u.vcfg)) u1 else u1
      let marked := u.marked (u.pos (wV1 wd).toNat dw 0) dw || is.any (fun i => u.marked (u.pos t c.w i) c.w) ||
        d.readsMarked u { c with vl := 1, vstart := 0 } none
      let s2 := ({ s1 with vu := u2 }).raise r.ff marked
      let grans := dedupNat (subs.map (granOf c.w))
      .done (({ s2 with me := { s2.me with assists := s2.me.assists + grans.length } }).vretire wd c h)

/-- The active elements of the source group. -/
def sources (wd : IWord) (c : Convoy) (u : VecUnit) (is : List Nat) : List Nat := is.map (u.elem (wV2 wd).toNat c.w)

/-- An integer reduction. -/
def redInt (wd : IWord) (f : IntFn) (s : State) : Out :=
  redOp wd false s fun c u is e0 => ⟨(sources wd c u is).foldl (fun a v => f c.w c.signed a v 0 % 2 ^ c.w) e0, 0, []⟩

/-- The greatest or least of the elements (R72): an exact choice of one of them. -/
def redPick (wd : IWord) (wantMax : Bool) (s : State) : Out :=
  redOp wd false s fun c u is e0 =>
    (sources wd c u is).foldl (fun (a : RedRes) v =>
      let r := c.fmt.minMax c.fz wantMax a.val v
      ⟨r.1, a.ff ||| r.2, []⟩) ⟨e0, 0, []⟩

/-- The format that a sum is accumulated in, and one addition. DESIGN CHOICE (log entry 101): a signalling NaN that is widened for an
addition is an operand of the addition, so that it sets `nv` (R72, R74). -/
def accFmt (c : Convoy) (wide : Bool) : Fmt := if wide then .f32 else c.fmt
def redAdd (c : Convoy) (g : Fmt) (a b : Val) : Nat × FF := rounded c g (Val.add c.prm a b)

/-- An ordered sum (R81). -/
def redOrdered (wd : IWord) (wide : Bool) (s : State) : Out :=
  redOp wd wide s fun c u is e0 =>
    let g := accFmt c wide
    is.foldl (fun (a : RedRes) i =>
      let r := redAdd c g (g.input c.fz a.val) (c.fmt.input c.fz (u.elem (wV2 wd).toNat c.w i))
      ⟨r.1, a.ff ||| r.2, if g.subnormal r.1 then i :: a.subs else a.subs⟩) ⟨e0, 0, []⟩

/-- A node of the tree of R82: absent, or the lowest of its elements and its value; with the flags of the additions below it and
the elements at which a sum is subnormal. -/
structure Node where
  sum : Option (Nat × Val)
  ff : FF
  subs : List Nat

/-- No node. -/
def Node.absent : Node := ⟨none, 0, []⟩

/-- Two children: both are added, one alone is taken unchanged. -/
def join (c : Convoy) (g : Fmt) (a b : Node) : Node :=
  match a.sum, b.sum with
  | some x, some y =>
    let r := redAdd c g x.2 y.2
    ⟨some (x.1, g.input c.fz r.1), a.ff ||| b.ff ||| r.2, a.subs ++ b.subs ++ (if g.subnormal r.1 then [x.1] else [])⟩
  | some _, none => ⟨a.sum, a.ff ||| b.ff, a.subs ++ b.subs⟩
  | none, _ => ⟨b.sum, a.ff ||| b.ff, a.subs ++ b.subs⟩

/-- One level of a balanced binary tree, in index order. -/
def pairUp (c : Convoy) (g : Fmt) : List Node → List Node
  | a :: b :: l => join c g a b :: pairUp c g l
  | l => l

/-- A balanced binary tree of at most `2^n` leaves. -/
def treeSum (c : Convoy) (g : Fmt) : Nat → List Node → Node
  | 0, l => l.headD .absent
  | n + 1, l => treeSum c g n (pairUp c g l)

/-- The tree sum of a group (R82): within granules, across the lanes of each beat, across the beats of each register, and
then register after register. -/
def treeOf (wd : IWord) (c : Convoy) (u : VecUnit) (g : Fmt) : Node :=
  let m := wMask wd
  let per := 128 / c.w
  let leaf (i : Nat) : Node :=
    if i < c.vl && u.admits m i then ⟨some (i, c.fmt.input c.fz (u.elem (wV2 wd).toNat c.w i)), 0, []⟩ else .absent
  let gran (k : Nat) : Node :=
    if c.vl ≤ k * per then .absent else treeSum c g 4 ((List.range per).map (fun j => leaf (k * per + j)))
  let beat (k : Nat) : Node := treeSum c g 4 ((List.range 16).map (fun l => gran (16 * k + l)))
  let beats := regBits u.vcfg / 2048
  let reg (r : Nat) : Node := treeSum c g 6 ((List.range beats).map (fun b => beat (r * beats + b)))
  (List.range c.g).foldl (fun a r => join c g a (reg r)) .absent

/-- A tree sum (R82). -/
def redTree (wd : IWord) (wide : Bool) (s : State) : Out :=
  redOp wd wide s fun c u _ e0 =>
    let g := accFmt c wide
    let t := treeOf wd c u g
    match t.sum with
    | none => ⟨e0, 0, []⟩
    | some x =>
      let r := redAdd c g (g.input c.fz e0) x.2
      ⟨r.1, t.ff ||| r.2, if g.subnormal r.1 then 0 :: t.subs else t.subs⟩

/-! ## VCVT (0x29) -/

/-- `vfcvt.w` (R155). -/
def execVfcvtW (k : Bool) (d : RegNo) (y : RegNo) (t : RegNo) (b : Bool) (mask : Option (BitVec 2)) (u0 : State) : Out :=
  cvtOp (packV 0x29#6 (BitVec.ofBool k) d y t 0#1 (BitVec.ofBool b) (maskMe mask) (maskMk mask) 0#5) u0 cvtPlain

/-- `vfcvt.n` (R155). -/
def execVfcvtN (k : Bool) (d : RegNo) (y : RegNo) (t : RegNo) (b : Bool) (mask : Option (BitVec 2)) (u0 : State) : Out :=
  cvtOp (packV 0x29#6 (BitVec.ofBool k) d y t 0#1 (BitVec.ofBool b) (maskMe mask) (maskMk mask) 1#5) u0 cvtRound

/-- `vfcvt.fi` (R155). -/
def execVfcvtFi (k : Bool) (d : RegNo) (y : RegNo) (t : RegNo) (b : Bool) (mask : Option (BitVec 2)) (u0 : State) : Out :=
  cvtOp (packV 0x29#6 (BitVec.ofBool k) d y t 0#1 (BitVec.ofBool b) (maskMe mask) (maskMk mask) 2#5) u0 cvtPlain

/-- `vfcvt.if` (R155). -/
def execVfcvtIf (k : Bool) (d : RegNo) (y : RegNo) (t : RegNo) (b : Bool) (mask : Option (BitVec 2)) (u0 : State) : Out :=
  cvtOp (packV 0x29#6 (BitVec.ofBool k) d y t 0#1 (BitVec.ofBool b) (maskMe mask) (maskMk mask) 3#5) u0 cvtRound

/-- `vcvt.i` (R155). -/
def execVcvtI (k : Bool) (d : RegNo) (y : RegNo) (t : RegNo) (r : Bool) (b : Bool) (mask : Option (BitVec 2)) (u0 : State) : Out :=
  cvtOp (packV 0x29#6 (BitVec.ofBool k) d y t (BitVec.ofBool r) (BitVec.ofBool b) (maskMe mask) (maskMk mask) 4#5) u0 cvtPlain

/-- `vcvtq` (R156). -/
def execVcvtq (k : Bool) (d : RegNo) (y : RegNo) (t : RegNo) (b : Bool) (mask : Option (BitVec 2)) (u0 : State) : Out :=
  cvtOp (packV 0x29#6 (BitVec.ofBool k) d y t 0#1 (BitVec.ofBool b) (maskMe mask) (maskMk mask) 5#5) u0 (quantise (packV 0x29#6 (BitVec.ofBool k) d y t 0#1 (BitVec.ofBool b) (maskMe mask) (maskMk mask) 5#5))

/-- `vdeq` (R156). -/
def execVdeq (k : Bool) (d : RegNo) (y : RegNo) (t : RegNo) (b : Bool) (mask : Option (BitVec 2)) (u0 : State) : Out :=
  cvtOp (packV 0x29#6 (BitVec.ofBool k) d y t 0#1 (BitVec.ofBool b) (maskMe mask) (maskMk mask) 6#5) u0 (dequantise (packV 0x29#6 (BitVec.ofBool k) d y t 0#1 (BitVec.ofBool b) (maskMe mask) (maskMk mask) 6#5))

/-! ## VRED (0x2A) -/

/-- `vredsum` (R157). -/
def execVredsum (k : Bool) (d : RegNo) (s : RegNo) (t : RegNo) (a : Bool) (b : Bool) (mask : Option (BitVec 2)) (u0 : State) : Out :=
  redInt (packV 0x2a#6 (BitVec.ofBool k) d s t (BitVec.ofBool a) (BitVec.ofBool b) (maskMe mask) (maskMk mask) 0#5) fnAdd u0

/-- `vredmax` (R157). -/
def execVredmax (k : Bool) (d : RegNo) (s : RegNo) (t : RegNo) (a : Bool) (b : Bool) (mask : Option (BitVec 2)) (u0 : State) : Out :=
  redInt (packV 0x2a#6 (BitVec.ofBool k) d s t (BitVec.ofBool a) (BitVec.ofBool b) (maskMe mask) (maskMk mask) 1#5) fnMax u0

/-- `vredmin` (R157). -/
def execVredmin (k : Bool) (d : RegNo) (s : RegNo) (t : RegNo) (a : Bool) (b : Bool) (mask : Option (BitVec 2)) (u0 : State) : Out :=
  redInt (packV 0x2a#6 (BitVec.ofBool k) d s t (BitVec.ofBool a) (BitVec.ofBool b) (maskMe mask) (maskMk mask) 2#5) fnMin u0

/-- `vredmaxn` (R157). -/
def execVredmaxn (k : Bool) (d : RegNo) (s : RegNo) (t : RegNo) (a : Bool) (b : Bool) (mask : Option (BitVec 2)) (u0 : State) : Out :=
  redInt (packV 0x2a#6 (BitVec.ofBool k) d s t (BitVec.ofBool a) (BitVec.ofBool b) (maskMe mask) (maskMk mask) 3#5) fnMaxn u0

/-- `vredminn` (R157). -/
def execVredminn (k : Bool) (d : RegNo) (s : RegNo) (t : RegNo) (a : Bool) (b : Bool) (mask : Option (BitVec 2)) (u0 : State) : Out :=
  redInt (packV 0x2a#6 (BitVec.ofBool k) d s t (BitVec.ofBool a) (BitVec.ofBool b) (maskMe mask) (maskMk mask) 4#5) fnMinn u0

/-- `vredand` (R157). -/
def execVredand (k : Bool) (d : RegNo) (s : RegNo) (t : RegNo) (a : Bool) (b : Bool) (mask : Option (BitVec 2)) (u0 : State) : Out :=
  redInt (packV 0x2a#6 (BitVec.ofBool k) d s t (BitVec.ofBool a) (BitVec.ofBool b) (maskMe mask) (maskMk mask) 5#5) fnAnd u0

/-- `vredor` (R157). -/
def execVredor (k : Bool) (d : RegNo) (s : RegNo) (t : RegNo) (a : Bool) (b : Bool) (mask : Option (BitVec 2)) (u0 : State) : Out :=
  redInt (packV 0x2a#6 (BitVec.ofBool k) d s t (BitVec.ofBool a) (BitVec.ofBool b) (maskMe mask) (maskMk mask) 6#5) fnOr u0

/-- `vfredsum` (R82). -/
def execVfredsum (k : Bool) (d : RegNo) (s : RegNo) (t : RegNo) (a : Bool) (b : Bool) (mask : Option (BitVec 2)) (u0 : State) : Out :=
  redTree (packV 0x2a#6 (BitVec.ofBool k) d s t (BitVec.ofBool a) (BitVec.ofBool b) (maskMe mask) (maskMk mask) 7#5) false u0

/-- `vfredosum` (R81). -/
def execVfredosum (k : Bool) (d : RegNo) (s : RegNo) (t : RegNo) (a : Bool) (b : Bool) (mask : Option (BitVec 2)) (u0 : State) : Out :=
  redOrdered (packV 0x2a#6 (BitVec.ofBool k) d s t (BitVec.ofBool a) (BitVec.ofBool b) (maskMe mask) (maskMk mask) 8#5) false u0

/-- `vfredmax` (R157). -/
def execVfredmax (k : Bool) (d : RegNo) (s : RegNo) (t : RegNo) (a : Bool) (b : Bool) (mask : Option (BitVec 2)) (u0 : State) : Out :=
  redPick (packV 0x2a#6 (BitVec.ofBool k) d s t (BitVec.ofBool a) (BitVec.ofBool b) (maskMe mask) (maskMk mask) 9#5) true u0

/-- `vfredmin` (R157). -/
def execVfredmin (k : Bool) (d : RegNo) (s : RegNo) (t : RegNo) (a : Bool) (b : Bool) (mask : Option (BitVec 2)) (u0 : State) : Out :=
  redPick (packV 0x2a#6 (BitVec.ofBool k) d s t (BitVec.ofBool a) (BitVec.ofBool b) (maskMe mask) (maskMk mask) 10#5) false u0

/-- `vfwredsum` (R82). -/
def execVfwredsum (k : Bool) (d : RegNo) (s : RegNo) (t : RegNo) (a : Bool) (b : Bool) (mask : Option (BitVec 2)) (u0 : State) : Out :=
  redTree (packV 0x2a#6 (BitVec.ofBool k) d s t (BitVec.ofBool a) (BitVec.ofBool b) (maskMe mask) (maskMk mask) 11#5) true u0

/-- `vfwredosum` (R81). -/
def execVfwredosum (k : Bool) (d : RegNo) (s : RegNo) (t : RegNo) (a : Bool) (b : Bool) (mask : Option (BitVec 2)) (u0 : State) : Out :=
  redOrdered (packV 0x2a#6 (BitVec.ofBool k) d s t (BitVec.ofBool a) (BitVec.ofBool b) (maskMe mask) (maskMk mask) 12#5) true u0

end Sys2Proof.Machine
end

