-- ==== Sys2Proof/Machine/VPerm.lean ====
section
/-!
DEFINITION. Permutation (R158, R159), appending to work queues (R160-R162), masks (R163), comparisons (R164) and moves
(R165-R167).
-/

namespace Sys2Proof.Machine

/-! ## Shared plans -/

/-- The destination group of a word of one width. -/
def oneDst (wd : IWord) (c : Convoy) : Dst := loadDst c (wVd wd).toNat 0

/-- A word whose elements write one value each, or nothing, in the group vd: `f` answers the value, if any, and what it
read. -/
def movePlan (wd : IWord) (c : Convoy) (m : Option Nat) (whole : Bool)
    (f : VecUnit → Nat → Option Nat × List (Nat × Nat)) : Plan :=
  { w := c.w, mask := m, dsts := [oneDst wd c], mdst := none, whole := whole, gran := granOf c.w,
    body := fun u _ i =>
      let r := f u i
      let dp := u.pos (wVd wd).toNat c.w i
      match r.1 with
      | some v => ElRes.val dp c.w v r.2
      | none => { ElRes.val dp c.w 0 ((dp, c.w) :: r.2) with writes := [] } }

/-- A permuting word. -/
def moveOp (wd : IWord) (xs : List RegNo) (s : State)
    (f : Convoy → Word → VecUnit → Nat → Option Nat × List (Nat × Nat)) : Out :=
  planOp wd xs s fun _ c x => movePlan wd c (wMask wd) false (f c x)

/-- Element `j` of the vs2 group, with its read. -/
def Convoy.src2 (c : Convoy) (wd : IWord) (u : VecUnit) (j : Nat) : Option Nat × List (Nat × Nat) :=
  (some (u.elem (wV2 wd).toNat c.w j), [(u.pos (wV2 wd).toNat c.w j, c.w)])

/-- VLMAX of the captured type. -/
def Convoy.vlmax (c : Convoy) (u : VecUnit) : Nat := Sys2Proof.Machine.vlmax u.vcfg c.w c.g

/-! ## Slides, pull, push and compress (R158, R159) -/

def slideUp (wd : IWord) (c : Convoy) (x : Word) (u : VecUnit) (i : Nat) : Option Nat × List (Nat × Nat) :=
  if x.toNat ≤ i then c.src2 wd u (i - x.toNat) else (none, [])

def slideDown (wd : IWord) (c : Convoy) (x : Word) (u : VecUnit) (i : Nat) : Option Nat × List (Nat × Nat) :=
  if i + x.toNat < c.vlmax u then c.src2 wd u (i + x.toNat) else (some 0, [])

def slide1Up (wd : IWord) (c : Convoy) (x : Word) (u : VecUnit) (i : Nat) : Option Nat × List (Nat × Nat) :=
  if i = 0 then (some x.toNat, []) else c.src2 wd u (i - 1)

def slide1Down (wd : IWord) (c : Convoy) (x : Word) (u : VecUnit) (i : Nat) : Option Nat × List (Nat × Nat) :=
  if i + 1 < c.vl then c.src2 wd u (i + 1) else (some x.toNat, [])

def pull (wd : IWord) (c : Convoy) (_ : Word) (u : VecUnit) (i : Nat) : Option Nat × List (Nat × Nat) :=
  let j := u.elem (wV1 wd).toNat c.w i
  let at1 := (u.pos (wV1 wd).toNat c.w i, c.w)
  if j < c.vlmax u then ((c.src2 wd u j).1, at1 :: (c.src2 wd u j).2) else (some 0, [at1])

/-- A word that runs to retirement and packs values into vd: `f` answers the elements it writes, in the order it writes
them, with what it read; elements from `top` on are tail (R158, R159). -/
def packOp (wd : IWord) (s : State) (f : Convoy → VecUnit → List Nat → List (Nat × Nat) × List (Nat × Nat))
    (top : Convoy → List (Nat × Nat) → Nat) : Out :=
  vecOp wd [] none s fun s1 c _ _ =>
    let m := wMask wd
    let h := s1.ran c m
    if c.vl ≤ c.vstart then .done (s1.vretire wd c h)
    else
      let u := s1.vu
      let d := oneDst wd c
      let r := f c u (u.active c m)
      let e := top c r.1
      let u1 := r.1.foldl (fun v x => v.put (v.pos d.reg c.w x.1) c.w x.2) u
      let u2 := if c.tfill then d.fill (span e (d.count u.vcfg)) u1 else u1
      let kept (k : Nat) : Bool :=
        let b := regBits u.vcfg
        let lo := k * b / c.w
        let hi := (k + 1) * b / c.w
        (!c.tfill && decide (e < hi)) || (span lo (Nat.min hi e)).any (fun i => !r.1.any (fun x => x.1 == i))
      let marked := r.2.any (fun x => u.marked x.1 x.2) ||
        (List.range d.n).any (fun k => u.marks.getLsbD (d.reg + k) && kept k)
      .done ((({ s1 with vu := u2 }).raise 0 marked).vretire wd c h)

/-- `vpush`: later elements win. -/
def pushed (wd : IWord) (c : Convoy) (u : VecUnit) (is : List Nat) : List (Nat × Nat) × List (Nat × Nat) :=
  ((is.map (fun i => (u.elem (wV1 wd).toNat c.w i, u.elem (wV2 wd).toNat c.w i))).filter (fun x => decide (x.1 < c.vl)),
   is.flatMap (fun i => [(u.pos (wV1 wd).toNat c.w i, c.w), (u.pos (wV2 wd).toNat c.w i, c.w)]))

/-- `vcomp`: the active elements, from element 0 of vd on. -/
def compressed (wd : IWord) (c : Convoy) (u : VecUnit) (is : List Nat) : List (Nat × Nat) × List (Nat × Nat) :=
  ((is.map (u.elem (wV2 wd).toNat c.w)).zipIdx.map (fun x => (x.2, x.1)), is.map (fun i => (u.pos (wV2 wd).toNat c.w i, c.w)))

/-- `vmerge` of element `i` under a mask. -/
def merged (wd : IWord) (c : Convoy) (m : Nat) (u : VecUnit) (i : Nat) : Option Nat × List (Nat × Nat) :=
  let r := if u.mbit m i then (wV1 wd).toNat else (wV2 wd).toNat
  (some (u.elem r c.w i), [(u.pos r c.w i, c.w)])

/-- `vrank` of element `i`: the active elements below it whose bit of ms2 is set. -/
def rankOf (wd : IWord) (c : Convoy) (u : VecUnit) (i : Nat) : Option Nat × List (Nat × Nat) :=
  (some (((u.active { c with vl := Nat.min i c.vl } (wMask wd)).filter (u.mbit (wV2 wd).toNat)).length), [])

/-! ## Work queues (R160-R162) -/

/-- A work-queue header (R160). -/
structure WorkQueue where
  base : Word
  cap : Nat
  esize : Nat
  watcher : Nat
  resv : Nat
  head : Nat
  commit : Nat
  wlen : Nat
  zero : Nat
deriving DecidableEq, Repr

def WorkQueue.of (r : Nat) : WorkQueue :=
  { base := BitVec.ofNat 64 (field r 0 8), cap := field r 8 4, esize := field r 12 1, watcher := field r 14 2,
    resv := field r 16 8, head := field r 24 8, commit := field r 32 8, wlen := field r 40 4,
    zero := field r 13 1 + field r 44 20 + bits (field r 14 2) 14 8 }

/-- The values of a header are allowed for elements of `w` bits (R161). -/
def WorkQueue.ok (q : WorkQueue) (w : Nat) : Bool :=
  q.base.toNat % 64 == 0 && decide (1 ≤ q.cap) && decide (q.cap ≤ 2 ^ 24) && q.cap == 2 ^ Nat.log2 q.cap && q.zero == 0 &&
  q.esize == w / 8 && decide (1 ≤ q.wlen) && decide (q.wlen ≤ q.cap)

/-- Every page of a ring permits a store: the first that does not is answered. -/
def State.ringPages (s : State) : List Word → Chk State
  | [] => .ok s
  | a :: l =>
    if inWindow a then .trap 0x06 0 a
    else
      ((s.memPlace a .vstore s.cur.priv).at' a).bind fun (_, s1) => s1.ringPages l

/-- The first address of each page of a byte range. -/
def pageStarts (va : Word) (n : Nat) : List Word := (pagePieces va n).map (fun p => va + BitVec.ofNat 64 p.1)

/-- The header at an address: its translation as for a read-modify-write, its poison, its values (R161). -/
def State.workQueue (s : State) (wd : IWord) (xh : Word) (w : Nat) : Chk (WorkQueue × Place × State) :=
  let six : Chk (WorkQueue × Place × State) := .trap 0x01 6 (wd.zeroExtend 64)
  if xh.toNat % 64 ≠ 0 then six
  else if inWindow xh then .trap 0x06 0 xh
  else
    match s.memPlace xh .vamo s.cur.priv with
    | .trap c sub t => .trap c sub t
    | .stall k => .stall k
    | .ok (p, s1) =>
      if s1.poisonedAt p.loc 64 then .trap 0x09 0 xh
      else
        let q := WorkQueue.of (s1.readHome p.loc 64)
        if q.ok w then .ok (q, p, s1) else six

/-- `vappend` from its header (R161): A1, the entry writes and the commit that follows them; `h` is its history. -/
def State.append (s : State) (q : WorkQueue) (p : Place) (xh : Word) (k : Nat) (slots : List (Access × VPlace))
    (data : Access → Nat) (h : Hist) : State :=
  let head : Access × VPlace := (kvAccess xh 64, (p, none))
  let s1 := ((s.countPages (head :: slots)).scatter true (head :: slots)).performWrite (p.loc.plus 16) none 8 (q.resv + k)
  let s2 := { s1 with me := { s1.me with
    append := some { pc := s1.insPc, count := k, first := h.first, last := h.last, done := decide (k = 0) } } }
  if k = 0 then s2
  else
    let s3 := s2.enterV (fun a => .store a.w (data a)) false slots
    let c : VOp :=
      { id := s3.me.vnext, ins := s2.insNo, pc := s2.insPc, va := xh, far := none,
        place := { loc := p.loc.plus 16, twin := none, pte := p.pte, alt := none, pages := p.pages }, elem := 0,
        kind := .commit q.resv k q.wlen q.watcher (slots.map (fun e => (e.2.1.loc, q.esize))), bit := 0, ordered := false,
        hold := s3.me.vhold, fence := s3.me.vfence }
    { s3 with me := { s3.me with vops := s3.me.vops ++ [c], vnext := s3.me.vnext + 1 } }

/-- The last part of a `vappend` (R161): xd takes the count, and the word retires. -/
def State.appended (s : State) (wd : IWord) (d : RegNo) (c : Convoy) (a : Append) : State :=
  let s1 := (s.inConvoy c).put d (BitVec.ofNat 64 a.count)
  { s1 with me := { s1.me with append := none } }.vretire wd c { s.ran c (wMask wd) with first := a.first, last := a.last }

/-- The first part of a `vappend`: it waits for the V operations before it, since A1 has order release, checks, performs A1 and
lets its entry writes and A2 follow; what it does not keep waiting at once is its retirement. -/
def appendIssue (wd : IWord) (d h : RegNo) (s : State) : Out :=
  vecOp wd [h] (some d) s fun s1 c xh _ =>
    if !s1.vQuiet then .stall .operand s
    else
      match s1.workQueue wd xh c.w with
      | .trap cause sub t => s.vtrap wd c cause sub t
      | .stall k => .stall k s
      | .ok (q, p, s2) =>
        match s2.ringPages (pageStarts q.base (q.cap * q.esize)) with
        | .trap cause sub t => s.vtrap wd c cause sub t
        | .stall k => .stall k s
        | .ok s3 =>
          let is := s3.vu.active c (wMask wd)
          let k := Nat.min is.length (q.cap - (q.resv + 2 ^ 64 - q.head) % 2 ^ 64)
          let accs := (is.take k).zipIdx.map (fun e =>
            wholeAt e.2 (q.base + BitVec.ofNat 64 ((q.resv + e.2) % q.cap * q.esize)) c.w (s3.vu.pos (wV2 wd).toNat c.w e.1))
          let r := scanAll q.esize true accs { s := s3, good := [], bad := [], wait := none }
          match r.wait, r.bad with
          | some k, _ => .stall k s
          | none, (b, cause, _) :: _ => s.vtrap wd c cause 0 b.va
          | none, [] =>
            let hist := histOf (s1.ran c (wMask wd)) 0 ((kvAccess xh 64, (p, none)) :: r.good)
            let s4 := r.s.append q p xh k r.good (fun a => r.s.vu.get a.pos a.w) hist
            let s5 := s4.raise 0 (is.any (fun i => s3.vu.marked (s3.vu.pos (wV2 wd).toNat c.w i) c.w))
            match s5.me.append with
            | some a =>
              if a.done then .done (s5.appended wd d c a) else .stall .operand { s5 with me := { s5.me with conv := s.me.conv } }
            | none => .stall .operand s5

/-- A `vappend` word: its first part, and, once A2 is performed, its last (R161). -/
def appendOp (wd : IWord) (d h : RegNo) (s : State) : Out :=
  match s.me.append with
  | some a =>
    if a.pc == s.insPc then
      vperform wd s fun s0 => if a.done then .done (s0.appended wd d (s0.cap wd) a) else .stall .operand s0
    else appendIssue wd d h s
  | none => appendIssue wd d h s

/-- The commit of a `vappend` may be performed: as a release after every V operation before it, once every earlier
reservation is committed (R161, R162). -/
def State.commitReady (s : State) (o : VOp) (r : Nat) : Bool :=
  s.vReady o && s.mayReach o.place.loc s.me.source && s.me.vops.all (fun e => !decide (e.id < o.id)) && s.readHome (o.place.loc.plus 16) 8 == r

/-- A2 of R161: the commit count, and the event to the watcher when the fill level crosses the watermark. -/
def State.commitQueue (s : State) (o : VOp) (r k wlen watcher : Nat) : State :=
  let c := (r + k) % 2 ^ 64
  let head := s.readHome (o.place.loc.plus 8) 8
  let fill (x : Nat) : Nat := (x + 2 ^ 64 - head) % 2 ^ 64
  let s0 := (s.storeTo (o.place.loc.plus 16) none 8 c).dropV o
  let s1 := { s0 with me := { s0.me with append := s0.me.append.map (fun a => { a with done := true }) } }
  if bits watcher 15 15 = 1 && decide (fill r < wlen) && decide (wlen ≤ fill c) then
    s1.deliver s1.me.ctx (BitVec.ofNat 64 (watcher % 256))
  else s1

/-- VAPPEND_COMMIT (R161): the oldest waiting commit of the strand at hand. -/
def execVappendCommit (s : State) : Out :=
  match s.me.vops.find? (fun o => match o.kind with | .commit _ _ _ _ _ => true | _ => false) with
  | none => .next s
  | some o =>
    match o.kind with
    | .commit r k wlen watcher _ => .next (if s.commitReady o r then s.commitQueue o r k wlen watcher else s)
    | _ => .next s

/-! ## Masks and comparisons (R163, R164) -/

/-- A mask word: bit `i` for `vstart ≤ i < vl`; the function is that of the `vstart` at which the word first issued. -/
def maskOp (wd : IWord) (s : State) (f : Convoy → VecUnit → Nat → Bool) : Out :=
  planOp wd [] s fun s1 c _ =>
    let c0 : Convoy := { c with vstart := (s1.note.map (·.start)).getD c.vstart }
    { w := c.w, mask := none, dsts := [], mdst := some (wVd wd).toNat, whole := false, gran := granOf c.w,
      body := fun u _ i => { ElRes.val 0 0 0 [] with writes := [], bit := some (f c0 u i) } }

/-- The two source masks of a word. -/
def m1Of (wd : IWord) (u : VecUnit) (i : Nat) : Bool := u.mbit (wV1 wd).toNat i
def m2Of (wd : IWord) (u : VecUnit) (i : Nat) : Bool := u.mbit (wV2 wd).toNat i

/-- A word whose result is not there before its last element: a pre-emption stops it where it began, with nothing done (R168). -/
def State.orStop (s : State) (wd : IWord) (c : Convoy) (h : Hist) (run : Res) : Res :=
  match s.limits wd c c.w with
  | some _ => .done (s.partWay s wd c 0 0 (Vector.replicate 4 c.vstart) h)
  | none => run

/-- A word that answers a number about the active elements whose bit of ms2 is set. -/
def maskCount (wd : IWord) (d : RegNo) (s : State) (f : List Nat → Word) : Out :=
  vecOp wd [] (some d) s fun s1 c _ _ =>
    let hits := (s1.vu.active c (wMask wd)).filter (m2Of wd s1.vu)
    s1.orStop wd c (s1.ran c (wMask wd)) (.done ((s1.put d (f hits)).vretire wd c (s1.ran c (wMask wd))))

/-- A comparison word: bit `i` of the mask vd; its assists mark the granule of the source element (R77). -/
def cmpOp (wd : IWord) (k : VSrc) (s : State) (f : Convoy → Nat → Nat → Bool × FF) (float : Bool) : Out :=
  planOp wd (k.regs wd) s fun _ c x =>
    { w := c.w, mask := wMask wd, dsts := [], mdst := some (wVd wd).toNat, whole := false, gran := granOf c.w,
      body := fun u _ i =>
        let a := u.elem (wV2 wd).toNat c.w i
        let v := k.value wd u x c.w i
        let r := f c a v.1
        { ElRes.val 0 0 0 ((u.pos (wV2 wd).toNat c.w i, c.w) :: v.2) with
          writes := []
          bit := some r.1
          ff := r.2
          sub := float && (c.assisted c.et a || c.assisted c.et v.1) } }

/-- An integer comparison: signed, or unsigned for an `n` suffix. -/
def cmpInt (wd : IWord) (k : VSrc) (sg : Bool) (p : Int → Int → Bool) (s : State) : Out :=
  cmpOp wd k s (fun c a b => (p (intValue sg c.w a) (intValue sg c.w b), 0)) false

/-- A floating-point comparison. -/
def cmpFp (wd : IWord) (k : VSrc) (p : Fmt → Bool → Nat → Nat → Bool × FF) (s : State) : Out :=
  cmpOp wd k s (fun c a b => p c.fmt c.fz a b) true

def fpEq (f : Fmt) (fz : Bool) (a b : Nat) : Bool × FF := f.eqQuiet fz a b
def fpNe (f : Fmt) (fz : Bool) (a b : Nat) : Bool × FF := (!(f.eqQuiet fz a b).1, (f.eqQuiet fz a b).2)
def fpLt (f : Fmt) (fz : Bool) (a b : Nat) : Bool × FF := f.less fz false a b
def fpLe (f : Fmt) (fz : Bool) (a b : Nat) : Bool × FF := f.less fz true a b
def fpGt (f : Fmt) (fz : Bool) (a b : Nat) : Bool × FF := f.less fz false b a

/-! ## Queues and residues (R166, R167) -/

/-- The granules that a queue word has still to move. -/
def Convoy.granules (c : Convoy) : List Nat := span (c.vstart * c.w / 128) ((c.vl * c.w + 127) / 128)

/-- Records how far a queue word has come: in its flight-table entry when it runs again from one, else in `vstart`. -/
def State.progress (s : State) (k : Nat) : State :=
  match s.held, s.vu.flight with
  | some _, f :: l => { s with vu := { s.vu with flight := { f with progress := k, lgp := Vector.replicate 4 k } :: l } }
  | _, _ => { s with vu := s.vu.setStart k (Vector.replicate 4 k) }

/-- How the movement of granules ended: all of them, or at a granule where the word must wait or trap. -/
inductive Moved where
  | all (s : State)
  | wait (s : State) (g : Nat)
  | trap (s : State) (g cause sub : Nat)

/-- Moves granules in order until one cannot be moved: `f` answers the state after granule `g`, or what stands in its way. -/
def moveGranules (f : State → Nat → Chk State) : List Nat → State → Moved
  | [], s => .all s
  | g :: l, s =>
    match f s g with
    | .ok s1 => moveGranules f l s1
    | .trap cause sub _ => .trap s g cause sub
    | .stall _ => .wait s g

/-- A queue word (R166): each granule's pop or push is one of R92; what is moved stays moved when the word waits or traps, and a
marked register that keeps an element is read when its first granule is written (R51). -/
def queueOp (wd : IWord) (q : Nat) (s : State) (fills : Bool) (f : Convoy → State → Nat → Chk State) : Out :=
  vecOp wd [] none s fun s1 c x y =>
    let h := s1.ran c none
    let back (t : State) : State := { t with me := { t.me with conv := s.me.conv } }
    if c.vl ≤ c.vstart then .done (s1.vretire wd c h)
    else if c.vstart * c.w % 128 ≠ 0 then s.vsix wd c
    else
      let part := s1.limits wd c c.w
      let low := match part with | some l => l.toList.foldl Nat.min c.vl | none => c.vl
      let gs := c.granules.filter (fun g => part.isNone || decide (g < low * c.w / 128))
      let d := oneDst wd c
      let top := (c.vl * c.w + 127) / 128 * 128 / c.w
      let seen (g : Nat) (t : State) : State := t.raise 0 (fills && (List.range d.n).any (fun k =>
        s1.vu.marks.getLsbD (d.reg + k) && d.keeps s1.vu { c with vl := top } none k &&
        gs.any (fun j => decide (j < g) && 128 * j / regBits s1.vu.vcfg == k)))
      match moveGranules (f c) gs s1 with
      | .wait t g => .stall .queue (back ((seen g t).progress (g * 128 / c.w)))
      | .trap t g cause sub =>
        let k := g * 128 / c.w
        let t1 := (back (seen g t)).history wd c { h with event := 1 }
        .trap (s.trapAt cause sub (BitVec.ofNat 64 q)) { t1 with vu := t1.vu.setStart k (Vector.replicate 4 k) }
      | .all t =>
        match part with
        | some _ =>
          .done ((seen (low * c.w / 128) t).partWay s1 wd c x y (Vector.replicate 4 (Nat.max c.vstart (low * c.w / 128 * 128 / c.w))) h)
        | none =>
          let t1 := if fills && c.tfill then { t with vu := d.fill (span top (d.count t.vu.vcfg)) t.vu } else t
          .done ((t1.raise 0 (fills && d.readsMarked s1.vu { c with vl := top } none)).vretire wd c h)

/-- Pops one granule into the group vd. -/
def popGranule (r q : Nat) (s : State) (g : Nat) : Chk State :=
  (s.popReady q 1).bind fun _ =>
    if s.poisonHead q 1 then .trap 0x09 1 (BitVec.ofNat 64 q)
    else
      let p := s.pop q
      .ok { p.2 with vu := p.2.vu.put (p.2.vu.pos r 128 g) 128 p.1.toNat }

/-- Pushes one granule of the group vs2. -/
def pushGranule (r q : Nat) (s : State) (g : Nat) : Chk State :=
  (s.pushReady q).bind fun _ =>
    let pos := s.vu.pos r 128 g
    .ok ((s.push q (BitVec.ofNat 128 (s.vu.get pos 128)) false).raise 0 (s.vu.marked pos 128))

/-- A residue word (R167): lanes from `vstart` to 15. -/
def residueOp (wd : IWord) (s : State) (f : VecUnit → Nat → VecUnit) (r : Nat) : Out :=
  vecOp wd [] none s fun s1 c _ _ =>
    let ls := span c.vstart 16
    let u := ls.foldl f s1.vu
    s1.orStop wd c (s1.ran c none)
      (.done ((({ s1 with vu := u }).raise 0 (!ls.isEmpty && s1.vu.marks.getLsbD r)).vretire wd c (s1.ran c none)))

/-! ## VPERM (0x2B) -/

/-- `vslup` (R158). -/
def execVslup (k : Bool) (d : RegNo) (x : RegNo) (t : RegNo) (b : Bool) (mask : Option (BitVec 2)) (u0 : State) : Out :=
  moveOp (packV 0x2b#6 (BitVec.ofBool k) d x t 0#1 (BitVec.ofBool b) (maskMe mask) (maskMk mask) 0#5) [x] u0 (slideUp (packV 0x2b#6 (BitVec.ofBool k) d x t 0#1 (BitVec.ofBool b) (maskMe mask) (maskMk mask) 0#5))

/-- `vsldn` (R158). -/
def execVsldn (k : Bool) (d : RegNo) (x : RegNo) (t : RegNo) (b : Bool) (mask : Option (BitVec 2)) (u0 : State) : Out :=
  moveOp (packV 0x2b#6 (BitVec.ofBool k) d x t 0#1 (BitVec.ofBool b) (maskMe mask) (maskMk mask) 1#5) [x] u0 (slideDown (packV 0x2b#6 (BitVec.ofBool k) d x t 0#1 (BitVec.ofBool b) (maskMe mask) (maskMk mask) 1#5))

/-- `vsl1up` (R158). -/
def execVsl1up (k : Bool) (d : RegNo) (x : RegNo) (t : RegNo) (b : Bool) (mask : Option (BitVec 2)) (u0 : State) : Out :=
  moveOp (packV 0x2b#6 (BitVec.ofBool k) d x t 0#1 (BitVec.ofBool b) (maskMe mask) (maskMk mask) 2#5) [x] u0 (slide1Up (packV 0x2b#6 (BitVec.ofBool k) d x t 0#1 (BitVec.ofBool b) (maskMe mask) (maskMk mask) 2#5))

/-- `vsl1dn` (R158). -/
def execVsl1dn (k : Bool) (d : RegNo) (x : RegNo) (t : RegNo) (b : Bool) (mask : Option (BitVec 2)) (u0 : State) : Out :=
  moveOp (packV 0x2b#6 (BitVec.ofBool k) d x t 0#1 (BitVec.ofBool b) (maskMe mask) (maskMk mask) 3#5) [x] u0 (slide1Down (packV 0x2b#6 (BitVec.ofBool k) d x t 0#1 (BitVec.ofBool b) (maskMe mask) (maskMk mask) 3#5))

/-- `vpull` (R158). -/
def execVpull (k : Bool) (d : RegNo) (s : RegNo) (t : RegNo) (a : Bool) (b : Bool) (mask : Option (BitVec 2)) (u0 : State) : Out :=
  moveOp (packV 0x2b#6 (BitVec.ofBool k) d s t (BitVec.ofBool a) (BitVec.ofBool b) (maskMe mask) (maskMk mask) 4#5) [] u0 (pull (packV 0x2b#6 (BitVec.ofBool k) d s t (BitVec.ofBool a) (BitVec.ofBool b) (maskMe mask) (maskMk mask) 4#5))

/-- `vpush` (R158). -/
def execVpush (k : Bool) (d : RegNo) (s : RegNo) (t : RegNo) (a : Bool) (b : Bool) (mask : Option (BitVec 2)) (u0 : State) : Out :=
  packOp (packV 0x2b#6 (BitVec.ofBool k) d s t (BitVec.ofBool a) (BitVec.ofBool b) (maskMe mask) (maskMk mask) 5#5) u0 (pushed (packV 0x2b#6 (BitVec.ofBool k) d s t (BitVec.ofBool a) (BitVec.ofBool b) (maskMe mask) (maskMk mask) 5#5)) (fun c _ => c.vl)

/-- `vcomp` (R159). -/
def execVcomp (k : Bool) (d : RegNo) (t : RegNo) (b : Bool) (mask : Option (BitVec 2)) (u0 : State) : Out :=
  packOp (packV 0x2b#6 (BitVec.ofBool k) d 0#5 t 0#1 (BitVec.ofBool b) (maskMe mask) (maskMk mask) 6#5) u0 (compressed (packV 0x2b#6 (BitVec.ofBool k) d 0#5 t 0#1 (BitVec.ofBool b) (maskMe mask) (maskMk mask) 6#5)) (fun _ l => l.length)

/-- `vappend` (R161). -/
def execVappend (k : Bool) (d : RegNo) (h : RegNo) (t : RegNo) (b : Bool) (mask : Option (BitVec 2)) (u0 : State) : Out :=
  appendOp (packV 0x2b#6 (BitVec.ofBool k) d h t 0#1 (BitVec.ofBool b) (maskMe mask) (maskMk mask) 7#5) d h u0

/-- `vmerge` (R158). -/
def execVmerge (k : Bool) (d : RegNo) (s : RegNo) (t : RegNo) (a : Bool) (b : Bool) (m : BitVec 2) (u0 : State) : Out :=
  planOp (packV 0x2b#6 (BitVec.ofBool k) d s t (BitVec.ofBool a) (BitVec.ofBool b) 1#1 m 8#5) [] u0 fun _ c _ => movePlan (packV 0x2b#6 (BitVec.ofBool k) d s t (BitVec.ofBool a) (BitVec.ofBool b) 1#1 m 8#5) c none false (merged (packV 0x2b#6 (BitVec.ofBool k) d s t (BitVec.ofBool a) (BitVec.ofBool b) 1#1 m 8#5) c m.toNat)

/-- `vrank` (R158). -/
def execVrank (k : Bool) (d : RegNo) (t : RegNo) (mask : Option (BitVec 2)) (u0 : State) : Out :=
  planOp (packV 0x2b#6 (BitVec.ofBool k) d 0#5 t 0#1 0#1 (maskMe mask) (maskMk mask) 9#5) [] u0 fun _ c _ => movePlan (packV 0x2b#6 (BitVec.ofBool k) d 0#5 t 0#1 0#1 (maskMe mask) (maskMk mask) 9#5) c (wMask (packV 0x2b#6 (BitVec.ofBool k) d 0#5 t 0#1 0#1 (maskMe mask) (maskMk mask) 9#5)) true (rankOf (packV 0x2b#6 (BitVec.ofBool k) d 0#5 t 0#1 0#1 (maskMe mask) (maskMk mask) 9#5) c)

/-- `vindex` (R158). -/
def execVindex (k : Bool) (d : RegNo) (mask : Option (BitVec 2)) (u0 : State) : Out :=
  moveOp (packV 0x2b#6 (BitVec.ofBool k) d 0#5 0#5 0#1 0#1 (maskMe mask) (maskMk mask) 10#5) [] u0 (fun _ _ _ i => (some i, []))

/-! ## VMASK (0x2C) -/

/-- `mand` (R163). -/
def execMand (k : Bool) (d : RegNo) (s : RegNo) (t : RegNo) (u0 : State) : Out :=
  maskOp (packV 0x2c#6 (BitVec.ofBool k) d s t 0#1 0#1 0#1 0#2 0#5) u0 (fun _ u i => m2Of (packV 0x2c#6 (BitVec.ofBool k) d s t 0#1 0#1 0#1 0#2 0#5) u i && m1Of (packV 0x2c#6 (BitVec.ofBool k) d s t 0#1 0#1 0#1 0#2 0#5) u i)

/-- `mor` (R163). -/
def execMor (k : Bool) (d : RegNo) (s : RegNo) (t : RegNo) (u0 : State) : Out :=
  maskOp (packV 0x2c#6 (BitVec.ofBool k) d s t 0#1 0#1 0#1 0#2 1#5) u0 (fun _ u i => m2Of (packV 0x2c#6 (BitVec.ofBool k) d s t 0#1 0#1 0#1 0#2 1#5) u i || m1Of (packV 0x2c#6 (BitVec.ofBool k) d s t 0#1 0#1 0#1 0#2 1#5) u i)

/-- `mxor` (R163). -/
def execMxor (k : Bool) (d : RegNo) (s : RegNo) (t : RegNo) (u0 : State) : Out :=
  maskOp (packV 0x2c#6 (BitVec.ofBool k) d s t 0#1 0#1 0#1 0#2 2#5) u0 (fun _ u i => m2Of (packV 0x2c#6 (BitVec.ofBool k) d s t 0#1 0#1 0#1 0#2 2#5) u i != m1Of (packV 0x2c#6 (BitVec.ofBool k) d s t 0#1 0#1 0#1 0#2 2#5) u i)

/-- `mnot` (R163). -/
def execMnot (k : Bool) (d : RegNo) (t : RegNo) (u0 : State) : Out :=
  maskOp (packV 0x2c#6 (BitVec.ofBool k) d 0#5 t 0#1 0#1 0#1 0#2 3#5) u0 (fun _ u i => !m2Of (packV 0x2c#6 (BitVec.ofBool k) d 0#5 t 0#1 0#1 0#1 0#2 3#5) u i)

/-- `mcount` (R163). -/
def execMcount (k : Bool) (d : RegNo) (t : RegNo) (mask : Option (BitVec 2)) (u0 : State) : Out :=
  maskCount (packV 0x2c#6 (BitVec.ofBool k) d 0#5 t 0#1 0#1 (maskMe mask) (maskMk mask) 4#5) d u0 (fun l => BitVec.ofNat 64 l.length)

/-- `mlow` (R163). -/
def execMlow (k : Bool) (d : RegNo) (t : RegNo) (mask : Option (BitVec 2)) (u0 : State) : Out :=
  maskCount (packV 0x2c#6 (BitVec.ofBool k) d 0#5 t 0#1 0#1 (maskMe mask) (maskMk mask) 5#5) d u0 (fun l => match l with | [] => BitVec.allOnes 64 | i :: _ => BitVec.ofNat 64 i)

/-- `mpre` (R163). -/
def execMpre (k : Bool) (d : RegNo) (t : RegNo) (u0 : State) : Out :=
  maskOp (packV 0x2c#6 (BitVec.ofBool k) d 0#5 t 0#1 0#1 0#1 0#2 6#5) u0 (fun c u i => !(span c.vstart (i + 1)).any (m2Of (packV 0x2c#6 (BitVec.ofBool k) d 0#5 t 0#1 0#1 0#1 0#2 6#5) u))

/-- `mmov` (R163). -/
def execMmov (k : Bool) (d : RegNo) (t : RegNo) (u0 : State) : Out :=
  maskOp (packV 0x2c#6 (BitVec.ofBool k) d 0#5 t 0#1 0#1 0#1 0#2 7#5) u0 (fun _ u i => m2Of (packV 0x2c#6 (BitVec.ofBool k) d 0#5 t 0#1 0#1 0#1 0#2 7#5) u i)

/-- `mset` (R163). -/
def execMset (k : Bool) (d : RegNo) (u0 : State) : Out :=
  maskOp (packV 0x2c#6 (BitVec.ofBool k) d 0#5 0#5 0#1 0#1 0#1 0#2 8#5) u0 (fun _ _ _ => true)

/-- `mclr` (R163). -/
def execMclr (k : Bool) (d : RegNo) (u0 : State) : Out :=
  maskOp (packV 0x2c#6 (BitVec.ofBool k) d 0#5 0#5 0#1 0#1 0#1 0#2 9#5) u0 (fun _ _ _ => false)

/-! ## VCMP (0x2D) -/

/-- `vmseq.vv` (R164). -/
def execVmseqVV (k : Bool) (d : RegNo) (s : RegNo) (t : RegNo) (a : Bool) (b : Bool) (mask : Option (BitVec 2)) (u0 : State) : Out :=
  cmpInt (packV 0x2d#6 (BitVec.ofBool k) d s t (BitVec.ofBool a) (BitVec.ofBool b) (maskMe mask) (maskMk mask) 0#5) .vec true (fun a b => a == b) u0

/-- `vmsne.vv` (R164). -/
def execVmsneVV (k : Bool) (d : RegNo) (s : RegNo) (t : RegNo) (a : Bool) (b : Bool) (mask : Option (BitVec 2)) (u0 : State) : Out :=
  cmpInt (packV 0x2d#6 (BitVec.ofBool k) d s t (BitVec.ofBool a) (BitVec.ofBool b) (maskMe mask) (maskMk mask) 1#5) .vec true (fun a b => a != b) u0

/-- `vmslt.vv` (R164). -/
def execVmsltVV (k : Bool) (d : RegNo) (s : RegNo) (t : RegNo) (a : Bool) (b : Bool) (mask : Option (BitVec 2)) (u0 : State) : Out :=
  cmpInt (packV 0x2d#6 (BitVec.ofBool k) d s t (BitVec.ofBool a) (BitVec.ofBool b) (maskMe mask) (maskMk mask) 2#5) .vec true (fun a b => decide (a < b)) u0

/-- `vmsle.vv` (R164). -/
def execVmsleVV (k : Bool) (d : RegNo) (s : RegNo) (t : RegNo) (a : Bool) (b : Bool) (mask : Option (BitVec 2)) (u0 : State) : Out :=
  cmpInt (packV 0x2d#6 (BitVec.ofBool k) d s t (BitVec.ofBool a) (BitVec.ofBool b) (maskMe mask) (maskMk mask) 3#5) .vec true (fun a b => decide (a ≤ b)) u0

/-- `vmsltn.vv` (R164). -/
def execVmsltnVV (k : Bool) (d : RegNo) (s : RegNo) (t : RegNo) (a : Bool) (b : Bool) (mask : Option (BitVec 2)) (u0 : State) : Out :=
  cmpInt (packV 0x2d#6 (BitVec.ofBool k) d s t (BitVec.ofBool a) (BitVec.ofBool b) (maskMe mask) (maskMk mask) 4#5) .vec false (fun a b => decide (a < b)) u0

/-- `vmfeq.vv` (R164). -/
def execVmfeqVV (k : Bool) (d : RegNo) (s : RegNo) (t : RegNo) (a : Bool) (b : Bool) (mask : Option (BitVec 2)) (u0 : State) : Out :=
  cmpFp (packV 0x2d#6 (BitVec.ofBool k) d s t (BitVec.ofBool a) (BitVec.ofBool b) (maskMe mask) (maskMk mask) 5#5) .vec fpEq u0

/-- `vmflt.vv` (R164). -/
def execVmfltVV (k : Bool) (d : RegNo) (s : RegNo) (t : RegNo) (a : Bool) (b : Bool) (mask : Option (BitVec 2)) (u0 : State) : Out :=
  cmpFp (packV 0x2d#6 (BitVec.ofBool k) d s t (BitVec.ofBool a) (BitVec.ofBool b) (maskMe mask) (maskMk mask) 6#5) .vec fpLt u0

/-- `vmfle` (R164). -/
def execVmfle (k : Bool) (d : RegNo) (s : RegNo) (t : RegNo) (a : Bool) (b : Bool) (mask : Option (BitVec 2)) (u0 : State) : Out :=
  cmpFp (packV 0x2d#6 (BitVec.ofBool k) d s t (BitVec.ofBool a) (BitVec.ofBool b) (maskMe mask) (maskMk mask) 7#5) .vec fpLe u0

/-- `vmfne` (R164). -/
def execVmfne (k : Bool) (d : RegNo) (s : RegNo) (t : RegNo) (a : Bool) (b : Bool) (mask : Option (BitVec 2)) (u0 : State) : Out :=
  cmpFp (packV 0x2d#6 (BitVec.ofBool k) d s t (BitVec.ofBool a) (BitVec.ofBool b) (maskMe mask) (maskMk mask) 8#5) .vec fpNe u0

/-! ## VCMPX (0x2E) -/

/-- `vmseq.vx` (R164). -/
def execVmseqVX (k : Bool) (d : RegNo) (x : RegNo) (t : RegNo) (b : Bool) (mask : Option (BitVec 2)) (u0 : State) : Out :=
  cmpInt (packV 0x2e#6 (BitVec.ofBool k) d x t 0#1 (BitVec.ofBool b) (maskMe mask) (maskMk mask) 0#5) .x true (fun a b => a == b) u0

/-- `vmsne.vx` (R164). -/
def execVmsneVX (k : Bool) (d : RegNo) (x : RegNo) (t : RegNo) (b : Bool) (mask : Option (BitVec 2)) (u0 : State) : Out :=
  cmpInt (packV 0x2e#6 (BitVec.ofBool k) d x t 0#1 (BitVec.ofBool b) (maskMe mask) (maskMk mask) 1#5) .x true (fun a b => a != b) u0

/-- `vmslt.vx` (R164). -/
def execVmsltVX (k : Bool) (d : RegNo) (x : RegNo) (t : RegNo) (b : Bool) (mask : Option (BitVec 2)) (u0 : State) : Out :=
  cmpInt (packV 0x2e#6 (BitVec.ofBool k) d x t 0#1 (BitVec.ofBool b) (maskMe mask) (maskMk mask) 2#5) .x true (fun a b => decide (a < b)) u0

/-- `vmsle.vx` (R164). -/
def execVmsleVX (k : Bool) (d : RegNo) (x : RegNo) (t : RegNo) (b : Bool) (mask : Option (BitVec 2)) (u0 : State) : Out :=
  cmpInt (packV 0x2e#6 (BitVec.ofBool k) d x t 0#1 (BitVec.ofBool b) (maskMe mask) (maskMk mask) 3#5) .x true (fun a b => decide (a ≤ b)) u0

/-- `vmsgt` (R164). -/
def execVmsgt (k : Bool) (d : RegNo) (x : RegNo) (t : RegNo) (b : Bool) (mask : Option (BitVec 2)) (u0 : State) : Out :=
  cmpInt (packV 0x2e#6 (BitVec.ofBool k) d x t 0#1 (BitVec.ofBool b) (maskMe mask) (maskMk mask) 4#5) .x true (fun a b => decide (b < a)) u0

/-- `vmsltn.vx` (R164). -/
def execVmsltnVX (k : Bool) (d : RegNo) (x : RegNo) (t : RegNo) (b : Bool) (mask : Option (BitVec 2)) (u0 : State) : Out :=
  cmpInt (packV 0x2e#6 (BitVec.ofBool k) d x t 0#1 (BitVec.ofBool b) (maskMe mask) (maskMk mask) 5#5) .x false (fun a b => decide (a < b)) u0

/-- `vmfeq.vx` (R164). -/
def execVmfeqVX (k : Bool) (d : RegNo) (x : RegNo) (t : RegNo) (b : Bool) (mask : Option (BitVec 2)) (u0 : State) : Out :=
  cmpFp (packV 0x2e#6 (BitVec.ofBool k) d x t 0#1 (BitVec.ofBool b) (maskMe mask) (maskMk mask) 6#5) .x fpEq u0

/-- `vmflt.vx` (R164). -/
def execVmfltVX (k : Bool) (d : RegNo) (x : RegNo) (t : RegNo) (b : Bool) (mask : Option (BitVec 2)) (u0 : State) : Out :=
  cmpFp (packV 0x2e#6 (BitVec.ofBool k) d x t 0#1 (BitVec.ofBool b) (maskMe mask) (maskMk mask) 7#5) .x fpLt u0

/-- `vmfgt` (R164). -/
def execVmfgt (k : Bool) (d : RegNo) (x : RegNo) (t : RegNo) (b : Bool) (mask : Option (BitVec 2)) (u0 : State) : Out :=
  cmpFp (packV 0x2e#6 (BitVec.ofBool k) d x t 0#1 (BitVec.ofBool b) (maskMe mask) (maskMk mask) 8#5) .x fpGt u0

/-! ## VMOV (0x2F) -/

/-- `vmv` (R165). -/
def execVmv (k : Bool) (d : RegNo) (t : RegNo) (b : Bool) (mask : Option (BitVec 2)) (u0 : State) : Out :=
  moveOp (packV 0x2f#6 (BitVec.ofBool k) d 0#5 t 0#1 (BitVec.ofBool b) (maskMe mask) (maskMk mask) 0#5) [] u0 (fun c _ u i => c.src2 (packV 0x2f#6 (BitVec.ofBool k) d 0#5 t 0#1 (BitVec.ofBool b) (maskMe mask) (maskMk mask) 0#5) u i)

/-- `vmvxs` (R165). -/
def execVmvxs (k : Bool) (d : RegNo) (t : RegNo) (b : Bool) (u0 : State) : Out :=
  vecOp (packV 0x2f#6 (BitVec.ofBool k) d 0#5 t 0#1 (BitVec.ofBool b) 0#1 0#2 1#5) [] (some d) u0 fun s1 c _ _ =>
    let v := s1.vu.elem t.toNat c.w 0
    let r := if intOf c.et = some true then sx c.w v else BitVec.ofNat 64 v
    .done (((s1.raise 0 (s1.vu.marked (s1.vu.pos t.toNat c.w 0) c.w)).put d r).vretire (packV 0x2f#6 (BitVec.ofBool k) d 0#5 t 0#1 (BitVec.ofBool b) 0#1 0#2 1#5) c (s1.ran c none))

/-- `vmvsx` (R165). -/
def execVmvsx (k : Bool) (d : RegNo) (x : RegNo) (u0 : State) : Out :=
  vecOp (packV 0x2f#6 (BitVec.ofBool k) d x 0#5 0#1 0#1 0#1 0#2 2#5) [x] none u0 fun s1 c v _ =>
    if c.vl ≤ c.vstart then .done (s1.vretire (packV 0x2f#6 (BitVec.ofBool k) d x 0#5 0#1 0#1 0#1 0#2 2#5) c (s1.ran c none))
    else
      let q : Dst := oneDst (packV 0x2f#6 (BitVec.ofBool k) d x 0#5 0#1 0#1 0#1 0#2 2#5) c
      let u1 := if c.vstart = 0 then s1.vu.put (s1.vu.pos d.toNat c.w 0) c.w v.toNat else s1.vu
      let u2 := if c.tfill then q.fill (span (Nat.max 1 c.vstart) (q.count u1.vcfg)) u1 else u1
      .done ((({ s1 with vu := u2 }).raise 0 (q.readsMarked s1.vu { c with vl := 1 } none)).vretire (packV 0x2f#6 (BitVec.ofBool k) d x 0#5 0#1 0#1 0#1 0#2 2#5) c (s1.ran c none))

/-- `vbcast` (R165). -/
def execVbcast (k : Bool) (d : RegNo) (x : RegNo) (mask : Option (BitVec 2)) (u0 : State) : Out :=
  moveOp (packV 0x2f#6 (BitVec.ofBool k) d x 0#5 0#1 0#1 (maskMe mask) (maskMk mask) 3#5) [x] u0 (fun _ v _ _ => (some v.toNat, []))

/-- `vqpop` (R166). -/
def execVqpop (k : Bool) (d : RegNo) (q : BitVec 3) (u0 : State) : Out :=
  queueOp (packV 0x2f#6 (BitVec.ofBool k) d (0#2 ++ q) 0#5 0#1 0#1 0#1 0#2 4#5) q.toNat u0 true (fun _ => popGranule d.toNat q.toNat)

/-- `vqpush` (R166). -/
def execVqpush (k : Bool) (q : BitVec 2) (t : RegNo) (b : Bool) (u0 : State) : Out :=
  queueOp (packV 0x2f#6 (BitVec.ofBool k) 0#5 (0#3 ++ q) t 0#1 (BitVec.ofBool b) 0#1 0#2 5#5) (q.toNat + 8) u0 false (fun _ => pushGranule t.toNat (q.toNat + 8))

/-- `vnsrd` (R167). -/
def execVnsrd (k : Bool) (d : RegNo) (u0 : State) : Out :=
  residueOp (packV 0x2f#6 (BitVec.ofBool k) d 0#5 0#5 0#1 0#1 0#1 0#2 6#5) u0 (fun u l => u.put (u.pos d.toNat 32 l) 32 (u.residue l)) d.toNat

/-- `vnswr` (R167). -/
def execVnswr (k : Bool) (t : RegNo) (b : Bool) (u0 : State) : Out :=
  residueOp (packV 0x2f#6 (BitVec.ofBool k) 0#5 0#5 t 0#1 (BitVec.ofBool b) 0#1 0#2 7#5) u0 (fun u l => { u with ns := u.ns.setIfInBounds l (BitVec.ofNat 32 (u.elem t.toNat 32 l)) }) t.toNat

end Sys2Proof.Machine
end

