-- ==== Sys2Proof/Machine/Preempt.lean ====
section
/-!
DEFINITION. What the hardware does with a strand as a whole: the progress of its pending operations, machine checks,
suspension with its images (R276-R278, R283, R336), and the merge on resume (R285, R308).
-/

namespace Sys2Proof.Machine

/-! ## Progress of pending operations (R90, R91) -/

/-- The operation is a `sprd` or a `spwr`. -/
def AOp.stream (o : AOp) : Bool :=
  match o.kind with
  | .sprd _ _ _ _ => true
  | .spwr _ _ _ _ => true
  | _ => false

/-- The operation is one of the A-thread's own: not a command or a `pub`, which the engines complete. -/
def AOp.own (o : AOp) : Bool :=
  match o.kind with
  | .cmd _ => false
  | .pub _ => false
  | _ => true

/-- Performs an A-thread operation, where it may be performed. -/
def State.performA (s : State) (o : AOp) : State :=
  match o.kind with
  | .load _ _ _ _ => s.performLoad o
  | .sprd _ _ _ _ => s.performLoad o
  | .store _ _ _ => s.drainOp o
  | .spwr _ _ _ _ => s.drainOp o
  | .amo _ _ _ _ _ _ _ => s.performAmo o
  | _ => s

/-- Performs a V operation, or the commit of a `vappend`, where it may be performed. -/
def State.performAnyV (s : State) (o : VOp) : State :=
  match o.kind with
  | .commit r k wlen watcher _ => if s.commitReady o r then s.commitQueue o r k wlen watcher else s
  | _ => s.performV o

/-- Some pending operation of the strand at hand is gone or has moved on. -/
def State.movedFrom (s : State) (t : State) : Bool := s.me.aops != t.me.aops || s.me.vops != t.me.vops

/-- The first of a list of changes that moves the strand at hand on. -/
def State.firstMove (s : State) : List (State → State) → Option State
  | [] => none
  | f :: l => if s.movedFrom (f s) then some (f s) else s.firstMove l

/-- Performs an A-thread operation as a suspension has it: a stream stands still, and the plain order of core scope does not count
it, so that the store buffer drains past it (R276); every other order stands (R98, R122; log entry 40). -/
def State.settleA (s : State) (o : AOp) : State :=
  let core (e : AOp) : Bool := s.inForce 0 && !e.stream
  match o.kind with
  | .load _ _ _ _ => s.performLoad o
  | .store _ _ _ => if s.drainsIn core o then s.drainNow o else s
  | .amo _ _ _ _ _ _ _ => if s.amoIn core o then s.amoNow o else s
  | _ => s

/-- The next step of a suspension's drain: an operation of the strand at hand that may be performed, or one of its commands whose source
reads may begin, which then counts as performed (R90, R276). -/
def State.settle1 (s : State) : Option State :=
  let starts := (s.cmds.filter (fun c => c.uid == s.me.uid && !c.started && c.open)).map (fun c (t : State) =>
    match execEngineStart c.token t with | .next u => u | _ => t)
  s.firstMove (s.me.aops.map (fun o t => t.settleA o) ++ s.me.vops.map (fun o t => t.performAnyV o) ++ starts)

/-- Performs operations until none may be performed. -/
def State.drainLoop (s : State) : Nat → State
  | 0 => s
  | n + 1 =>
    match s.settle1 with
    | none => s
    | some t => t.drainLoop n

/-- The pending operations of the strand at hand that may be performed are performed, assists included (R276, R77). Streams stand
still and the operations of engine commands go on; what must follow a command that may not start yet stays pending until the strand is
back, since a suspension waits for none and removes no order (R98; log entry 40). -/
def State.drainAll (s : State) : State :=
  let t := s.drainLoop (s.me.aops.length + s.me.vops.length + s.cmds.length)
  { t with me := { t.me with subn := t.me.subn + BitVec.ofNat 64 t.me.assists, assists := 0 } }

/-! ## Machine checks (R38, R162) -/

/-- The entries that a `vappend` has reserved are all ones when a machine check falls between A1 and A2, and A2 is still to
come (R162). -/
def State.onesAppends (s : State) : State :=
  s.me.vops.foldl (fun t o =>
    match o.kind with
    | .commit _ _ _ _ slots =>
      let t1 := slots.foldl (fun u e => u.performWrite e.1 o.place.pte e.2 (2 ^ (8 * e.2) - 1)) t
      { t1 with me := { t1.me with vops := t1.me.vops.filter (fun e => !(e.ins == o.ins && e.id != o.id)) } }
    | _ => t) s

/-- MACHINE_CHECK (R38): the strand at hand becomes faulted with cause 0x13 and the address of the error report. -/
def execMachineCheck (a : BitVec 64) (s : State) : Out := .next (s.onesAppends.makeFaulted s.me.uid 0x13 a)

/-! ## The images (R275, R278, R281, R283, R336) -/

/-- The own CSR copies of a thread in the scalar image (R336). -/
def Thread.image (t : Thread) : Nat :=
  packList 8 (((t.lc.toList ++ t.lt.toList) ++ [t.tcause, t.tval, t.tepc, t.trec]).map (·.toNat))

/-- The scalar registers in the image: words that hold no register of their own are zero. -/
def regImage (v : Vector Word 32) (n : Nat) : Nat :=
  packList 8 ((List.range 32).map (fun i => if i = 0 || n ≤ i then 0 else (v.toList.getD i 0).toNat))

/-- The frame registers in the order of the image (R336). -/
def cfOrder : List Nat := [1, 2, 3, 4, 7, 8, 9, 10, 11, 12, 13, 14, 0, 15]

/-- The scalar image of the strand at hand (R336), without its last word. -/
def State.scalarImage (s : State) : Nat :=
  let m := s.me
  let flags := (if m.a.priv = .s then 1 else 0) + (if m.x.priv = .s then 2 else 0) + (if m.event then 4 else 0)
  let csrs := [m.fcsr, (m.lscale.extractLsb' 0 8).signExtend 64, m.tcols, m.kvpos, m.subn, s.vu.dirty, s.tdirty, m.xstate,
    BitVec.ofNat 64 m.cfd] ++ cfOrder.map m.cfr
  regImage m.a.regs 32 + 2 ^ (8 * 0x100) * regImage m.x.regs 24 + 2 ^ (8 * 0x200) * m.a.pc.toNat
    + 2 ^ (8 * 0x208) * m.x.pc.toNat + 2 ^ (8 * 0x210) * flags + 2 ^ (8 * 0x300) * m.a.image + 2 ^ (8 * 0x400) * m.x.image
    + 2 ^ (8 * 0x500) * packList 8 (csrs.map (·.toNat))

/-- Reads a thread back from an image: its registers, its program counter, its privilege and its CSR copies. -/
def Thread.ofImage (t : Thread) (r : Nat) (regs pc csr n : Nat) (p : Priv) : Thread :=
  let w (o : Nat) : Word := BitVec.ofNat 64 (field r o 8)
  { t with
    regs := Vector.ofFn (fun i => if i.val = 0 || n ≤ i.val then t.regs[i] else w (regs + 8 * i.val)), pc := w pc, priv := p,
    lc := Vector.ofFn (fun i => w (csr + 8 * i.val)), lt := Vector.ofFn (fun i => w (csr + 0x30 + 8 * i.val)),
    tcause := w (csr + 0x60), tval := w (csr + 0x68), tepc := w (csr + 0x70), trec := w (csr + 0x78), wait := .none }

/-- Restores the strand at hand from its scalar image and its chain block (R285, R336, R242). -/
def State.readScalar (s : State) : State :=
  let ctx := s.me.ctx
  let a := s.saveArea s.me
  let r := s.readVa ctx a 4096
  let ch := s.readVa ctx (a + 0x1640) 16
  let w (o : Nat) : Word := BitVec.ofNat 64 (field r o 8)
  let pr (k : Nat) : Priv := if field r 0x210 8 / 2 ^ k % 2 = 1 then .s else .u
  let cf := ((cfOrder.zipIdx.map (fun (p : Nat × Nat) => (p.1, w (0x548 + 8 * p.2)))) ++
    [(5, BitVec.ofNat 64 (field ch 0 8) &&& actMask), (6, BitVec.ofNat 64 (field ch 8 8))]).foldl
      (fun v (p : Nat × Word) => v.setIfInBounds p.1 p.2) s.me.cf
  { s with me := { s.me with
      a := s.me.a.ofImage r 0 0x200 0x300 32 (pr 0), x := s.me.x.ofImage r 0x100 0x208 0x400 24 (pr 1),
      event := decide (field r 0x210 8 / 4 % 2 = 1), fcsr := fcsrWrite s.me.fcsr (w 0x500),
      lscale := w 0x508 &&& 0xFF, tcols := tcolsWrite (w 0x510), kvpos := w 0x518 &&& 0x800000FFFFFFFFFF, subn := w 0x520,
      cfd := field r 0x540 8, cf := cf } }

/-- The flight-table entry of a stream (R278). -/
def AOp.flight (o : AOp) : Option Flight :=
  let entry (d : Vector Word 4) (next count : Nat) : Flight :=
    { pc := o.pc, word := o.word, thread := .a, order := 0, rm := 0, lscale := 0, progress := next, len := count, op0 := d[0],
      op1 := d[1], op2 := d[2], lgp := #v[bits d[3].toNat 31 0, bits d[3].toNat 63 32, 0, 0] }
  match o.kind with
  | .sprd _ d next count => some (entry d next count)
  | .spwr _ d next count => some (entry d next count)
  | _ => none

/-- A stream as a flight-table entry of memory leaves it. -/
def AOp.resumed (o : AOp) (f : Flight) : AOp :=
  let d : Vector Word 4 := #v[f.op0, f.op1, f.op2, BitVec.ofNat 64 (lgAt f.lgp 0 + 2 ^ 32 * lgAt f.lgp 1)]
  match o.kind with
  | .sprd q _ _ _ => { o with kind := .sprd q d f.progress f.len }
  | .spwr q _ _ _ => { o with kind := .spwr q d f.progress f.len }
  | _ => o

/-- The streams of a strand, oldest first. -/
def Strand.streams (m : Strand) : List AOp := m.aops.filter (·.stream)

/-- The flight table that a suspension writes (R278). -/
def State.flightImage (s : State) : Nat :=
  flightTable (s.me.streams.filterMap (·.flight)) s.xFlight

/-- The bytes of the scratch part of a shadow image (R282). -/
def Strand.scratchPart (m : Strand) : Nat := (m.scratch + 65535) / 65536 * 65536

/-- The phases of a barrier that the launch of the strand at hand has completed, by the scope of the arrivals made there. -/
def State.phasesOf (s : State) (b : Nat) : Option Nat := s.phases b (if (s.me.bar b).scopes.getLsbD 1 then 2 else 1)

/-- A phase of a barrier is open: some thread of the launch has arrived more often than phases are complete (R36, R125). -/
def State.openPhase (s : State) (b : Nat) : Bool :=
  match s.phasesOf b with
  | none => false
  | some k => (s.group (if (s.me.bar b).scopes.getLsbD 1 then 2 else 1)).any (fun m =>
      decide (k < (m.bar b).aDone) || decide (k < (m.bar b).xDone))

/-- The other resident members of the launch group (R36). -/
def State.fellows (s : State) : List Strand :=
  s.strands.filter (fun m => m.uid != s.me.uid && m.launch == s.me.launch && m.die == s.me.die && m.resident)

/-- The barriers whose phase counters the strand at hand takes along as it is suspended, each with the phases complete then: it keeps
the counters, being the resident member with the lowest C index, no suspended member has them, and a phase is open, or no other
member is resident to take them over (R283). -/
def State.takesAlong (s : State) : List (Nat × Nat) :=
  (List.range 8).filterMap (fun b =>
    if s.fellows.all (fun m => decide (s.me.jidx ≤ m.jidx)) && (s.keeper s.me.launch b).isNone && (s.openPhase b || s.fellows.isEmpty) then
      (s.phasesOf b).map (fun k => (b, k))
    else none)

/-- An entry of the diversion table (R283). -/
def diversionEntry (kind id len start shadow : Nat) : Nat := kind + 2 ^ 8 * id + 2 ^ 32 * len + 2 ^ 64 * start + 2 ^ 128 * shadow

/-- The diversion table of the strand at hand (R283); the window offset of its reservation has the rank of its core in bits 24:23
(R200). -/
def State.diversionTable (s : State) : Nat :=
  let p := s.me.scratchPart
  packList 32 (diversionEntry 1 0 s.me.scratch (2 ^ 23 * (s.me.core % 4)) 0 ::
    (List.range 8).map (fun q => diversionEntry 2 q (capacity q - (s.queue q).items.length) 0 (p + 32768 * q)) ++
    (List.range 8).map (fun b => if (assoc s.me.kept b).isSome then diversionEntry 3 b 0 0 (p + 8 * 32768) else 0))

/-- The place of a queue's image in a save area (R275); `bq` has none. -/
def queueImageAt (q : Nat) : Nat := if q < 8 then 0xC0000 + 0x4000 * q else 0xE0000 + 0x2000 * (q - 8)

/-- Copies the reservation into the shadow image, with its poison (R276). -/
def State.padOut (s : State) : State :=
  let m := s.me
  let base := s.shadow m
  (List.range (m.scratch / 16)).foldl (fun t g =>
    let t1 := t.writePa (base + 16 * g) 16 (readLE (cellGet m.pad) (16 * g) 16)
    if s.padPoison.contains (m.uid, g) then t1.setPoison (base + 16 * g) true else t1) s

/-- Copies the scratch part of the shadow image into the reservation, with its poison (R285). -/
def State.padIn (s : State) : State :=
  let m := s.me
  let base := s.shadow m
  let gs := List.range (m.scratch / 16)
  let pad := gs.foldl (fun p g => writeLE p (16 * g) 16 (s.readPa (base + 16 * g) 16)) []
  { s with me := { s.me with pad := pad },
           padPoison := (gs.filter (fun g => s.poisonedPa (base + 16 * g))).map (fun g => (m.uid, g)) ++
             s.padPoison.filter (fun e => e.1 != m.uid) }

/-- Copies the lane-store reservation into the save area, slice by slice (R275). -/
def State.lanesOut (s : State) : State :=
  (List.range 16).foldl (fun t l =>
    t.writeVa s.me.ctx (s.saveArea s.me + BitVec.ofNat 64 (0x100000 + 131072 * l)) s.me.lanestore
      (readLE (cellGet s.me.lanes) (sliceCell l 0) s.me.lanestore)) s
def State.lanesIn (s : State) : State :=
  { s with me := { s.me with lanes := (List.range 16).foldl (fun m l =>
      writeLE m (sliceCell l 0) s.me.lanestore
        (s.readVa s.me.ctx (s.saveArea s.me + BitVec.ofNat 64 (0x100000 + 131072 * l)) s.me.lanestore)) [] } }

/-- Copies the entries of the queues into the save area, and back (R275). -/
def State.queuesOut (s : State) : State :=
  (List.range 12).foldl (fun t q =>
    let items := (s.queue q).items
    t.writeVa s.me.ctx (s.saveArea s.me + BitVec.ofNat 64 (queueImageAt q)) (16 * items.length)
      (packList 16 (items.map (fun e => e.val.toNat)))) s
def State.queuesIn (s : State) : State :=
  (List.range 12).foldl (fun t q =>
    let k := t.queue q
    let r := s.readVa s.me.ctx (s.saveArea s.me + BitVec.ofNat 64 (queueImageAt q)) (16 * k.items.length)
    t.setQueue q { k with items := k.items.zipIdx.map (fun e => { e.1 with val := BitVec.ofNat 128 (field r (16 * e.2) 16) }) }) s

/-- The queue control of a queue (R275): its count, its closed flag, whether the next entry pushed takes a token, and from byte 8 on
how many entries carry one; of `bq`, from byte 16 on, also the bits of its entries. The spec gives 64 bytes and no layout (DESIGN
CHOICE, log entry 38); the model keeps tokens and poison itself, since no software may write the control. -/
def State.queueControl (s : State) (q : Nat) : Nat :=
  let k := s.queue q
  let bq := (k.items.zipIdx.map (fun e => if e.1.val.getLsbD 0 then 2 ^ e.2 else 0)).sum
  k.items.length + 2 ^ 32 * (if k.closed then 1 else 0) + 2 ^ 40 * (if (s.me.avTok.toList.getD q none).isSome then 1 else 0)
    + 2 ^ 64 * (k.items.filter (·.tok.isSome)).length + (if q = 12 then 2 ^ 128 * bq else 0)

/-- Writes the queue control of the 13 queues (R275). -/
def State.controlOut (s : State) : State :=
  s.writeVa s.me.ctx (s.saveArea s.me + 0xE8000) 1024 (packList 64 ((List.range 13).map s.queueControl))

/-- Appends the logged entries of the queues behind the saved ones, in log order (R285). The first one of a queue takes the token that
waits for the next entry pushed (R93). -/
def State.logsIn (s : State) : State :=
  (List.range 8).foldl (fun t q =>
    let d := s.diversionAt s.me (1 + q)
    let n := s.readVa s.me.ctx (d + 24) 4
    let log := s.shadow s.me + s.readVa s.me.ctx (d + 16) 8
    let es : List Entry := (List.range n).map (fun i =>
      let r := s.readPa (log + 32 * i) 32
      { val := BitVec.ofNat 128 r, tok := if i = 0 then s.me.avTok.toList.getD q none else none, poison := decide (field r 26 1 % 2 = 1) })
    let k := t.queue q
    let t1 := t.setQueue q { k with items := k.items ++ es }
    if n = 0 then t1 else { t1 with me := { t1.me with avTok := t1.me.avTok.setIfInBounds q none } }) s

/-! ## Suspension (R276) -/

/-- A thread that waits for an interrupt passes its `wfi`, which a request to pre-empt ends (R133); one that waits at a barrier still
does (R36). -/
def Thread.stopped (t : Thread) : Thread :=
  match t.wait with
  | .interrupt => { t with pc := t.pc + 4, wait := .none }
  | .interruptAgain => { t with pc := t.pc + 4, wait := .none }
  | .barrier => t
  | .barrierAgain => t
  | _ => { t with wait := .none }

/-- Steps 3 to 5 of R276: the record, the copy out and the release of the slot. -/
def State.suspend (s : State) : State :=
  let ctx := s.me.ctx
  let a := s.saveArea s.me
  let s0 := { s with me := { s.me with a := s.me.a.stopped, x := s.me.x.stopped, kept := s.takesAlong } }
  let s1 := (s0.writeVa ctx (a + 0x1400) 512 s0.flightImage).writeVa ctx (a + 0x2000) 2048 s0.diversionTable
  let s2 := ((s1.writeVa ctx a 0xFF8 s0.scalarImage).writeVa ctx (a + 0x1640) 64
    ((s0.me.cfr 5).toNat + 2 ^ 64 * (s0.me.cfr 6).toNat))
  let s3 := s2.queuesOut.controlOut.lanesOut.padOut
  { s3 with
    me := { s3.me with status := .suspended, stop := [], stopping := false, ahead := [], ending := none, ydl := 0, waitTok := none, event := false,
                       since := s.gts, pad := [], lanes := [] }
    padPoison := s3.padPoison.filter (fun e => e.1 != s.me.uid) }

/-- No page of a strand's save area that a suspension writes and a resume reads is moving (R295). -/
def State.areaStill (s : State) (m : Strand) : Bool := !s.vaMoving m.ctx (s.saveArea m) 0x300000

/-- The strand at hand may be suspended: every `vappend` of it has retired, and its save area is still (R276, R161, R295). -/
def State.maySuspend (s : State) : Bool := s.me.append.isNone && s.areaStill s.me

/-- What a stop of the words in flight was for, once they have stopped: the A-thread's `yield` retires (R38, R126), or the trap of the
word before them is taken, with that word's own counters; the entries are held, and the return restarts the word before them (R274). -/
def State.finishEnding (s : State) : State :=
  let s0 := { s with me := { s.me with stop := [], stopping := false, ahead := [], ending := none } }
  match s.me.ending with
  | none => s
  | some .yield => { s0 with thr := .a }.yields
  | some (.trap t f conv) =>
    let v := s0.vu.setStart f.progress f.lgp
    let m := if s0.vu.flight.isEmpty then { s0.me with conv := conv } else { s0.me with resumeAt := some s0.me.x.pc }
    { s0 with vu := v, thr := .x, me := { m with x := { m.x with pc := f.pc } } }.takeTrap t

/-- A pre-emption falls on a strand that is stopping words for something else: a trap is taken at once, and a `yield` has not retired. -/
def State.dropEnding (s : State) : State :=
  match s.me.ending with
  | some (.trap _ _ _) => s.finishEnding
  | _ => { s with me := { s.me with ending := none } }

/-- A stop at the instruction boundaries: the drain, then the suspension; while a `vappend` waits for the commits of others, or the
save area for a move, the request stands (R276, R162). -/
def State.preempt (s : State) : State :=
  let s0 := s.dropEnding
  if !(s0.me.status == .placed || s0.me.status == .yielded) then s0
  else
    let t := s0.drainAll
    if t.maySuspend then t.suspend else { t with me := { t.me with stop := [noLanes], stopping := false } }

/-! ## Tiles and ownership (R33, R279) -/

/-- The tiles of a core that a strand may be bound to: bound to no other resident strand, and held by nobody, by the
strand itself, or by a suspended strand. -/
def State.tileFree (s : State) (m : Strand) (k : Nat) : Bool :=
  !(s.strands.any (fun t => t.uid != m.uid && t.resident && t.die == m.die && t.core == m.core &&
      (t.bound.take t.ntiles).contains k)) &&
  match (s.tile (256 * m.die + 16 * m.core + k)).holder with
  | none => true
  | some (u, _) => u == m.uid || match s.strand u with
      | some t => t.status == .suspended
      | none => true

/-- The time at which the holder of a tile was suspended; 0 where nobody holds it, so that such tiles come first. -/
def State.tileSince (s : State) (m : Strand) (k : Nat) : Nat :=
  match (s.tile (256 * m.die + 16 * m.core + k)).holder with
  | none => 0
  | some (u, _) => match s.strand u with
      | some t => t.since.toNat + 1
      | none => 0

/-- Inserts an element before the first one of a greater key. -/
def insertBy {α : Type} (key : α → Nat) (x : α) : List α → List α
  | [] => [x]
  | y :: l => if key x < key y then x :: y :: l else y :: insertBy key x l

/-- A list in ascending order of a key, equal ones as they stood. -/
def sortBy {α : Type} (key : α → Nat) (l : List α) : List α := l.foldl (fun acc x => insertBy key x acc) []

/-- The free tiles of a strand's core in the order in which names are bound to them (R279). -/
def State.tileChoice (s : State) (m : Strand) : List Nat :=
  sortBy (s.tileSince m) ((List.range 16).filter (s.tileFree m))

/-- The tile that a strand still holds under a name. -/
def State.heldTile (s : State) (m : Strand) (j : Nat) : Option Nat :=
  (List.range 16).find? (fun k => s.tileFree m k && (s.tile (256 * m.die + 16 * m.core + k)).holder == some (m.uid, j))

/-- The binding of a strand's tile names: to the tile still held where there is one, else to the next free one. -/
def State.bindNames (s : State) (m : Strand) : List Nat :=
  let own := (List.range m.ntiles).filterMap (s.heldTile m)
  let rest := (s.tileChoice m).filter (fun k => !own.contains k)
  ((List.range m.ntiles).foldl (fun (acc : List Nat × List Nat) j =>
    match s.heldTile m j with
    | some k => (acc.1 ++ [k], acc.2)
    | none => (acc.1 ++ [acc.2.headD 0], acc.2.tail)) ([], rest)).1

/-- A tile that nobody holds is zero and held by the strand at whose placement it is bound (R65, R279; log entry 41). -/
def State.claimTiles (s : State) (m : Strand) : State :=
  m.bound.zipIdx.foldl (fun t p =>
    let n := 256 * m.die + 16 * m.core + p.1
    match (t.tile n).holder with
    | none => t.setTile n { holder := some (m.uid, p.2), header := 0, cells := 0 }
    | some _ => t) s

/-- `xstate` at placement and at resume (R279). -/
def State.unitBits (s : State) (m : Strand) : Word :=
  let vec := (s.vuOf m.slotNo).owner == some m.uid
  let tiles := (List.range m.ntiles).all (fun j => (s.tile (m.tileNo j)).holder == some (m.uid, j))
  (if vec then 1 else 0) ||| (if tiles then 2 else 0)

/-! ## Resume (R285) -/

/-- Starts a strand's budget counter (R264). -/
def Strand.startBudget (m : Strand) : Strand := { m with budget := m.budget0, ydl := 0 }

/-- The first valid absent-fault entry of the strand at hand that is neither resolved nor unresolvable (R287). -/
def State.unresolved (s : State) : Option Word :=
  ((List.range 16).map (s.absentAt s.me)).find? (fun a => s.readVa s.me.ctx (a + 1) 1 % 8 == 1)

/-- The dirty bits of the image, taken in where they describe what is still the strand's: its slot's contents and the tiles that it
holds (R279, R336; log entry 28). -/
def State.dirtyIn (s : State) : State :=
  let w (o : Nat) : Word := BitVec.ofNat 64 (s.readVa s.me.ctx (s.saveArea s.me + BitVec.ofNat 64 o) 8)
  let s1 := if s.me.xstate.getLsbD 0 then { s with vu := { s.vu with dirty := w 0x528 &&& 0x1FFFFFFFF } } else s
  (List.range s.me.ntiles).foldl (fun t j =>
    let h := t.myTile j
    if h.holder == some (s.me.uid, j) then
      t.setTile (t.me.tileNo j) { h with header := (h.header &&& ~~~(4096#32)) ||| (if (w 0x530).getLsbD j then 4096#32 else 0#32) }
    else t) s1

/-- Unresolved absent faults reach the A-thread before its first instruction; there is no trapping instruction to restart (R287,
R272). In S mode the trap makes the strand faulted, as every trap there does (R38). -/
def State.deliverAbsent (s : State) : State :=
  match s.unresolved with
  | some a => s.trapA { cause := 0x0E, sub := 0, tval := a, tepc := s.me.a.pc, pages := [], more := false, resume := true }
  | none => s

/-- The X-thread's held entries resume at once when the strand owns the slot; else it takes 0x07 before its first
instruction (R280, R285, R308), or 0x08 where an entry that resumes needs tiles that it does not hold (R273, R280). The entries that an
instruction still to be restarted stands before wait for it, and those of the code that a handler interrupted for its `tret` (R274;
log entry 42). -/
def State.resumeHeld (s : State) : State :=
  let at' (cause : Nat) : State :=
    s.trapThread .x { cause := cause, sub := 0, tval := 0, tepc := s.me.x.pc, pages := [], more := false, resume := s.me.resumeAt.isNone }
  let all := s.xFlight
  let fs := if s.me.x.priv == .s then all.takeWhile s.systemEntry else all
  if !all.isEmpty && !s.me.xstate.getLsbD 0 then at' 0x07
  else if s.me.resumeAt.isSome then s
  else if !s.me.xstate.getLsbD 1 && fs.any (fun f => needsTile f.word) then at' 0x08
  else { s with me := { s.me with resuming := !fs.isEmpty } }

/-- A yielded strand goes on: its threads continue after their `yield`, and what its X-thread had stopped resumes (R126, R266). -/
def State.goOnYielded (s : State) : State :=
  let m := ({ s.me with status := .placed, readyAt := s.gts } : Strand).startBudget
  if s.me.x.wait == .stopped then { s with me := { m with x := { m.x with wait := .none } } }.resumeHeld else { s with me := m }

/-- The steps of R285 for the strand at hand, which is suspended: the images, the merge, the counters, and what it meets
before its first instruction. -/
def State.resume (s : State) : State :=
  let s1 := s.readScalar.queuesIn.lanesIn.padIn.logsIn
  let fs := flightOf s.tableInMemory .a
  let m0 := s1.me
  let streams := (m0.streams.zip fs).map (fun p => p.1.resumed p.2)
  let aops := m0.aops.filterMap (fun o => if o.stream then streams.find? (fun e => e.id == o.id) else some o)
  let m1 := { m0 with aops := aops, bound := s1.bindNames m0, status := .placed, readyAt := s.gts, kept := [], assists := 0 }.startBudget
  let s2 := { s1 with me := m1 }
  let s3 := { s2 with me := { s2.me with xstate := s2.unitBits s2.me } }
  s3.dirtyIn.deliverAbsent.resumeHeld

/-- A suspended strand comes to hand and resumes. -/
def State.resumeStrand (s : State) (uid : Nat) : State := (s.focus uid .a).resume

/-! ## The end of a strand (R38, R270, R291, R316) -/

/-- An operation that goes on when its strand ends: not a load, whose register is gone, nor a stream, which stood in the image. -/
def AOp.outlives (o : AOp) : Bool :=
  match o.kind with
  | .load _ _ _ _ => false
  | .sprd _ _ _ _ => false
  | .spwr _ _ _ _ => false
  | _ => true
def VOp.outlives (o : VOp) : Bool :=
  match o.kind with
  | .load _ _ => false
  | .scale _ _ => false
  | _ => true

/-- What a strand that ends leaves to be performed (R262). -/
def Strand.leaves (m : Strand) : Strand := { m with aops := m.aops.filter (·.outlives), vops := m.vops.filter (·.outlives) }

/-- A strand is discarded: its slot, its reservations, its tiles and its save area are free at once, and what its threads have issued
is still performed (R38, R262). -/
def State.discard (s : State) (uid : Nat) : State :=
  match s.strand uid with
  | none => s
  | some m =>
    let s1 := if m.resident then (s.focus uid .a).drainAll else s
    let s2 := (s1.freeStrand uid .discarded).modStrand uid (fun t => t.leaves)
    let s3 := { s2 with padPoison := s2.padPoison.filter (fun e => e.1 != uid) }
    if uid = s.me.uid then s3 else s3.focus s.me.uid s.thr

/-- The first arrival at a barrier that a member of a launch has issued and that may be performed. -/
def State.nextArrival (s : State) (launch : Word) (b : Nat) : Option Strand :=
  s.strands.findSome? (fun m => if m.launch == launch then (m.arrives .a b).orElse (fun _ => m.arrives .x b) else none)

/-- DIVERTED_ARRIVAL (R284): an arrival bound for an absent strand is performed at its shadow image: a write of a granule at an offset
of its scratchpad (kind 0), a push onto a queue (1), the next arrival of a member of its launch at a barrier whose counter it keeps
(2), or an atomic addition of 8 bytes at an offset (3). Bits 31:0 of `o` are the offset, the queue or the barrier, bits 47:32 the
source number of the arrival, bit 48 its poison and bits 58:49 the module it comes from. Arrivals of one `gts` value come in
ascending module number, and from one module in ascending source number (R322). -/
def execDivertedArrival (u : Nat) (kind : BitVec 2) (o : Nat) (v : BitVec 128) (s : State) : Out :=
  match s.strand u with
  | none => .next s
  | some m =>
    let i := bits o 31 0
    let src := bits o 47 32
    let bad := bits o 48 48 = 1
    let rank := sourceRank (bits o 58 49) src
    let l : Loc := .pad u i
    if m.status != .suspended || !s.rankInTurn (shadowKey u) rank || s.vaMoving m.ctx (s.diversionAt m 0) 2048 then .next s
    else
      match kind.toNat with
      | 0 =>
        if i % 16 = 0 && i + 16 ≤ m.scratch && !(bad && s.readPending l 16) then
          .next (((s.performWrite l none 16 v.toNat).setPoisonAt l bad).tookRank (shadowKey u) rank)
        else .next s
      | 1 =>
        let d := s.diversionAt m (1 + i)
        let n := s.readVa m.ctx (d + 24) 4
        if 8 ≤ i || s.readVa m.ctx (d + 4) 4 ≤ n then .next s
        else
          let r := v.toNat + 2 ^ 128 * s.gts.toNat + 2 ^ 192 * src + (if bad then 2 ^ 208 else 0)
          .next (((s.writePa (s.shadow m + s.readVa m.ctx (d + 16) 8 + 32 * n) 32 r).writeVa m.ctx (d + 24) 4 (n + 1)).tookRank (shadowKey u) rank)
      | 2 =>
        match (if (assoc m.kept (i % 8)).isSome then s.nextArrival m.launch (i % 8) else none) with
        | some t => .next ((s.modStrand t.uid (fun _ => t)).divertArrival m.launch (i % 8))
        | none => .next s
      | _ =>
        if i % 8 = 0 && i + 8 ≤ m.scratch then
          .next ((s.performWrite l none 8 ((s.readHome l 8 + v.toNat) % 2 ^ 64)).tookRank (shadowKey u) rank)
        else .next s

end Sys2Proof.Machine
end

