-- ==== Sys2Proof/Machine/Sched.lean ====
section
/-!
DEFINITION. Launches and scheduling (R35-R41, R257-R270): the launch queues, the launch records, expansion, placement,
preloads, budgets and the grace window, yielding and reruns.
-/

namespace Sys2Proof.Machine

/-! ## The launch record (R259) -/

/-- A field of a launch record or of a queue descriptor is a number of bytes at an offset; these are the ones with bits. -/
def recTrips (r l : Nat) : Nat := field r (16 + 4 * l) 4
def recKind (r l : Nat) : Nat := bits (field r 40 2) (2 * l + 1) (2 * l)
def recEntry (r o : Nat) : Word := BitVec.ofNat 64 (field r o 8)

/-- The zero rules of R259. -/
def recZeros (r : Nat) : Bool :=
  bits (field r 40 2) 15 12 == 0 && decide (field r 42 1 < 4) && bits (field r 52 4) 31 20 == 0 && decide (field r 56 1 < 8) &&
  decide (field r 57 1 < 4) && decide (field r 58 1 < 16) && field r 59 1 == 0 && field r 113 15 == 0

/-- The range, alignment and zero rules of R259. -/
def recFields (r : Nat) : Bool :=
  recZeros r && field r 0 8 % 4 == 0 && field r 8 8 % 4 == 0 && canonical (recEntry r 0) && canonical (recEntry r 8) &&
  (List.range 6).all (fun l => (recKind r l == 0) == (recTrips r l == 0)) && decide (field r 43 1 ≤ 8) &&
  decide (field r 44 4 ≤ 8388608) && field r 44 4 % 64 == 0 && decide (field r 48 4 ≤ 131072) && field r 48 4 % 16 == 0 &&
  decide (1 ≤ field r 52 4) && decide (field r 60 4 ≤ field r 44 4) && field r 60 4 % 64 == 0 &&
  (field r 60 4 != 0 || field r 64 8 == 0)

/-- The levels of a kind, outermost first: 1 T, 2 C, 3 D. -/
def recLevels (r k : Nat) : List Nat := (List.range 6).filter (fun l => recKind r l == k)

/-- The product of the trip counts of levels. -/
def recProd (r : Nat) (ls : List Nat) : Nat := ls.foldl (fun p l => p * recTrips r l) 1

/-- The index of a row-major index at level `l` among the levels of its kind (R35). -/
def recIndex (r k idx l : Nat) : Nat :=
  idx / recProd r ((recLevels r k).filter (fun m => decide (l < m))) % recTrips r l

/-- The strands that R35 places on core 0, which never has fewer than another core. -/
def recPerCore (r : Nat) : Nat := (recProd r (recLevels r 2) + 15) / 16

/-- The capacity of a core (R34, R33, R260). -/
def recFitsCore (r : Nat) : Bool :=
  let n := recPerCore r
  decide (n * field r 44 4 ≤ 8388608) && decide (n * field r 48 4 ≤ 131072) && decide (n * field r 43 1 ≤ 16)

/-! ## Hardware's own stores -/

/-- A store of the dispatcher or the Cellarer, at package scope. -/
def State.hwStore (s : State) (pa n v : Nat) : State := (s.writePa pa n v).wrote pa n

/-! ## Expansion (R35) -/

/-- The loop registers of a strand at its creation: `lc` and `lt` (R35). -/
def recLc (r e j : Nat) : Vector Word 6 :=
  Vector.ofFn (fun l => BitVec.ofNat 64 (
    if recKind r l = 3 then recIndex r 3 e l else if recKind r l = 2 then recIndex r 2 j l else 0))
def recLt (r : Nat) : Vector Word 6 := Vector.ofFn (fun l => BitVec.ofNat 64 (recTrips r l))

/-- A strand as expansion makes it, with the scalar state of its placement (R35, R65). -/
def freshStrand (r : Nat) (token : Word) (ctx uid die e j : Nat) : Strand :=
  let t (pc : Word) : Thread := { Thread.reset with pc := pc, lc := recLc r e j, lt := recLt r }
  { Strand.reset with
    uid := uid, status := .unborn, ctx := ctx, launch := token, die := die, core := j % 16, slot := j / 16, eidx := e, jidx := j,
    cls := field r 56 1, vregs := BitVec.ofNat 2 (field r 42 1), ntiles := field r 43 1, scratch := field r 44 4,
    lanestore := field r 48 4, budget0 := field r 52 4, a := t (recEntry r 0), x := t (recEntry r 8) }

/-- The occupancy of a die (R35): its unborn, placed, yielded and faulted strands. -/
def State.occupancy (s : State) (die : Nat) : Nat :=
  (s.strands.filter (fun m => m.die == die && (m.resident || m.status == .unborn))).length

/-- The die with the least occupancy, the lowest on a tie. -/
def State.leastDie (s : State) : Nat :=
  (List.range 4).foldl (fun b d => if s.occupancy d < s.occupancy b then d else b) 0

/-- Expands a launch into unborn strands (R35). -/
def State.expand (s : State) (l : Launch) : State :=
  let r := l.record.toNat
  let ds := recLevels r 3
  let die := s.leastDie
  let ej := (List.range (recProd r ds)).flatMap (fun e => (List.range (recProd r (recLevels r 2))).map (fun j => (e, j)))
  let new : List Strand := ej.zipIdx.map (fun (p : (Nat × Nat) × Nat) =>
    freshStrand r l.token l.ctx (s.nextUid + p.2) (if ds.isEmpty then die else p.1.1) p.1.1 p.1.2)
  { s with
    peers := s.peers ++ new, nextUid := s.nextUid + new.length
    launches := s.launches.map (fun (k : Launch) =>
      if k.token = l.token then { k with expanded := true, uids := k.uids ++ new.map (fun m => m.uid) } else k) }

/-- A launch of a token. -/
def State.launch (s : State) (t : Word) : Option Launch := s.launches.find? (fun l => l.token == t)

/-- The `gts` value at which the last waited token of a launch completed; that at which it is taken where it waits for none (R261). -/
def State.eligibleAt (s : State) (l : Launch) : Word :=
  match l.waits.filterMap s.tokenTime with
  | [] => s.gts
  | g :: gs => gs.foldl (fun a b => if a < b then b else a) g

/-- The classes that a launch has risen by a time: one for each 2 ms since its eligibility, up to 7 (R41, R263). -/
def Launch.aged (l : Launch) (gts : Word) : Launch :=
  match l.eligible with
  | some g => { l with aging := Nat.min 7 ((gts.toNat - g.toNat) / 2000000) }
  | none => l

/-- A launch whose waited tokens are complete is expanded, or, where one of them ended in state 2, 3 or 4, completes with
state 4 (R261). -/
def State.tryEligible (s : State) (t : Word) : State :=
  match s.launch t with
  | none => s
  | some l =>
    let sts := l.waits.map (fun w => statusState (s.tokenStatus w).1)
    if l.expanded || sts.any (· == 0) then s
    else if sts.any (fun x => x == 2 || x == 3 || x == 4) then s.completeToken t 4 0 0 0
    else
      let g := s.eligibleAt l
      let s1 := { s with launches := s.launches.map (fun (k : Launch) =>
        if k.token = t then ({ k with eligible := some g } : Launch).aged s.gts else k) }
      s1.expand l

/-- LAUNCH_ELIGIBLE (R261). -/
def execLaunchEligible (t : BitVec 64) (s : State) : Out := .next (s.tryEligible t)

/-! ## Tokens of launches (R262) -/

/-- Everything that a strand has issued is performed: its operations, its arrivals at barriers and its events. -/
def Strand.performedAll (m : Strand) : Bool :=
  m.aops.isEmpty && m.vops.isEmpty && m.sevs.isEmpty && m.bars.toList.all (fun b => b.aPend.isNone && b.xPend.isNone)

/-- LAUNCH_TOKEN_COMPLETE (R262): every strand has retired or was discarded, and everything that its threads issued is
performed or complete. -/
def execLaunchTokenComplete (t : BitVec 64) (s : State) : Out :=
  match s.launch t with
  | none => .next s
  | some l =>
    let mine := s.strands.filter (fun m => m.status != .void && l.uids.contains m.uid)
    if l.expanded && mine.all (fun m => (m.status == .retired || m.status == .discarded) && m.performedAll) && !s.cmds.any (fun c => c.open && l.uids.contains c.uid) then
      .next (if l.lost then s.completeToken t 2 (l.cause.getD 0) 0 0 else s.completeToken t 1 0 0 0)
    else .next s

/-! ## Launch queues (R44, R257, R258) -/

/-- A registered launch queue. -/
def State.launchQueue (s : State) (q : Nat) : Option LaunchQueue := s.queues.find? (fun k => k.num == q)

/-- Changes a launch queue. -/
def State.modQueue (s : State) (q : Nat) (f : LaunchQueue → LaunchQueue) : State :=
  { s with queues := s.queues.map (fun k => if k.num = q then f k else k) }

/-- A field of a queue's descriptor. -/
def State.queueFld (s : State) (k : LaunchQueue) (o n : Nat) : Nat := s.readPa (k.desc + o) n

/-- DISPATCHER_WAKE (R44): a write of the tail line wakes the dispatcher for the queue. -/
def execDispatcherWake (q : Nat) (s : State) : Out := .next (s.modQueue q (fun k => { k with awake := true }))

/-- The address of a record names a slot of a registered queue of the context (R261). -/
def State.namesRecord (s : State) (ctx pa : Nat) : Bool :=
  s.queues.any (fun k => s.queueFld k 76 2 == ctx && decide (s.queueFld k 64 8 ≤ pa) &&
    decide (pa < s.queueFld k 64 8 + 128 * s.queueFld k 72 4) && (pa - s.queueFld k 64 8) % 128 == 0)

/-- A wait entry: empty, a token, or none where it breaks rule 4 of R260. -/
def State.waitEntry (s : State) (ctx r w : Nat) : Option (List Word) :=
  let v := field r (72 + 8 * w) 8
  if v = 0 then some []
  else if bits (field r 58 1) w w = 1 then
    let t := BitVec.ofNat 64 (s.readPa (v + 104) 8)
    if s.namesRecord ctx v && t != 0 && tokenCtx t == ctx then some [t] else none
  else if tokenCtx (BitVec.ofNat 64 v) = ctx then some [BitVec.ofNat 64 v] else some []

/-- The record asks for a rerun. -/
def recRerun (r : Nat) : Bool := field r 57 1 / 2 % 2 = 1

/-- The launch that a rerun record names (R270). -/
def State.rerunOf (s : State) (ctx r : Nat) : Option Launch :=
  if bits (field r 58 1) 0 0 = 1 then none
  else match s.launch (recEntry r 72) with
    | some l => if l.ctx = ctx then some l else none
    | none => none

/-- The code of R260, 0 when the record is accepted; of several, the lowest (log entry 43). -/
def State.rejectCode (s : State) (ctx r : Nat) : Nat :=
  if recRerun r then
    if !recZeros r then 1 else if (s.rerunOf ctx r).isNone then 5 else if (s.context ctx).isNone then 6 else 0
  else if !recFields r then 1
  else if 4 < recProd r (recLevels r 3) || 64 < recProd r (recLevels r 2) then 2
  else if !recFitsCore r then 3
  else if (List.range 4).any (fun w => (s.waitEntry ctx r w).isNone) then 4
  else if (s.context ctx).isNone then 6
  else 0

/-- Writes the signal and the reason of a record, then the head of its queue (R258). -/
def State.ackRecord (s : State) (k : LaunchQueue) (pa : Nat) (signal : Word) (reason : Nat) : State :=
  let s1 := ((s.hwStore (pa + 104) 8 signal.toNat).hwStore (pa + 112) 1 reason).hwStore (k.desc + 80) 8 (k.head.toNat + 1)
  s1.modQueue k.num (fun q => { q with head := q.head + 1 })

/-- The strands of a launch that have not retired, by identity. -/
def State.membersOf (s : State) (t : Word) : List Nat :=
  (s.strands.filter (fun m => m.status != .void && m.status != .retired && m.status != .discarded && m.launch == t)).map (·.uid)

/-- The generation of a launch (R268). -/
def State.genOf (s : State) (t : Word) : Nat := ((s.gens.find? (fun e => e.1 == t)).map (·.2)).getD 0

/-- Rerun (R270): every strand of the launch that has not retired is discarded, its generation rises, and its saved record
is expanded again. A launch that has not been expanded yet has no strand and is expanded when it becomes eligible. -/
def State.rerunLaunch (s : State) (l : Launch) : State :=
  let s1 := (s.membersOf l.token).foldl (fun t u => t.discard u) s
  let s2 := { s1 with gens := (l.token, s1.genOf l.token + 1) :: s1.gens.filter (fun e => e.1 != l.token) }
  if l.expanded then s2.expand l else s2

/-- Takes a record (R258-R261, R270). -/
def State.takeRecord (s : State) (k : LaunchQueue) (pa r : Nat) : State :=
  let ctx := s.queueFld k 76 2
  let code := s.rejectCode ctx r
  if code ≠ 0 then
    let p := s.newToken ctx 2
    let s1 := p.2.completeToken p.1 3 0 0 0
    s1.ackRecord k pa (if code ≤ 4 then p.1 else 0) code
  else
    match (if recRerun r then s.rerunOf ctx r else none) with
    | some l => (s.ackRecord k pa l.token 0).rerunLaunch l
    | none =>
      let p := s.newToken ctx 2
      let l : Launch :=
        { token := p.1, ctx := ctx, queue := k.num, pos := k.head.toNat, record := BitVec.ofNat 1024 r,
          waits := ((List.range 4).filterMap (s.waitEntry ctx r)).flatten, eligible := none, expanded := false, cause := none,
          lost := false, aging := 0, uids := [] }
      let s1 := p.2.ackRecord k pa p.1 0
      ({ s1 with launches := s1.launches ++ [l] }).tryEligible p.1

/-- The distance from a queue's head to a tail. -/
def LaunchQueue.ahead (k : LaunchQueue) (tail : Nat) : Nat := (tail + 2 ^ 64 - k.head.toNat) % 2 ^ 64

/-- The record that a queue's dispatcher takes next: its address and its bytes; `none` while the queue sleeps, is stopped, or
the module holds no firmware (R325). -/
def State.nextRecord (s : State) (k : LaunchQueue) : Option (Nat × Nat) :=
  let tail := s.queueFld k 0 8
  if !k.awake || k.stopped || !s.firmware.loaded || tail = k.head.toNat then none
  else
    let pa := s.queueFld k 64 8 + 128 * (k.head.toNat % s.queueFld k 72 4)
    some (pa, s.readPa pa 128)

/-- The tail has moved backward since the dispatcher last read it, or is more than the capacity ahead of the head (R258). -/
def State.tailBad (s : State) (k : LaunchQueue) : Bool :=
  let t := s.queueFld k 0 8
  decide (k.ahead t < k.ahead k.tail.toNat) || decide (s.queueFld k 72 4 < k.ahead t)

/-- The dispatcher has read the tail of a queue. -/
def State.sawTail (s : State) (k : LaunchQueue) : State :=
  s.modQueue k.num (fun e => { e with tail := BitVec.ofNat 64 (s.queueFld k 0 8) })

/-- LAUNCH_RECORD (R258): takes the next record of a queue; a bad tail stops the queue and is reported to firmware, and a
queue without a record sleeps. -/
def execLaunchRecord (q : Nat) (s : State) : Out :=
  match s.launchQueue q with
  | none => .next s
  | some k =>
    if !k.awake || k.stopped || !s.firmware.loaded then .next s
    else if s.tailBad k then .next ((s.modQueue q (fun e => { e with stopped := true })).report (.queueStopped q))
    else
      match s.nextRecord k with
      | none => .next (s.modQueue q (fun e => { e with awake := false }))
      | some (pa, r) => .next ((s.sawTail k).takeRecord k pa r)

/-- RERUN (R270): the record at the head of some queue that asks for the rerun of a launch is taken. -/
def execRerun (t : BitVec 64) (s : State) : Out :=
  let hit (k : LaunchQueue) : Bool :=
    match s.nextRecord k with
    | some (_, r) => !s.tailBad k && recRerun r && recEntry r 72 == t
    | none => false
  match s.queues.find? hit with
  | none => .next s
  | some k =>
    match s.nextRecord k with
    | some (pa, r) => .next ((s.sawTail k).takeRecord k pa r)
    | none => .next s

/-! ## Placement (R39, R263) -/

/-- The launches with unborn strands rise with the time that they wait (R41). -/
def State.age (s : State) : State :=
  { s with launches := s.launches.map (fun l =>
      if s.strands.any (fun m => m.launch == l.token && m.status == .unborn) then l.aged s.gts else l) }

/-- AGING (R41): a launch with unborn strands rises one class for each 2 ms since its eligibility. -/
def execAging (s : State) : Out := .next s.age

/-- A strand waits for its slot: unborn or suspended. -/
def Strand.candidate (m : Strand) : Bool := m.status == .unborn || m.status == .suspended

/-- The effective class of a candidate: its record's class with its aging, up to 7 (R41, R263). -/
def State.effClass (s : State) (m : Strand) : Nat :=
  let age := if m.status = .suspended then (s.gts.toNat - m.since.toNat) / 2000000 else match s.launch m.launch with
    | some l => (l.aged s.gts).aging
    | none => 0
  Nat.min 7 (m.cls + age)

/-- The strand holds up a barrier of the strands of its launch on a die: a thread of it waits at a barrier, on that die or at package
scope (R36). -/
def State.waitsAt (s : State) (m : Strand) (die : Nat) : Bool :=
  let pkg (t : Thread) : Bool := (((s.focus m.uid .a).codeAt t.pc t.priv).map (·.getLsbD 2)).getD false
  let waits (t : Thread) : Bool := (t.wait == .barrier || t.wait == .barrierAgain) && (m.die == die || pkg t)
  (m.status == .placed || m.status == .yielded || m.status == .suspended) && (waits m.a || waits m.x)

/-- A group that the strands of a launch on a die belong to has a waiting barrier (R36, R263). -/
def State.barrierWaits (s : State) (t : Word) (die : Nat) : Bool := s.strands.any (fun m => m.launch == t && s.waitsAt m die)

/-- The place of a candidate in the order of R263, smaller first. -/
def State.placeKey (s : State) (m : Strand) : List Nat :=
  let l := s.launch m.launch
  let first := m.status == .unborn && s.barrierWaits m.launch m.die
  let since := if m.status = .suspended then m.since.toNat else match l.bind (·.eligible) with
    | some g => g.toNat
    | none => 0
  [if first then 0 else 1, 7 - s.effClass m, since, (l.map (·.queue)).getD 0, (l.map (·.pos)).getD 0]

/-- Lexicographic order. -/
def lexLt : List Nat → List Nat → Bool
  | [], [] => false
  | [], _ => true
  | _, [] => false
  | a :: l, b :: m => decide (a < b) || (a == b && lexLt l m)

/-- The candidates of a slot (R263). -/
def State.candidates (s : State) (die core slot : Nat) : List Strand :=
  s.strands.filter (fun m => m.candidate && m.die == die && m.core == core && m.slot == slot)

/-- The first of a list in the order of R263. -/
def State.firstOf (s : State) (l : List Strand) : Option Strand :=
  l.foldl (fun b m => match b with
    | none => some m
    | some k => if lexLt (s.placeKey m) (s.placeKey k) then some m else b) none

/-- The resident strands of a core. -/
def State.residents (s : State) (die core : Nat) : List Strand :=
  s.strands.filter (fun m => m.resident && m.die == die && m.core == core)

/-- The lowest free save area of a context's pool (R275). -/
def State.freeArea (s : State) (ctx : Nat) : Option Nat :=
  (List.range (s.ctxFld ctx 32 4)).find? (fun i => !s.strands.any (fun m => m.ctx == ctx && m.save == some i))

/-- The reservations of a strand fit its core (R33, R34, R39). -/
def State.roomFor (s : State) (m : Strand) : Bool :=
  let rs := s.residents m.die m.core
  let sum (f : Strand → Nat) : Nat := (rs.map f).sum
  decide (sum (·.scratch) + m.scratch ≤ 8388608) && decide (sum (·.lanestore) + m.lanestore ≤ 131072) &&
  decide (m.ntiles ≤ (s.tileChoice m).length) && (m.save.isSome || (s.freeArea m.ctx).isSome)

/-- A strand stands in a slot. -/
def State.slotTaken (s : State) (die core slot : Nat) : Bool := (s.residents die core).any (fun m => m.slot == slot)

/-- The preload that a placement finds for its slot (R267, R268): of its launch, with its generations unchanged and no store
since to the code it fetched. -/
def State.preloadFor (s : State) (m : Strand) : Option Preload :=
  match s.preloads.find? (fun p => p.die == m.die && p.core == m.core && p.slot == m.slot && p.launch == m.launch) with
  | some p => if !p.stale && p.gens.all (fun g => s.genOf g.1 == g.2) then some p else none
  | none => none

/-- The virtual address of byte `i` of a launch's image on the side that its copy reads: that in view (R95, R208). -/
def State.imageVa (s : State) (l : Launch) (i : Nat) : Word :=
  let va := recEntry l.record.toNat 64 + BitVec.ofNat 64 i
  match surfAtIn (s.surfs l.ctx) va with
  | some (f, o, _) => if f.twin && f.side then BitVec.ofNat 64 (f.alt + o) else va
  | none => va

/-- Where an engine read of byte `i` of a launch's image goes (R267): a compressed surface and its aperture give the plain form
(R190, R214). -/
def State.imageLoc (s : State) (l : Launch) (i : Nat) : Loc :=
  let hit := surfAtIn (s.surfs l.ctx) (recEntry l.record.toNat 64 + BitVec.ofNat 64 i)
  match s.walk l.ctx (s.imageVa l i) with
  | .leaf e _ n =>
    let pa := s.normPa (leafPa e n (s.imageVa l i))
    let plain := match hit with | some (f, _, w) => f.compressed || w.isSome | none => false
    if plain || e.getLsbD 9 then .aperture pa (match hit with | some (f, _, _) => f.elemBytes | none => 1) else .mem pa
  | _ => .absent 0x04

/-- The preload image of a launch, as its copy reads it; poisoned granules are listed (R267). A granule that no page holds reads as
zeros (log entry 111). -/
def State.readImageOf (s : State) (l : Launch) : List Host.Cell × List Nat :=
  let n := field l.record.toNat 60 4 / 16
  ((List.range n).foldl (fun m g => writeLE m (16 * g) 16 (s.readHome (s.imageLoc l (16 * g)) 16)) [],
   (List.range n).filter (fun g => s.poisonedAt (s.imageLoc l (16 * g)) 16))

/-- The pages of a launch's image: the byte of the image that comes first in each. -/
def Launch.imagePages (l : Launch) : List Nat :=
  let n := field l.record.toNat 60 4
  if n = 0 then [] else (pagePieces (recEntry l.record.toNat 64) n).map (·.1)

/-- The copy of a launch's image by a die's dispatcher sets the accessed bit of each page and counts it once (R298, R300). -/
def State.touchImage (s : State) (l : Launch) (die : Nat) : State :=
  l.imagePages.foldl (fun t i =>
    match t.translate l.ctx die none (t.imageVa l i) .load .s with
    | .ok pa _ _ t1 => t1.countAccess pa (recEntry l.record.toNat 64 + BitVec.ofNat 64 i) (Requester.dieDispatcher die).number false
    | _ => t) s

/-- The reservation of a strand as its placement leaves it (R267): the preload's half, or zeros with the image copied. -/
def State.fillPad (s : State) (m : Strand) : State :=
  let image : (List Host.Cell × List Nat) × State :=
    match (s.preloadFor m).bind (fun p => p.half.map (fun _ => (p.image, p.poison))), s.launch m.launch with
    | some c, _ => (c, s)
    | none, some l => (s.readImageOf l, s.touchImage l m.die)
    | none, none => (([], []), s)
  let s1 := image.2.modStrand m.uid (fun t => { t with pad := image.1.1 })
  { s1 with
    padPoison := image.1.2.map (fun g => (m.uid, g)) ++ s1.padPoison.filter (fun e => e.1 != m.uid)
    preloads := s1.preloads.filter (fun p => !(p.die == m.die && p.core == m.core && p.slot == m.slot && p.launch == m.launch)) }

/-- The page of no byte of a launch's image is moving (R295, R302). -/
def State.imageStill (s : State) (l : Launch) : Bool := l.imagePages.all (fun i => !s.vaMoving l.ctx (s.imageVa l i) 1)

/-- A reservation lies, in whole or in part, in a half of its core's scratchpad (R267). -/
def Strand.lies (m : Strand) (h : Bool) : Bool := m.scratch != 0 && m.half != some (!h)

/-- A half of a scratchpad has room for a reservation beside those of the other residents. -/
def State.halfRoom (s : State) (m : Strand) (h : Bool) : Bool :=
  decide ((((s.residents m.die m.core).filter (fun k => k.uid != m.uid && k.lies h)).map (·.scratch)).sum + m.scratch ≤ 4194304)

/-- A preload fills a half of a core's scratchpad (R267). -/
def State.preloaded (s : State) (die core : Nat) (h : Bool) : Bool :=
  s.preloads.any (fun p => p.die == die && p.core == core && p.half == some h)

/-- The half in which a reservation made without a preload lies: one with room for it, of two such one without a preload, then the
lower one; none where it lies in both (DESIGN CHOICE, log entry 105). -/
def State.chooseHalf (s : State) (m : Strand) : Option Bool :=
  let ok := [false, true].filter (s.halfRoom m)
  (ok.find? (fun h => !s.preloaded m.die m.core h)).orElse (fun _ => ok.head?)

/-- Preloads whose half a resident's reservation now needs are dropped (R269). -/
def State.trimPreloads (s : State) (die core : Nat) : State :=
  { s with preloads := s.preloads.filter (fun p => !(p.die == die && p.core == core &&
      p.half.any (fun h => (s.residents die core).any (fun m => m.lies h)))) }

/-- A strand that is placed or resumes takes its reservation: the half of its preload, if any, else one that is chosen for it. -/
def State.takeHalf (s : State) (uid : Nat) (pre : Option Bool) : State :=
  s.modStrand uid (fun m => { m with half := pre.orElse (fun _ => s.chooseHalf m) })

/-- The vector state of a slot at a placement (R279): reset for the new strand when its owner is gone. -/
def State.claimVec (s : State) (m : Strand) : State :=
  let v := s.vuOf m.slotNo
  let gone : Bool := match v.owner with
    | none => true
    | some u => match s.strand u with
        | some t => t.status == .retired || t.status == .discarded
        | none => true
  if gone then s.setVuOf m.slotNo { VecUnit.reset with owner := some m.uid, vcfg := m.vregs } else s

/-- What placement writes into the save area (R281): the control block of R65 and the held words of the tiles. -/
def State.initArea (s : State) (m : Strand) : State :=
  let a := s.saveArea m
  let s1 := s.writeVa m.ctx (a + 0x1600) 64
    (2 ^ 127 + 2 ^ 256 * (2 ^ 32 - 1) + 2 ^ 288 * m.vregs.toNat)
  (List.range 8).foldl (fun t j => t.writeVa m.ctx (a + BitVec.ofNat 64 (0x30000 + j * 0x10040 + 0x10004)) 4 0) s1

/-- Places an unborn strand (R39, R65, R264, R267, R272, R275, R279, R281). -/
def State.placeUnborn (s : State) (m : Strand) : State :=
  let save := match m.save with
    | some i => some i
    | none => s.freeArea m.ctx
  let names := s.bindNames m
  let s1 := s.modStrand m.uid (fun t => ({ t with save := save, bound := names, status := .placed, readyAt := s.gts } : Strand).startBudget)
  match s1.strand m.uid with
  | none => s1
  | some m1 =>
    let s2 := ((s1.claimVec m1).claimTiles m1).initArea m1
    let area := s2.saveArea m1
    let bits := s2.unitBits m1
    let s3 := s2.modStrand m.uid (fun t =>
      { t with xstate := bits, codeSeen := s2.codeOld.length, a := { t.a with trec := area + 0x1000 }, x := { t.x with trec := area + 0x1200 } })
    let pre := (s3.preloadFor m1).bind (·.half)
    ((s3.fillPad m1).takeHalf m.uid pre).trimPreloads m.die m.core

/-- A suspended strand resumes in its slot, and its reservation is made again (R285, R269). -/
def State.returnStrand (s : State) (m : Strand) : State :=
  ((s.resumeStrand m.uid).takeHalf m.uid none).trimPreloads m.die m.core

/-- No page that the placement of a strand reads or writes is moving (R295): its save area, and for an unborn one its image. -/
def State.mayPlace (s : State) (m : Strand) : Bool :=
  s.areaStill { m with save := m.save.orElse (fun _ => s.freeArea m.ctx) } &&
  (m.status == .suspended || (s.launch m.launch).all s.imageStill)

/-- Places the first candidate of a free slot that fits, in the order of R263; a suspended one resumes. -/
def State.fillSlot (s : State) (die core slot : Nat) : State :=
  if s.slotTaken die core slot then s
  else
    match s.firstOf ((s.candidates die core slot).filter s.roomFor) with
    | none => s
    | some m => if !s.mayPlace m then s else if m.status = .suspended then s.returnStrand m else s.placeUnborn m

/-- PLACEMENT (R263). -/
def execPlacement (die : BitVec 2) (core : BitVec 4) (slot : BitVec 2) (s : State) : Out :=
  .next (s.fillSlot die.toNat core.toNat slot.toNat)

/-- MERGE_ON_RESUME (R285): a suspended strand that its slot's order chooses resumes. -/
def execMergeOnResume (u : Nat) (s : State) : Out :=
  match s.strand u with
  | none => .next s
  | some m =>
    if m.status != .suspended || s.slotTaken m.die m.core m.slot then .next s
    else
      match s.firstOf ((s.candidates m.die m.core m.slot).filter s.roomFor) with
      | some k => if k.uid = u && s.mayPlace m then .next (s.returnStrand m) else .next s
      | none => .next s

/-! ## Preload (R267-R269) -/

/-- A launch that has not been expanded may come to stand in a slot: its C product reaches the slot, and its dies do. -/
def recReaches (r die core slot : Nat) : Bool :=
  decide (16 * slot + core < recProd r (recLevels r 2)) && ((recLevels r 3).isEmpty || decide (die < recProd r (recLevels r 3)))

/-- The launch that R263 would place next in a slot: that of its first candidate, if that is an unborn strand, or, without a candidate,
the first launch taken that may stand there. -/
def State.nextLaunch (s : State) (die core slot : Nat) : Option Launch :=
  match s.firstOf (s.candidates die core slot) with
  | some m => if m.status = .unborn then s.launch m.launch else none
  | none => s.launches.find? (fun l => !l.expanded && recReaches l.record.toNat die core slot)

/-- The scratchpad preload is permitted (R267). -/
def State.halfFree (s : State) (l : Launch) (die core : Nat) (half : Bool) : Bool :=
  let r := l.record.toNat
  l.eligible.isSome && field r 57 1 % 2 == 0 && field r 60 4 != 0 && decide (field r 44 4 ≤ 4194304) &&
  !(s.residents die core).any (fun m => m.lies half) && !s.preloaded die core half && s.imageStill l

/-- The address of the code line of an entry that can be fetched: its page is mapped executable, and for U mode (R267, R295). -/
def State.codeLine (s : State) (ctx : Nat) (va : Word) : Option Nat :=
  match s.walk ctx va with
  | .leaf e _ size => if permits e .fetch .u then some (leafPa e size va / 64 * 64) else none
  | _ => none

/-- PRELOAD (R267): in an occupied slot, the code lines of the launch that R263 would place there next, and, where a half of
the scratchpad is free for it, its image; the generations are recorded (R268). -/
def execPreload (die : BitVec 2) (core : BitVec 4) (slot : BitVec 2) (half : Bool) (s : State) : Out :=
  let d := die.toNat
  let c := core.toNat
  let k := slot.toNat
  if !s.slotTaken d c k then .next s
  else
    match s.nextLaunch d c k with
    | none => .next s
    | some l =>
      let r := l.record.toNat
      match s.codeLine l.ctx (recEntry r 0), s.codeLine l.ctx (recEntry r 8) with
      | some pa, some px =>
        let h := s.halfFree l d c half
        let p : Preload :=
          { die := d, core := c, slot := k, launch := l.token, half := if h then some half else none,
            image := if h then (s.readImageOf l).1 else [], poison := if h then (s.readImageOf l).2 else [], gens := l.waits.map (fun t => (t, s.genOf t)),
            lines := [pa, px], stale := false }
        let s1 := if h then s.touchImage l d else s
        .next { s1 with preloads := p :: s1.preloads.filter (fun e => !(e.die == d && e.core == c && e.slot == k)) }
      | _, _ => .next s

/-! ## Budgets and the grace window (R264, R265) -/

/-- A strand counts its budget: ready, running or waiting. -/
def Strand.counting (m : Strand) : Bool := m.status == .placed

/-- A strand's budget after `gts` moves from `g` to `g'`: it falls at each multiple of 1,000 ns, and at 0 the grace window
opens (R264). -/
def Strand.tick (m : Strand) (g g' : Nat) : Strand :=
  let k := g' / 1000 - g / 1000
  if !m.counting || m.budget = 0 || k = 0 then m
  else if m.budget ≤ k then
    { m with budget := 0, ydl := BitVec.ofNat 64 ((g / 1000 + m.budget) * 1000 + 2000) }
  else { m with budget := m.budget - k }

/-- The end of the grace window of a strand that counts: of the one that is open, or of the one that opens when its budget is spent
(R264). -/
def Strand.windowEnd (m : Strand) (g : Nat) : Option Nat :=
  if !m.counting then none
  else if m.ydl ≠ 0 then some (Nat.max m.ydl.toNat g)
  else if m.budget ≠ 0 then some ((g / 1000 + m.budget) * 1000 + 2000)
  else none

/-- The nearest end of a grace window, up to `g`: `gts` never passes one without its pre-emption (R264). -/
def State.nearestYdl (s : State) (g : Nat) : Nat :=
  (s.strands.filterMap (fun m => m.windowEnd s.gts.toNat)).foldl Nat.min g

/-- `gts` moves forward, with the budgets and the aging of the launches. -/
def State.advanceTo (s : State) (g : Nat) : State :=
  let g := s.nearestYdl (Nat.max g s.gts.toNat)
  ({ s with gts := BitVec.ofNat 64 g, me := s.me.tick s.gts.toNat g, peers := s.peers.map (fun (m : Strand) => m.tick s.gts.toNat g) }).age

/-- BUDGET_TICK (R264): `gts` reaches its next multiple of 1,000 ns. -/
def execBudgetTick (s : State) : Out := .next (s.advanceTo ((s.gts.toNat / 1000 + 1) * 1000))

/-- GTS_SLEWING (R322): the Cellarer slews `gts`, never backward. -/
def execGtsSlewing (g : BitVec 64) (s : State) : Out := .next (s.advanceTo g.toNat)

/-- Counts an overrun of a context (R264, R331). -/
def State.countOverrun (s : State) (ctx : Nat) : State :=
  { s with overruns := assocSet s.overruns ctx (Nat.min ((assoc s.overruns ctx).getD 0 + 1) (2 ^ 64 - 1)) }

/-- GRACE_WINDOW_END (R264, R265): `gts` reaches the `ydl` of the strand at hand, which is still ready, running or waiting:
it is pre-empted, and an overrun is counted. -/
def execGraceWindowEnd (s : State) : Out :=
  if !s.me.counting || s.me.ydl = 0 then .next s
  else
    let s1 := s.advanceTo s.me.ydl.toNat
    if s1.gts.toNat < s1.me.ydl.toNat then .next s1
    else .next ((({ s1 with me := { s1.me with ydl := 0 } }).countOverrun s1.me.ctx).preempt)

/-! ## Yield (R266) -/

/-- YIELD_RESOLVE (R266): a yielded strand resumes in its slot, or, where a candidate of equal or higher effective class
waits for it, is suspended, and the candidate is placed. -/
def execYieldResolve (s : State) : Out :=
  if s.me.status != .yielded then .next s
  else
    let m := s.me
    if (s.candidates m.die m.core m.slot).any (fun k => decide (m.cls ≤ s.effClass k)) then
      let t := s.preempt
      .next (if t.me.status = .suspended then t.fillSlot m.die m.core m.slot else { t with me := { t.me with stop := [] } })
    else .next s.goOnYielded

/-! ## Pre-emption (R263, R276) -/

/-- The dispatcher may pre-empt the strand at hand: a candidate of a higher effective class waits for its slot, or, passed
over elsewhere on its core, does not fit (R263). -/
def State.mayPreempt (s : State) : Bool :=
  let m := s.me
  (m.status == .placed || m.status == .yielded) &&
  s.strands.any (fun k => k.candidate && k.die == m.die && k.core == m.core && decide (m.cls < s.effClass k) &&
    (k.slot == m.slot || (!s.slotTaken k.die k.core k.slot && !s.roomFor k)))

/-- The grace window of the strand at hand ends now, and it still counts (R264). -/
def State.overrunsNow (s : State) : Bool := s.me.counting && s.me.ydl != 0 && decide (s.me.ydl.toNat ≤ s.gts.toNat)

/-- The overrun of the strand at hand: its window ends, and its context counts it (R264). -/
def State.noteOverrun (s : State) : State :=
  if s.overrunsNow then ({ s with me := { s.me with ydl := 0 } }).countOverrun s.me.ctx else s

/-- PRE_EMPTION (R264, R276): with zeros, both threads stop where they stand; otherwise the X-thread's next instruction stops
part way, having performed in lane group `g` the elements below the `g`-th number (R277), and so do the words in flight behind it. -/
def execPreEmption (l0 l1 l2 l3 : Nat) (s : State) : Out :=
  let t := s.noteOverrun.dropEnding
  if !s.mayPreempt && !s.overrunsNow then .next s
  else if l0 = 0 && l1 = 0 && l2 = 0 && l3 = 0 || t.me.status != .placed then .next t.preempt
  else .next { t with thr := .x, me := { t.me with stop := #v[l0, l1, l2, l3] :: t.me.ahead, stopping := false, ahead := [] } }

end Sys2Proof.Machine
end

