-- ==== Sys2Proof/Machine/Sha.lean ====
section
/-!
DEFINITION. SHA-384, by which the boot code recomputes D of a firmware image and the module measures its policy (R324-R326). The
manual names the algorithm; its text is FIPS 180-4 (PRESUMED, log entry 20).
-/

namespace Sys2Proof.Machine

/-- The constants of the rounds: the first 64 bits of the fractional parts of the cube roots of the first 80 primes. -/
def shaConst : List Word :=
  [0x428A2F98D728AE22, 0x7137449123EF65CD, 0xB5C0FBCFEC4D3B2F, 0xE9B5DBA58189DBBC,
    0x3956C25BF348B538, 0x59F111F1B605D019, 0x923F82A4AF194F9B, 0xAB1C5ED5DA6D8118,
    0xD807AA98A3030242, 0x12835B0145706FBE, 0x243185BE4EE4B28C, 0x550C7DC3D5FFB4E2,
    0x72BE5D74F27B896F, 0x80DEB1FE3B1696B1, 0x9BDC06A725C71235, 0xC19BF174CF692694,
    0xE49B69C19EF14AD2, 0xEFBE4786384F25E3, 0x0FC19DC68B8CD5B5, 0x240CA1CC77AC9C65] ++
  [0x2DE92C6F592B0275, 0x4A7484AA6EA6E483, 0x5CB0A9DCBD41FBD4, 0x76F988DA831153B5,
    0x983E5152EE66DFAB, 0xA831C66D2DB43210, 0xB00327C898FB213F, 0xBF597FC7BEEF0EE4,
    0xC6E00BF33DA88FC2, 0xD5A79147930AA725, 0x06CA6351E003826F, 0x142929670A0E6E70,
    0x27B70A8546D22FFC, 0x2E1B21385C26C926, 0x4D2C6DFC5AC42AED, 0x53380D139D95B3DF,
    0x650A73548BAF63DE, 0x766A0ABB3C77B2A8, 0x81C2C92E47EDAEE6, 0x92722C851482353B] ++
  [0xA2BFE8A14CF10364, 0xA81A664BBC423001, 0xC24B8B70D0F89791, 0xC76C51A30654BE30,
    0xD192E819D6EF5218, 0xD69906245565A910, 0xF40E35855771202A, 0x106AA07032BBD1B8,
    0x19A4C116B8D2D0C8, 0x1E376C085141AB53, 0x2748774CDF8EEB99, 0x34B0BCB5E19B48A8,
    0x391C0CB3C5C95A63, 0x4ED8AA4AE3418ACB, 0x5B9CCA4F7763E373, 0x682E6FF3D6B2B8A3,
    0x748F82EE5DEFB2FC, 0x78A5636F43172F60, 0x84C87814A1F0AB72, 0x8CC702081A6439EC] ++
  [0x90BEFFFA23631E28, 0xA4506CEBDE82BDE9, 0xBEF9A3F7B2C67915, 0xC67178F2E372532B,
    0xCA273ECEEA26619C, 0xD186B8C721C0C207, 0xEADA7DD6CDE0EB1E, 0xF57D4F7FEE6ED178,
    0x06F067AA72176FBA, 0x0A637DC5A2C898A6, 0x113F9804BEF90DAE, 0x1B710B35131C471B,
    0x28DB77F523047D84, 0x32CAAB7B40C72493, 0x3C9EBE0A15C9BEBC, 0x431D67C49C100D4C,
    0x4CC5D4BECB3E42B6, 0x597F299CFC657E2A, 0x5FCB6FAB3AD6FAEC, 0x6C44198C4A475817]

/-- The initial digest: the first 64 bits of the fractional parts of the square roots of the ninth to the sixteenth prime. -/
def shaInit : List Word :=
  [0xCBBB9D5DC1059ED8, 0x629A292A367CD507, 0x9159015A3070DD17, 0x152FECD8F70E5939,
    0x67332667FFC00B31, 0x8EB44A8768581511, 0xDB0C2E0D64F98FA7, 0x47B5481DBEFA4FA4]

/-- A message whose bytes are `l`, from the first to the last, as a number. -/
def bigEndian (l : List Byte) : Nat := l.foldl (fun a b => 256 * a + b.toNat) 0

/-- The `n` bytes of a number, the highest first. -/
def bigBytes (v : Nat) : Nat → List Byte
  | 0 => []
  | n + 1 => bigBytes (v / 256) n ++ [BitVec.ofNat 8 v]

/-- A message with its padding: a bit 1, zeros up to the length of whole blocks, and the length in bits. -/
def shaPadded (l : List Byte) : List Byte :=
  l ++ 0x80#8 :: List.replicate ((239 - l.length % 128) % 128) 0#8 ++ bigBytes (8 * l.length) 16

/-- The next word of a schedule that holds its last 16 words, the latest first. -/
def shaNext (w : List Word) : Word :=
  let g (k : Nat) : Word := w.getD (k - 1) 0
  let mix (x : Word) (a b c : Nat) : Word := x.rotateRight a ^^^ x.rotateRight b ^^^ x >>> c
  g 16 + mix (g 15) 1 8 7 + g 7 + mix (g 2) 19 61 6

/-- The eight working variables after one round, with the constant and the word of the round. -/
def shaRound (v : List Word) (k w : Word) : List Word :=
  let g (i : Nat) : Word := v.getD i 0
  let turn (x : Word) (a b c : Nat) : Word := x.rotateRight a ^^^ x.rotateRight b ^^^ x.rotateRight c
  let t := g 7 + turn (g 4) 14 18 41 + ((g 4 &&& g 5) ^^^ (~~~(g 4) &&& g 6)) + k + w
  let u := turn (g 0) 28 34 39 + ((g 0 &&& g 1) ^^^ (g 0 &&& g 2) ^^^ (g 1 &&& g 2))
  [t + u, g 0, g 1, g 2, g 3 + t, g 4, g 5, g 6]

/-- The rounds of a block over the constants `k`; `w` holds the words still to come of the first 16, and `p` the last 16. -/
def shaRounds : List Word → List Word → List Word → List Word → List Word
  | [], _, _, v => v
  | k :: ks, w :: ws, p, v => shaRounds ks ws (w :: p) (shaRound v k w)
  | k :: ks, [], p, v => shaRounds ks [] (shaNext p :: p.take 15) (shaRound v k (shaNext p))

/-- One block of 128 bytes. -/
def shaBlock (h : List Word) (b : List Byte) : List Word :=
  let w := (List.range 16).map (fun i => BitVec.ofNat 64 (bigEndian ((b.drop (8 * i)).take 8)))
  List.zipWith (· + ·) h (shaRounds shaConst w [] h)

/-- The digest after `n` blocks of a padded message. -/
def shaBlocks : Nat → List Byte → List Word → List Word
  | 0, _, h => h
  | n + 1, l, h => shaBlocks n (l.drop 128) (shaBlock h (l.take 128))

/-- SHA-384 of a message, its first byte the lowest of the field that holds it (R324). -/
def sha384 (l : List Byte) : List Byte :=
  let p := shaPadded l
  ((shaBlocks (p.length / 128) p shaInit).take 6).flatMap (fun w => bigBytes w.toNat 8)

end Sys2Proof.Machine
end

