-- ==== Sys2Proof/Machine/Fleet.lean ====
section
/-!
DEFINITION. What the host, the fabric, the Cellarer and the operator do to the module (R44, R99, R211, R290, R291,
R311-R332), and the illegal-instruction exception of a word (R109, R110).
-/

namespace Sys2Proof.Machine

/-! ## Words that are no instruction (R109, R110) -/

/-- ILLEGAL_INSTRUCTION (R109): a word that the thread at hand has fetched and that fails a check of R110 traps; nothing
happens on a word that fails none. -/
def execIllegalInstruction (w : BitVec 32) (s : State) : Out :=
  match check w with
  | .error .undefined => .next (s.takeTrap (s.trapAt 0x01 0 (w.zeroExtend 64)))
  | .error .reserved => .next (s.takeTrap (s.trapAt 0x01 1 (w.zeroExtend 64)))
  | _ => perform w s (fun t => .done t)

/-! ## Contexts (R316, R317) -/

/-- Op 1, create context. -/
def State.createContext (s : State) (pa : Nat) : Nat × State :=
  let d := s.readPa pa 128
  let n := field d 20 2
  if pa % 128 ≠ 0 || n = 0 || (s.context n).isSome || field d 124 4 ≠ 0 then (2, s)
  else
    let c : Context := { num := n, descPa := pa, desc := BitVec.ofNat 1024 d, watchdog := none }
    (1, { s with contexts := s.contexts ++ [c] })

/-- The strands of a context. -/
def State.strandsOf (s : State) (ctx : Nat) : List Nat :=
  (s.strands.filter (fun m => m.status != .void && m.ctx == ctx)).map (·.uid)

/-- A strand of a destroyed context ends, a retired or discarded one with the operations that it left. -/
def State.removeStrand (s : State) (uid : Nat) : State :=
  match s.strand uid with
  | none => s
  | some m =>
    let s0 := if m.status == .retired || m.status == .discarded then s else s.discard uid
    let s1 := (s0.focus uid .a).drainAll.modStrand uid (fun t => { t with status := .void, aops := [], vops := [] })
    let s2 := if uid = s.me.uid then s1 else s1.focus s.me.uid s.thr
    { s2 with peers := s2.peers.filter (fun p => p.status != .void) }

/-- The end of a context: its strands, its commands and launches with state 4, its launch queues, its preloads and its
translations. -/
def State.destroy (s : State) (ctx : Nat) : State :=
  let s1 := (s.strandsOf ctx).foldl (fun t u => t.removeStrand u) s
  let s2 := (s1.cmds.filter (fun c => c.ctx == ctx)).foldl (fun t c => if t.kvWritable c then t.endCmd c 4 0 0 else t.endNow c 4 0 0) s1
  let s3 := (s2.launches.filter (fun l => l.ctx == ctx)).foldl (fun t l => t.completeToken l.token 4 0 0 0) s2
  { s3 with
    cmds := s3.cmds.filter (fun c => c.ctx != ctx)
    queues := s3.queues.filter (fun k => s3.queueFld k 76 2 != ctx)
    preloads := s3.preloads.filter (fun p => tokenCtx p.launch != ctx)
    tlb := s3.tlb.filter (fun e => e.ctx != ctx)
    contexts := s3.contexts.filter (fun c => c.num != ctx) }

/-- Op 2, destroy context. -/
def State.destroyContext (s : State) (ctx : Nat) : Nat × State :=
  if (s.context ctx).isNone then (2, s) else (1, s.destroy ctx)

/-! ## Launch queues (R257, R316) -/

/-- A number is a power of two up to 65,536. -/
def powerUpTo64K (n : Nat) : Bool := (List.range 17).any (fun k => n == 2 ^ k)

/-- Op 3, register launch queue. -/
def State.registerQueue (s : State) (q pa : Nat) : Nat × State :=
  if 1024 ≤ q || (s.launchQueue q).isSome || pa % 128 ≠ 0 || !powerUpTo64K (s.readPa (pa + 72) 4) ||
     s.readPa (pa + 64) 8 % 128 ≠ 0 || (s.context (s.readPa (pa + 76) 2)).isNone then (2, s)
  else
    let k : LaunchQueue :=
      { num := q, desc := pa, head := BitVec.ofNat 64 (s.readPa (pa + 80) 8),
        tail := BitVec.ofNat 64 (s.readPa (pa + 80) 8), awake := true, stopped := false }
    (1, { s with queues := s.queues ++ [k] })

/-- Op 4, unregister launch queue: records not yet taken are dropped. -/
def State.unregisterQueue (s : State) (q : Nat) : Nat × State :=
  if (s.launchQueue q).isNone then (2, s) else (1, { s with queues := s.queues.filter (fun k => k.num != q) })

/-! ## Invalidation (R131, R316, R317) -/

/-- A descriptor as read again: bytes 0 to 111 from memory, the rest as read at creation. -/
def Context.reread (c : Context) (s : State) : Context :=
  { c with desc := BitVec.ofNat 1024 (s.readPa c.descPa 112 + 2 ^ 896 * (c.desc.toNat / 2 ^ 896)) }

/-- Op 5, invalidate; `none` while an access through a matching translation is unperformed. -/
def State.invalidateOp (s : State) (va w : Word) : Option (Nat × State) :=
  let ctx := bits w.toNat 15 0
  if w.extractLsb' 18 46 != 0 || (!w.getLsbD 17 && (s.context ctx).isNone) then some (2, s)
  else if s.usesPage va w then none
  else
    let s1 := s.invalidate va w
    some (1, if w.getLsbD 16 then
        { s1 with contexts := s1.contexts.map (fun (c : Context) => if c.num = ctx then c.reread s1 else c) }
      else s1)

/-! ## The CXL.mem window (R311, R316) -/

/-- Op 6, map window: `n` bytes of HBM from offset `o` on appear in the window at offset `b` of BAR 2, in place of what stood there.
Neither the range nor the window goes past the 1,024 GB of HBM (R1, R311). -/
def State.mapWin (s : State) (o n b : Nat) : Nat × State :=
  let size := s.regions[0].2.1
  if o % 65536 ≠ 0 || n % 65536 ≠ 0 || b % 65536 ≠ 0 || n = 0 || size < o + n || size < b + n then (2, s)
  else (1, { s with platform := { s.platform with windows := (o, n, b) :: s.platform.windows } })

/-- The HBM offset that an offset of BAR 2 shows: of the last range that was mapped there. -/
def State.windowAt (s : State) (x : Nat) : Option Nat :=
  (s.platform.windows.find? (fun w => decide (w.2.2 ≤ x) && decide (x < w.2.2 + w.2.1))).map (fun w => w.1 + (x - w.2.2))

/-! ## Firmware (R323-R325) -/

/-- The bytes of an image. -/
def State.imageBytes (s : State) (pa n : Nat) : List Byte := (List.range n).map (fun i => s.byte (pa + i))

/-- The checks of the boot code that come before the signatures (R324, R325): the fields of the image, and D against the digest
that it recomputes of bytes 0 to 15 and the payload. -/
def State.imageFields (s : State) (pa n : Nat) : Bool :=
  s.readPa pa 4 == 0x51444E47 && s.readPa (pa + 448) 64 == 0 && s.readPa (pa + 16736) 160 == 0 &&
  s.readPa (pa + 8) 8 == n - 16896 &&
  s.imageBytes (pa + 16) 48 == sha384 (s.imageBytes pa 16 ++ s.imageBytes (pa + 16896) (n - 16896))

/-- The verification of an image: its fields and D, then both signatures of D (R325). -/
def State.imageSound (s : State) (pa n : Nat) : Bool :=
  s.imageFields pa n &&
  Config.signaturesVerify (s.imageBytes (pa + 16) 48) (s.imageBytes (pa + 64) 384) (s.imageBytes (pa + 512) 16224)

/-- Op 7, load firmware. -/
def State.loadImage (s : State) (pa n : Nat) : Nat × State :=
  if !s.contexts.isEmpty then (3, s)
  else if n < 16896 then (2, s)
  else if s.imageSound pa n then
    (1, { s with firmware := { s.firmware with
      loaded := true, lastFailed := false, version := BitVec.ofNat 32 (s.readPa (pa + 4) 4),
      digest := BitVec.ofNat 384 (s.readPa (pa + 16) 48) } })
  else (4, { s with firmware := { Firmware.reset with lastFailed := true } })

/-! ## Dispositions of faulted strands (R38, R291) -/

/-- A faulted strand is restarted: its image is discarded, and it is unborn with the state of R65, keeping its save area; what its
threads have issued is still performed. -/
def State.restart (s : State) (uid : Nat) : State :=
  match s.strand uid with
  | none => s
  | some m =>
    match s.launch m.launch with
    | none => s
    | some l =>
      let fresh := freshStrand l.record.toNat m.launch m.ctx uid m.die m.eidx m.jidx
      let s1 := (s.focus uid .a).drainAll
      let s2 := if uid = s.me.uid then s1 else s1.focus s.me.uid s.thr
      let v := s2.vuOf m.slotNo
      let s3 := (if v.owner = some uid then s2.setVuOf m.slotNo { v with owner := none, flight := [] } else s2).freeTiles uid
      let s4 := s3.modStrand uid (fun t =>
        { fresh with save := m.save, aops := t.leaves.aops, vops := t.leaves.vops, anext := t.anext, vnext := t.vnext, vins := t.vins })
      { s4 with padPoison := s4.padPoison.filter (fun e => e.1 != uid) }

/-- The disposition of a faulted strand: 1 discard, 2 restart. -/
def State.dispose (s : State) (uid d : Nat) : State :=
  if d = 2 then s.restart uid
  else
    match s.strand uid with
    | none => s
    | some m =>
      let s1 := { s with launches := s.launches.map (fun (l : Launch) => if l.token = m.launch then { l with lost := true } else l) }
      s1.discard uid

/-- The faulted strand of a context in a slot. -/
def State.faultedIn (s : State) (ctx die core slot : Nat) : Option Strand :=
  s.strands.find? (fun m => m.status == .faulted && m.ctx == ctx && m.die == die && m.core == core && m.slot == slot)

/-- Op 8, strand disposition. -/
def State.disposition (s : State) (ctx die core slot d : Nat) : Nat × State :=
  if (s.context ctx).isNone || (d ≠ 1 && d ≠ 2) then (2, s)
  else
    match s.faultedIn ctx die core slot with
    | none => (2, s)
    | some m => (1, s.dispose m.uid d)

/-- FIRMWARE_DISPOSITION (R291): firmware answers the report of a faulted strand whose context sends it its faults. -/
def execFirmwareDisposition (u d : Nat) (s : State) : Out :=
  match s.strand u with
  | none => .next s
  | some m =>
    .next (if m.status == .faulted && s.firmware.loaded && s.ctxFld m.ctx 22 2 % 2 == 1 && (d == 1 || d == 2) then s.dispose u d else s)

/-! ## The command ring (R315, R316) -/

/-- A command other than load firmware is performed only while the module holds firmware (R325). -/
def State.served (s t : State) : Out := .next (if s.firmware.loaded then t else s)

/-- CREATE_CONTEXT (R316): op 1. -/
def execCreateContext (pa : Nat) (s : State) : Out := s.served (s.createContext pa).2

/-- DESTROY_CONTEXT (R316): op 2. -/
def execDestroyContext (ctx : Nat) (s : State) : Out := s.served (s.destroyContext ctx).2

/-- REGISTER_LAUNCH_QUEUE (R316): op 3. -/
def execRegisterLaunchQueue (q pa : Nat) (s : State) : Out := s.served (s.registerQueue q pa).2

/-- UNREGISTER_LAUNCH_QUEUE (R316): op 4. -/
def execUnregisterLaunchQueue (q : Nat) (s : State) : Out := s.served (s.unregisterQueue q).2

/-- INVALIDATE (R316): op 5; nothing happens while it waits. -/
def execInvalidate (va w : BitVec 64) (s : State) : Out := s.served (((s.invalidateOp va w).map (·.2)).getD s)

/-- MAP_WINDOW (R316): op 6. -/
def execMapWindow (o n b : Nat) (s : State) : Out := s.served (s.mapWin o n b).2

/-- LOAD_FIRMWARE (R325): op 7. -/
def execLoadFirmware (pa n : Nat) (s : State) : Out := .next (s.loadImage pa n).2

/-- STRAND_DISPOSITION (R316): op 8. -/
def execStrandDisposition (ctx die core slot d : Nat) (s : State) : Out := s.served (s.disposition ctx die core slot d).2

/-- The bytes of args that a command uses: offset and length (R316). -/
def commandArgs (op : Nat) : List (Nat × Nat) :=
  match op with
  | 1 => [(0, 8)]
  | 2 => [(0, 2)]
  | 3 => [(0, 2), (8, 8)]
  | 4 => [(0, 2)]
  | 5 => [(0, 16)]
  | 6 => [(0, 24)]
  | 7 => [(0, 16)]
  | _ => [(0, 6)]

/-- Every unused byte of a command record is zero. -/
def commandZeros (r op : Nat) : Bool :=
  field r 4 4 == 0 && (List.range 56).all (fun i =>
    (commandArgs op).any (fun u => decide (u.1 ≤ i) && decide (i < u.1 + u.2)) || field r (8 + i) 1 == 0)

/-- Performs a command record: its status and the state it leaves, or none while it waits (R316). Without firmware only
load firmware is performed (R325); the status of another command is then a free value (log entry 45). -/
def State.command (s : State) (r : Nat) : Option (Nat × State) :=
  let op := field r 0 2
  let a (o n : Nat) : Nat := field r (8 + o) n
  if op = 0 || 8 < op || !commandZeros r op then some (2, s)
  else if op ≠ 7 && !s.firmware.loaded then some (s.drawFree.1.toNat % 65536, s.drawFree.2)
  else
    match op with
    | 1 => some (s.createContext (a 0 8))
    | 2 => some (s.destroyContext (a 0 2))
    | 3 => some (s.registerQueue (a 0 2) (a 8 8))
    | 4 => some (s.unregisterQueue (a 0 2))
    | 5 => s.invalidateOp (BitVec.ofNat 64 (a 0 8)) (BitVec.ofNat 64 (a 8 8))
    | 6 => some (s.mapWin (a 0 8) (a 8 8) (a 16 8))
    | 7 => some (s.loadImage (a 0 8) (a 8 8))
    | _ => some (s.disposition (a 0 2) (a 2 1) (a 3 1) (a 4 1) (a 5 1))

/-- CELLARER_WAKE (R315): the Cellarer performs the next command of its ring, then writes its status and the head. -/
def execCellarerWake (s : State) : Out :=
  let d := s.cmdring.toNat
  let cap := s.readPa (d + 72) 4
  if d = 0 || cap = 0 || s.readPa d 8 = s.cmdHead.toNat then .next s
  else
    let pa := s.readPa (d + 64) 8 + 64 * (s.cmdHead.toNat % cap)
    match s.command (s.readPa pa 64) with
    | none => .next s
    | some (st, s1) =>
      let s2 := (s1.hwStore (pa + 2) 2 st).hwStore (d + 80) 8 (s1.cmdHead.toNat + 1)
      .next { s2 with cmdHead := s2.cmdHead + 1 }

/-! ## The module control block (R318) -/

/-- The 8-byte word `k` of the module control block. -/
def State.mcbWord (s : State) (k : Nat) : Nat :=
  match k with
  | 0 => s.cmdring.toNat
  | 1 => s.fct.toNat
  | 2 => s.holdoff.toNat
  | _ =>
    let r := s.regions.toList.getD ((k - 8) / 3) (0, 0, 0)
    if k < 8 || 56 ≤ k then 0 else match (k - 8) % 3 with | 0 => r.1 | 1 => r.2.1 | _ => r.2.2

/-- Writes a word of the module control block; the regions of tiers 0 to 2 belong to hardware. A new command ring starts at
the head that its descriptor holds. -/
def State.mcbPut (s : State) (k v : Nat) : State :=
  match k with
  | 0 => { s with cmdring := BitVec.ofNat 64 v, cmdHead := BitVec.ofNat 64 (s.readPa (v + 80) 8) }
  | 1 => { s with fct := BitVec.ofNat 64 v }
  | 2 => { s with holdoff := BitVec.ofNat 32 v }
  | _ =>
    let j := (k - 8) / 3
    let r := s.regions.toList.getD j (0, 0, 0)
    let new : Nat × Nat × Nat := match (k - 8) % 3 with
      | 0 => (v, r.2.1, r.2.2)
      | 1 => (r.1, v, r.2.2)
      | _ => (r.1, r.2.1, v)
    if k < 17 || 56 ≤ k then s else { s with regions := s.regions.setIfInBounds j new }

/-- MODULE_CONTROL_WRITE (R318): a write of `n` bytes at offset `o`, within one 8-byte word. -/
def execModuleControlWrite (o n : Nat) (v : BitVec 64) (s : State) : Out :=
  let i := o % 8
  if n = 0 || 8 < i + n then .next s
  else
    let old := s.mcbWord (o / 8)
    .next (s.mcbPut (o / 8) (old - field old i n * 2 ^ (8 * i) + v.toNat % 2 ^ (8 * n) * 2 ^ (8 * i)))

/-! ## Reset (R327) -/

/-- What a cold reset leaves of memory: host memory, other modules and flash are no state that it clears (log entry 46). -/
def State.afterColdMem (s : State) : List Host.Cell :=
  s.mem.filter (fun c => s.remote c.1 || decide (s.tierOf c.1 = 3) || decide (s.tierOf c.1 = 1))

/-- The state after a cold reset, with `gts` as module 0 of the domain gives it. -/
def State.cold (s : State) (g : Word) : State :=
  { State.reset with
    gts := g
    mem := s.afterColdMem
    erases := s.erases
    flash := s.flash
    spares := s.spares
    counters := (Vector.replicate 9 0).set 7 (s.spares.toList.foldl Nat.min 2048)
    platform := { Platform.reset with
      moduleNo := s.platform.moduleNo, partNo := s.platform.partNo, stepping := s.platform.stepping,
      domainSize := s.platform.domainSize, flashUsed := s.platform.flashUsed, flashGone := s.platform.flashGone }
    reports := s.reports
    free := s.free
    inputs := s.inputs }

/-- COLD_RESET (R327): it clears all state, firmware included. -/
def execColdReset (g : BitVec 64) (s : State) : Out := .next (s.cold g)

/-- FUNCTION_LEVEL_RESET (R327): every context is destroyed and every registered ring dropped; firmware and `gts` stay. -/
def execFunctionLevelReset (s : State) : Out :=
  let s1 := (s.contexts.map (·.num)).foldl (fun t c => t.destroy c) s
  .next { s1 with queues := [], cmdring := 0, cmdHead := 0 }

/-! ## Power, heat and sensors (R328-R330) -/

/-- POWER_CLAMP (R329): `p` is the input power averaged over 1 ms, in W. -/
def execPowerClamp (p : Nat) (s : State) : Out :=
  .next { s with platform := { s.platform with
    clamped := if 3000 < p then true else if p < 2800 then false else s.platform.clamped } }

/-- Adds to the milliseconds spent below 2,500 MHz (R331). -/
def State.addThrottle (s : State) (ms : Nat) : State :=
  { s with counters := s.counters.setIfInBounds 6 (Nat.min (s.counters.toList.getD 6 0 + ms) (2 ^ 64 - 1)) }

/-- The zone of a sensor's value: 0 normal, 1 past its warning value, 2 past its critical value, and 3 and 4 the same on the low side of
the input voltage. Sensor 4 counts tenths of a litre. -/
def sensorZone (id v : Nat) : Nat :=
  let above (w c : Nat) : Nat := if c < v then 2 else if w < v then 1 else 0
  if id = 1 then above 2800 3000
  else if id = 2 then (if v < 48 then 4 else if v < 50 then 3 else above 58 60)
  else if id = 3 then above 40 45
  else if id = 4 then (if v < 30 then 2 else if v < 40 then 1 else 0)
  else if 5 ≤ id && id ≤ 8 then above 100 110
  else if id = 9 then above 95 105
  else if 10 ≤ id && id ≤ 17 then above 90 100
  else if 18 ≤ id && id ≤ 21 then above 75 85
  else 0

/-- Some sensor of a list stands in a zone from `z` on; one that no event has set stands in its normal zone (log entry 12). -/
def State.sensorsReach (s : State) (ids : List Nat) (z : Nat) : Bool :=
  ids.any (fun id => ((assoc s.platform.sensors id).map (fun v => decide (z ≤ sensorZone id v))).getD false)

/-- THERMAL_THROTTLE (R329): one period of 10 ms, after which the clock falls while a die sensor is past its critical value, and rises
once every sensor is below its warning value. `hot` says whether one is past
its critical value; an event that the sensors do not bear out is no period (log entry 108). -/
def execThermalThrottle (hot : Bool) (s : State) : Out :=
  let c := s.platform.clock
  let s1 := if c < 2500 then s.addThrottle 10 else s
  let warm := s.sensorsReach (span 1 22) 1
  if s.sensorsReach [5, 6, 7, 8, 9] 2 != hot then .next s
  else .next { s1 with platform := { s1.platform with
    hot := hot, clock := if hot then Nat.max 1250 (c - 100) else if warm then c else Nat.min 2500 (c + 100) } }

/-- THERMAL_SHUTDOWN (R329): every strand takes a machine check and the module stops. -/
def execThermalShutdown (die : Nat) (s : State) : Out :=
  if 4 < die then .next s
  else
    let us := (s.strands.filter (fun m => m.status != .void && m.status != .retired && m.status != .discarded)).map (·.uid)
    let s1 := us.foldl (fun t u => t.makeFaulted u 0x13 0) s
    .next { s1 with stopped := true }

/-- SENSOR_EVENT (R330): a sensor reads a new value; an event is raised when it crosses a threshold in either direction. -/
def execSensorEvent (id v : Nat) (s : State) : Out :=
  if id = 0 || 21 < id then .next s
  else
    let old := ((assoc s.platform.sensors id).map (sensorZone id)).getD 0
    let s1 := { s with platform := { s.platform with sensors := assocSet s.platform.sensors id v } }
    .next (if old ≠ sensorZone id v then s1.report (.pldmEvent id) else s1)

/-- The policy that firmware has set, as the bytes that are measured (R323, R326). -/
def State.policyBytes (s : State) : List Byte :=
  Config.policyForm
    [s.firmware.policy.extractLsb' 0 64, BitVec.ofNat 64 s.firmware.fabricTimeout, s.firmware.migration,
     BitVec.ofNat 64 s.firmware.replicaRetry]
    (s.contexts.filterMap (fun c => c.watchdog.map (fun w => (c.num, w))))

/-- Measurement `m` (R326): 1 is D of the running image, 2 the SHA-384 of the policy. -/
def State.measurement (s : State) (m : Nat) : List Byte :=
  if m = 1 then (List.range 48).map (fun i => s.firmware.digest.extractLsb' (8 * i) 8) else sha384 s.policyBytes

/-- SPDM_REQUEST (R326): a measurement, signed with the identity key, or, for 0, the certificate chain of that key. -/
def execSpdmRequest (m : Nat) (s : State) : Out :=
  if m = 0 then .next (s.report (.certificates Config.identityChain))
  else if 2 < m || (m = 1 && !s.firmware.loaded) then .next s
  else
    let d := s.measurement m
    .next (s.report (.spdm m (BitVec.ofNat 384 (packList 1 (d.map (·.toNat)))) (Config.identitySign d)))

/-- PLDM_REQUEST (R326, R330): the reading of sensor `id` (type 2), one that no event has set being a free value, or, with `id` 0, what
identifies the module (type 4). -/
def execPldmRequest (id : Nat) (s : State) : Out :=
  if id = 0 then .next (s.report (.inventory s.platform.partNo s.platform.stepping s.firmware.version))
  else if 22 < id then .next s
  else if id = 22 then .next (s.report (.pldm 22 s.platform.clock))
  else
    match assoc s.platform.sensors id with
    | some v => .next (s.report (.pldm id v))
    | none => .next (s.drawFree.2.report (.pldm id s.drawFree.1.toNat))

/-! ## Flash (R211, R319, R332) -/

/-- The 64 KiB pages that the flash controller keeps in a block (R211). -/
def State.pagesIn (s : State) (b : Nat × Nat) : List Nat := (s.flash.filter (fun e => e.2 == b)).map (·.1)

/-- What becomes of a block whose counter has reached 9,500 (R332): it is retired, and a spare takes its place with a count of its own;
with no spare left, the place leaves the pool. -/
def State.retireBlock (s : State) (b : Nat × Nat) : State :=
  let n := s.spares.toList.getD b.1 0
  if n = 0 then { s with platform := { s.platform with flashGone := b :: s.platform.flashGone } }
  else
    let spares := s.spares.setIfInBounds b.1 (n - 1)
    { s with
      erases := s.erases.filter (fun e => !(e.1 == b.1 && e.2.1 == b.2))
      spares := spares
      counters := s.counters.setIfInBounds 7 (spares.toList.foldl Nat.min 2048) }

/-- FLASH_ERASE (R211, R332): an erase of block `k` of a stack completes, the pages that it still held having moved to other blocks; at
9,500 erases the block is retired. A place that has left the pool is erased no more. -/
def execFlashErase (stack k : Nat) (s : State) : Out :=
  let b := (stack, k)
  if 4 ≤ stack || 262144 ≤ k || s.platform.flashGone.contains b then .next s
  else
    let n := Nat.min (s.eraseCount b + 1) (2 ^ 32 - 1)
    let t := (s.pagesIn b).foldl (fun t p => t.flashWrite (65536 * p)) s
    let u := { t with
      erases := (stack, k, n) :: s.erases.filter (fun e => !(e.1 == stack && e.2.1 == k))
      platform := { t.platform with flashUsed := t.platform.flashUsed.filter (fun e => e.1 != blockNo b) } }
    .next (if 9500 ≤ n then u.retireBlock b else u)

/-! ## Policy (R264, R290, R321, R323) -/

/-- Replaces `n` bytes of a number at a byte offset. -/
def putField (r o n v : Nat) : Nat := r - field r o n * 2 ^ (8 * o) + v % 2 ^ (8 * n) * 2 ^ (8 * o)

/-- Changes the class or the budget of a launch: in its record and in its strands (R264). -/
def State.setPolicy (s : State) (t : Word) (o n v : Nat) (f : Strand → Strand) : State :=
  let g (m : Strand) : Strand := if m.launch = t then f m else m
  { s with
    launches := s.launches.map (fun (l : Launch) =>
      if l.token = t then { l with record := BitVec.ofNat 1024 (putField l.record.toNat o n v) } else l)
    me := g s.me, peers := s.peers.map g }

/-- The launch of a token has overrun: its context has. -/
def State.overran (s : State) (t : Word) : Bool := decide (0 < (assoc s.overruns (tokenCtx t)).getD 0)

/-- FIRMWARE_POLICY_CHANGE (R323): `kind` 0 sets the watchdog limit of context `a` in microseconds, 0 for off (R290); 1 the fabric
timeout in microseconds (R321); 2 the class and 3 the budget of the overrunning launch `a` (R264); 4 firmware's own words of
the policy that measurement 2 digests (R326); 5 the migration policy; 6 how often a replica is read (R288); 7 the address of the
shadow image of a save area, context `a mod 65536` and area `a / 65536` (R282). -/
def execFirmwarePolicyChange (kind a v : Nat) (s : State) : Out :=
  if !s.firmware.loaded then .next s
  else
    match kind with
    | 0 =>
      if 2 ^ 32 < v then .next s
      else .next { s with contexts := s.contexts.map (fun (c : Context) =>
        if c.num = a then { c with watchdog := if v = 0 then none else some v } else c) }
    | 1 => .next { s with firmware := { s.firmware with fabricTimeout := v } }
    | 2 =>
      .next (if v < 8 && s.overran (BitVec.ofNat 64 a) then s.setPolicy (BitVec.ofNat 64 a) 56 1 v (fun m => { m with cls := v }) else s)
    | 3 =>
      .next (if 1 ≤ v && v < 2 ^ 20 && s.overran (BitVec.ofNat 64 a) then
        s.setPolicy (BitVec.ofNat 64 a) 52 4 v (fun m => { m with budget0 := v }) else s)
    | 4 => .next { s with firmware := { s.firmware with policy := BitVec.ofNat 384 v } }
    | 5 => .next { s with firmware := { s.firmware with migration := BitVec.ofNat 64 v } }
    | 6 => .next { s with firmware := { s.firmware with replicaRetry := v } }
    | 7 =>
      let ctx := a % 65536
      let at' := BitVec.ofNat 64 (s.ctxFld ctx 24 8 + 11534336 * (a / 65536) + 0xFF8)
      .next (if a / 65536 < s.ctxFld ctx 32 4 && v % 65536 = 0 && !s.vaMoving ctx at' 8 then s.writeVa ctx at' 8 v else s)
    | _ => .next s

/-! ## Links (R311, R314, R320) -/

/-- FABRIC_LINK_CHANGE (R314): the fabric-up bit of capability 0x0003. -/
def execFabricLinkChange (up : Bool) (s : State) : Out := .next { s with platform := { s.platform with fabricUp := up } }

/-- HOST_LINK_TRAINING (R311): the link trains to a width and a rate that it supports. -/
def execHostLinkTraining (width speed : Nat) (s : State) : Out :=
  if [16, 8, 4].contains width && [128, 64, 32].contains speed then
    .next { s with platform := { s.platform with linkWidth := width, linkSpeed := speed } }
  else .next s

/-! ## Accesses from outside (R99, R300, R311, R320) -/

/-! ### The BARs (R311, R312, R319, R331) -/

/-- What the register block of a capability holds (R314): of the identity, part number, stepping and firmware version; of the fabric,
module number and domain size. -/
def State.blockWords (s : State) (k : Nat) : List Word :=
  match k with
  | 0 => [s.platform.partNo, s.platform.stepping, s.firmware.version.zeroExtend 64]
  | 2 => [BitVec.ofNat 64 s.platform.moduleNo, BitVec.ofNat 64 s.platform.domainSize]
  | _ => []

/-- The capability whose register block holds an offset of BAR 0, and the offset in the block. -/
def barBlock (o : Nat) : Option (Nat × Nat) :=
  (List.range 5).findSome? (fun k =>
    let b := (Config.capBody0 k).toNat
    if b ≠ 0 && decide (b ≤ o) && decide (o < b + 64 * (Config.capLength k).toNat) then some (k, o - b) else none)

/-- A byte of BAR 0: the capability list, then the register blocks, the module control block's by R318 and the others' in an unstated
layout (log entry 44). -/
def State.bar0Byte (s : State) (o : Nat) : Byte :=
  if o < 80 then s.capByte o
  else
    match barBlock o with
    | some (1, i) => BitVec.ofNat 8 (s.mcbWord (i / 8) / 2 ^ (8 * (i % 8)))
    | some (k, i) => Config.blockByte k (s.blockWords k) i
    | none => Config.blockByte 5 [] o

/-- The management window as words: a word's value, its length and the offset in it, for an offset of BAR 4 (R292, R319, R331);
what is in no table reads as zero (R4). -/
def State.bar4Word (s : State) (o : Nat) : Nat × Nat :=
  if o < 0x400000 then (s.eraseCount (o / 2 ^ 20, o % 2 ^ 20 / 4), o % 4)
  else if o < 0x400048 then (s.counters.toList.getD ((o - 0x400000) / 8) 0, o % 8)
  else if 0x401000 ≤ o && o < 0x403000 then (((assoc s.plog ((o - 0x401000) / 32)).map (·.toNat)).getD 0, o % 32)
  else if 0x500000 ≤ o && o < 0x580000 then ((assoc s.overruns ((o - 0x500000) / 8)).getD 0, o % 8)
  else if 0x5F0000 ≤ o && o < 0x5F0200 then ((assoc s.rings ((o - 0x5F0000) / 8)).getD 0, o % 8)
  else if 0x800000 ≤ o && o < 0xC00000 then
    let c := (o - 0x800000) / 65536
    let k := o % 65536 / 64
    (((s.ringEntries.find? (fun e => e.1 == c && e.2.1 == k)).map (fun e => e.2.2.toNat)).getD 0, o % 64)
  else (0, 0)

/-- A byte of BAR 4. -/
def State.bar4Byte (s : State) (o : Nat) : Byte := BitVec.ofNat 8 ((s.bar4Word o).1 / 2 ^ (8 * (s.bar4Word o).2))

/-- Counts an access of a requester outside the module. The home sees no virtual address and no source number of the
module's: the page and the source of a migration request are free values (R301; log entry 47). -/
def State.countOutside (s : State) (pa : Nat) (host : Bool) : State :=
  if (s.counterRec pa).isNone then s
  else
    let f := s.drawFree
    let g := f.2.drawFree
    g.2.countAccess pa f.1 (if host then Requester.host.number else g.1.toNat % 65536) host

/-- An access from outside at its home, in one transition (R99): a write of `n` bytes, or a read, whose value and poison are
reported. -/
def State.outside (s : State) (w : Bool) (pa n v : Nat) : State :=
  if w then s.performWrite (.mem pa) none n v
  else s.report (.readValue pa n (s.readHome (.mem pa) n) (s.poisonedAt (.mem pa) n))

/-- The bytes of an access from outside lie in one line of 64. -/
def inLine (pa n : Nat) : Bool := n != 0 && decide (pa % 64 + n ≤ 64)

/-- HOST_ACCESS (R99, R311): a read, or with `w` a write, of `n` bytes in one line of 64: of host memory, whose accesses do not come
over the link, of the registers in BAR 0, of the HBM that BAR 2 shows, or of the management window in BAR 4, which is
read-only. Bits 51:0 of `pa` are the address in host memory or the offset in the BAR, and the bits above say which of the four, from 0
(log entry 108). A write of BAR 0 reaches the module control block alone. -/
def execHostAccess (w : Bool) (pa n : Nat) (v : BitVec 512) (s : State) : Out :=
  let o := pa % 2 ^ 52
  if !inLine o n then .next s
  else
    match pa / 2 ^ 52 with
    | 0 => if s.tierOf o = 3 && !s.remote o then .next (s.outside w o n v.toNat) else .next s
    | 1 =>
      if !w then .next (s.report (.barValue 0 o n (readLE s.bar0Byte o n)))
      else
        match barBlock o with
        | some (1, i) => execModuleControlWrite i n (v.setWidth 64) s
        | _ => .next s
    | 2 =>
      match s.windowAt o with
      | some h => .next ((s.countOutside (s.regions[0].1 + h) true).outside w (s.regions[0].1 + h) n v.toNat)
      | none => .next s
    | 3 => .next (if w then s else s.report (.barValue 4 o n (readLE s.bar4Byte o n)))
    | _ => .next s

/-- An AMO of another module at its home: function `fn`, on 4 or 8 bytes, whose old value is reported (R117, R320). -/
def State.outsideAmo (s : State) (fn pa n v cmp : Nat) : State :=
  let old := s.readHome (.mem pa) n
  let new := amoValue fn n old (v % 2 ^ (8 * n)) (cmp % 2 ^ (8 * n))
  let r := Report.readValue pa n old (s.poisonedAt (.mem pa) n)
  if s.poisonedAt (.mem pa) n || !amoWrites fn old new then s.report r else (s.performWrite (.mem pa) none n new).report r

/-- REMOTE_ACCESS (R320): an access of module `m` over the fabric, performed at the module that the address names; this
module is the home of its own tier 0, and what others do to theirs is seen there. `op` 0 is a read, 1 a write, and `2 + fn` the AMO of
function `fn` (R117), with its operand in bits 63:0 of `v` and the value that `amo.cas` expects in bits 127:64. -/
def execRemoteAccess (op : BitVec 4) (m pa n : Nat) (v : BitVec 512) (s : State) : Out :=
  if !inLine pa n || !s.platform.fabricUp || m = s.platform.moduleNo || bits pa 51 51 = 0 then .next s
  else
    let t := if s.remote pa then s else s.countOutside pa false
    if op.toNat < 2 then .next (t.outside (op == 1#4) pa n v.toNat)
    else if 12 ≤ op.toNat || (n ≠ 4 && n ≠ 8) || pa % n ≠ 0 then .next s
    else .next (t.outsideAmo (op.toNat - 2) pa n (bits v.toNat 63 0) (bits v.toNat 127 64))

/-! ## Page faults that the S-mode runtime forwards (R301) -/

/-- The page fault that a thread of a strand handles in S mode is forwarded to its context's fault handler: a record of kind 0 with the
faulting page and the strand's source number. The spec names no instruction of the runtime for it; an input says when it does
(log entry 106). -/
def State.forward (s : State) (uid : Nat) (t : Tid) : State :=
  match s.strand uid with
  | none => s
  | some m =>
    let c := (m.thread t).tcause.toNat
    if (m.thread t).priv == .s && m.resident && (bits c 7 0 == 4 || bits c 7 0 == 5) then
      s.migRequest m.ctx (m.thread t).tval m.source 0
    else s

/-! ## The fabric timeout (R321) -/

/-- The ranges that the units of a command access, as far as its block, the indices that it holds and its pages tell. -/
def Cmd.ranges (c : Cmd) : List (Word × Nat) :=
  let at' (o n : Nat) : Word × Nat := (BitVec.ofNat 64 (c.fld o 8), n)
  let idx (lo hi n : Nat) : List (Word × Nat) :=
    (c.held.filter (fun h => decide (lo ≤ h.1) && decide (h.1 < hi))).map (fun h => (c.tableVa (numOf h.2) n, n))
  if c.kind = 9 || c.isTier then c.table.map (fun p => (p, 65536))
  else if c.kind ≤ 2 then (Copy.of c.block.toNat).srcs ++ c.dests
  else if c.kind = 3 then (if c.flags.getLsbD 0 then [] else [at' 8 (c.fld 29 1 * c.count)]) ++ idx c.count (2 * c.count) (c.fld 28 1) ++ c.dests
  else if c.kind = 4 then
    (if c.flags.getLsbD 0 then [] else [at' 8 (c.fld 29 1 * c.count)]) ++ (if c.flags.getLsbD 1 then [] else [at' 16 (c.sumBytes * c.count)]) ++
      idx 0 c.count c.sumBytes
  else [at' 0 (c.sumBytes * c.count), at' 16 (8 + 4 * c.members)] ++ c.dests

/-- A command accesses another module: a page it has accessed, or one that a unit of it accesses, is there (R321). -/
def State.cmdAway (s : State) (c : Cmd) : Bool :=
  let far (va : Word) : Bool := !inWindow va && (match s.rawPa c.ctx va with | some pa => s.remote pa | none => false)
  c.ranges.any (fun r => far r.1 || (List.range (r.2 / 65536 + 1)).any (fun k =>
    let p := r.1.toNat / 65536 * 65536 + 65536 * (k + 1)
    decide (p < r.1.toNat + r.2) && far (BitVec.ofNat 64 p))) ||
  c.pages.any (fun p => far (BitVec.ofNat 64 (65536 * p)))

/-- An undelivered store is a machine check of its strand. -/
def State.undelivered (s : State) (va : Word) : State := s.onesAppends.makeFaulted s.me.uid 0x13 va

/-- FABRIC_TIMEOUT (R321): a remote access is not answered: operation `k / 3` of the A-thread (`k mod 3` = 0) or of the V pipe
(1) of the strand at hand, or the next unit of the command at place `k / 3` (2). The thread has issued nothing past a load that may
fail so (log entry 96). -/
def execFabricTimeout (k : Nat) (s : State) : Out :=
  let s1 := s.bumpCounter 5
  match k % 3 with
  | 0 =>
    match s.me.aops.find? (fun o => o.id == k / 3) with
    | none => .next s
    | some o =>
      if !o.own || !s.away (s.placeNow s.me.ctx o.place) then .next s
      else if o.stores then .next ((s1.dropA o.id).undelivered o.va)
      else .next (if s.me.passedA o then s else s1.lateTrap o 0x09)
  | 1 =>
    match s.me.vops.find? (fun o => o.id == k / 3) with
    | none => .next s
    | some o =>
      if !(o.place :: o.far.toList).any (fun p => s.away (s.vSample o p).1) then .next s
      else
        match o.kind with
        | .store _ _ => .next ((s1.dropV o).undelivered o.va)
        | .commit _ _ _ _ _ => .next ((s1.dropV o).undelivered o.va)
        | _ => .next (if s.me.passedV o then s else s1.lateV o 0x09)
  | _ =>
    match s.cmds[k / 3]? with
    | none => .next s
    | some c => .next (if c.started && c.open && s.cmdAway c then s1.endCmd c 2 0x09 0 else s)

end Sys2Proof.Machine
end

