-- ==== Sys2Proof/Machine/Tiles.lean ====
section
/-!
DEFINITION. Tiles: outer products, moves and tile control (R79, R80, R169-R176).
-/

namespace Sys2Proof.Machine

/-! ## The tile (R53) -/

/-- Cell (r, c). -/
def Tile.cell (t : Tile) (r c : Nat) : Nat := t.cells.toNat / 2 ^ (32 * (128 * r + c)) % 2 ^ 32

/-- Writes a cell, with the dirty bit. -/
def Tile.setCell (t : Tile) (r c v : Nat) : Tile :=
  let n := t.cells.toNat
  let p := 32 * (128 * r + c)
  { t with cells := BitVec.ofNat 524288 (n - n / 2 ^ p % 2 ^ 32 * 2 ^ p + v % 2 ^ 32 * 2 ^ p), header := t.header ||| 0x1000#32 }

/-- Fields of the header. -/
def Tile.fmt (t : Tile) : Nat := bits t.header.toNat 11 8
def Tile.sexp (t : Tile) : Int := (t.header.extractLsb' 0 8).toInt

/-- Writes fmt and `sexp`, with the dirty bit. -/
def Tile.label (t : Tile) (fmt sexp : Nat) : Tile := { t with header := BitVec.ofNat 32 (0x1000 + fmt % 16 * 256 + sexp % 256) }

/-- Packs cells, each of 32 bits, by halves. -/
def packCells : Nat → List Nat → Nat
  | 0, l => l.headD 0
  | k + 1, l => packCells k (l.take (2 ^ k)) + 2 ^ (32 * 2 ^ k) * packCells k (l.drop (2 ^ k))

/-! ## Rescale (R80) -/

/-- The flags of a tile word: those of `fcsr` bits 3-7, and `tovf`. -/
structure TFlags where
  ff : FF
  tovf : Bool
deriving DecidableEq, Repr

/-- One cell multiplied by `2^d`; under `fz` a subnormal cell is a zero of its sign before that (R78). -/
def rescaleCell (fz : Bool) (d : Int) (x : Nat) : Nat × TFlags :=
  match Fmt.f32.input fz x with
  | .fin neg m e st =>
    if m = 0 then (Fmt.f32.signed neg 0, ⟨0, false⟩)
    else
      let r := Fmt.f32.round fz 0 (.fin neg m (e + d) st)
      if r.2.getLsbD 0 then (Fmt.f32.signed neg 0x7F7FFFFF, ⟨0, true⟩) else (r.1, ⟨r.2, false⟩)
  | _ => (x, ⟨0, false⟩)

/-- Rescales every cell of a tile to `t`, then `sexp := t`. -/
def Tile.rescale (a : Tile) (fz : Bool) (t : BitVec 8) : Tile × TFlags :=
  let d := t.toInt - a.sexp
  let rs : List (Nat × TFlags) := (List.range 16384).map (fun k => rescaleCell fz d (a.cell (k / 128) (k % 128)))
  let b := ({ a with cells := BitVec.ofNat 524288 (packCells 14 (rs.map Prod.fst)) }).label a.fmt t.toNat
  (b, ⟨(rs.map (fun r => r.2.ff)).foldl (· ||| ·) 0, rs.any (·.2.tovf)⟩)

/-- Sets the flags in `fcsr` (R62). -/
def State.tflags (s : State) (f : TFlags) (vrbw : Bool) : State :=
  let s1 := s.raise f.ff vrbw
  if f.tovf then { s1 with me := { s1.me with fcsr := s1.me.fcsr ||| 0x100 } } else s1

/-! ## Outer products (R171-R174) -/

/-- The functions of TCROSS. -/
inductive Cross where
  | plus
  | minus
  | int
  | scaled
deriving DecidableEq, Repr

/-- The tile format that a function requires (R171). -/
def Cross.fmt : Cross → Nat
  | .int => 1
  | _ => 0

/-- The value of an operand element: of a format, with the flush of `fz`, or an integer (R171). -/
def operandVal (et : Nat) (fz : Bool) (x : Nat) : Val :=
  match fmtOf et with
  | some f => f.input fz x
  | none => .ofInt (intValue true (etypeWidth et) x)

/-- The value scaled by an E8M0 scale (R75, R174). -/
def scaledVal (sc : Nat) (v : Val) : Val := if sc = 0xFF then .nan false else v.scale ((sc : Int) - 127)

/-- Element `m` of a granule. -/
def granElem (w : Nat) (g : Granule) (m : Nat) : Nat := g.toNat / 2 ^ (w * m) % 2 ^ w

/-- The update of a floating-point cell (R79): the exact sum of the cell and the products, rounded once by RNE. -/
def crossCell (fz : Bool) (cell : Nat) (ps : List (Val × FF)) : Nat × FF :=
  let c0 := Fmt.f32.input fz cell
  let s := ps.foldl (fun a p => let r := Val.add 0 a.1 p.1; (r.1, a.2 ||| p.2 ||| r.2)) (c0, ffIf c0.isNan ffNv)
  let r := Fmt.f32.round fz 0 s.1
  (r.1, s.2 ||| r.2)

/-- The operands of a word: granules of A by row and of B by column, with their scales (R172, R174). -/
structure CrossArgs where
  kind : Cross
  et : Nat
  fz : Bool
  vl : Nat
  a : Nat → Granule
  b : Nat → Granule
  sa : Nat → Nat
  sb : Nat → Nat

/-- The elements that a granule of the type holds: `k` of R171. -/
def CrossArgs.k (p : CrossArgs) : Nat := 128 / etypeWidth p.et

/-- The products of row `g` and column `j` (R171, R172). -/
def CrossArgs.products (p : CrossArgs) (g j : Nat) : List (Val × FF) :=
  let w := etypeWidth p.et
  ((List.range p.k).filter (fun m => decide (g * p.k + m < p.vl))).map fun m =>
    let x := operandVal p.et p.fz (granElem w (p.a g) m)
    let y := operandVal p.et p.fz (granElem w (p.b j) m)
    let x := if p.kind = .scaled then scaledVal (p.sa ((g * p.k + m) / 32)) x else x
    let y := if p.kind = .scaled then scaledVal (p.sb ((j * p.k + m) / 32)) y else y
    let r := Val.mul x y
    (if p.kind = .minus then r.1.negate else r.1, r.2 ||| ffIf (x.isNan || y.isNan) ffNv)

/-- The sum of the integer products of row `g` and column `j`. -/
def CrossArgs.intSum (p : CrossArgs) (g j : Nat) : Int :=
  let w := etypeWidth p.et
  (((List.range p.k).filter (fun m => decide (g * p.k + m < p.vl))).map fun m =>
    signedOf w (granElem w (p.a g) m) * signedOf w (granElem w (p.b j) m)).sum

/-- The update of a cell. -/
def CrossArgs.update (p : CrossArgs) (g j cell : Nat) : Nat × FF :=
  if p.kind = .int then (wrapInt 32 (cell + p.intSum g j), 0) else crossCell p.fz cell (p.products g j)

/-- Accumulates the active rows, column by column. -/
def CrossArgs.accumulate (p : CrossArgs) (rows : List Nat) (cols : Nat) (t : Tile) : Tile × FF :=
  rows.foldl (fun a g => (List.range cols).foldl (fun b j =>
    let r := p.update g j (b.1.cell g j)
    (b.1.setCell g j r.1, b.2 ||| r.2)) a) (t, 0)

/-- A queue operand may be popped (R173, R289): it holds enough entries, none of them poisoned. A closed queue that holds too
few, with nothing bound to it, raises queue protocol, whatever the other lacks. -/
def State.crossQueue (s : State) (on : Bool) (q n : Nat) : Chk Unit :=
  if !on || decide (n ≤ (s.queue q).items.length) then .ok ()
  else if (s.queue q).closed && !s.boundTo q then .trap 0x0A 0 (BitVec.ofNat 64 q)
  else .stall .queue
def State.crossPoison (s : State) (on : Bool) (q n : Nat) : Chk Unit :=
  if on && s.poisonHead q n then .trap 0x09 1 (BitVec.ofNat 64 q) else .ok ()

/-- The traps of a list of checks. -/
def trapsOf (l : List (Chk Unit)) : List (Chk Unit) := l.filter (fun c => match c with | .trap _ _ _ => true | _ => false)

/-- Pops `n` entries. -/
def State.popMany (s : State) (q : Nat) : Nat → List Granule × State
  | 0 => ([], s)
  | n + 1 =>
    let p := s.pop q
    let r := p.2.popMany q n
    (p.1 :: r.1, r.2)

/-- The granules of an operand: of a queue, or of a vector group (R172). -/
def State.granules (s : State) (on : Bool) (r : RegNo) (n : Nat) : List Granule × State :=
  if on then s.popMany (r.toNat % 8) n
  else ((List.range n).map (fun g => BitVec.ofNat 128 (s.vu.get (s.vu.pos r.toNat 128 g) 128)), s)

/-- Ends a tile word: its history entry, and `vstart`, which is part of a vector state that is present (R61). -/
def State.tdone (s : State) (w : IWord) (c : Convoy) (active : Nat) : State :=
  let h : Hist := { event := 0, vl := c.vl, active := active, first := 0, last := 0 }
  if s.me.xstate.getLsbD 0 then s.vretire w c h else (s.history w c h).leave

/-- The effect of a TCROSS word once its operands are there (R172): rescale, operands, accumulation. -/
def State.cross (s : State) (w : IWord) (c : Convoy) (kind : Cross) (qa qb : Bool) (rows cols : Nat) : State :=
  let n := s.me.tileNo (wTd w)
  let t0 := s.tile n
  let e := c.lscale.extractLsb' 0 8
  let re := if kind != .int && decide (t0.sexp ≠ e.toInt) then t0.rescale c.fz e else (t0, ⟨0, false⟩)
  let b := s.granules qb (wT2 w) cols
  let a := b.2.granules qa (wT1 w) rows
  let s2 := a.2
  let sc (r : RegNo) (i : Nat) : Nat := s2.vu.scaleAt (scaleOf r.toNat (regCount s2.vu.vcfg)) i
  let p : CrossArgs :=
    { kind := kind, et := c.et, fz := c.fz, vl := c.vl, a := fun g => a.1.getD g 0, b := fun j => b.1.getD j 0,
      sa := sc (wT1 w), sb := sc (wT2 w) }
  let act := (List.range rows).filter (s2.vu.admits (wMask w))
  let r := p.accumulate act cols re.1
  let marked (on : Bool) (q : RegNo) (l : List Nat) : Bool :=
    !on && l.any (fun g => s2.vu.marked (s2.vu.pos q.toNat 128 g) 128)
  let vrbw := marked qa (wT1 w) act || (!act.isEmpty && marked qb (wT2 w) (List.range cols))
  let live := ((List.range c.vl).filter (fun i => act.contains (i / p.k))).length
  (((s2.setTile n r.1).tflags { re.2 with ff := re.2.ff ||| r.2 } vrbw)).tdone w c live

/-- A TCROSS word (R170-R174). -/
def crossOp (w : IWord) (kind : Cross) (s : State) : Out :=
  vecOp w [] none s fun s1 c _ _ =>
    if c.vl = 0 then .done (s1.tdone w c 0)
    else
      let k := 128 / c.w
      let rows := Nat.min ((c.vl + k - 1) / k) 128
      let cols := Nat.min c.tcols.toNat 128
      let qa := kind != .scaled && (wSel w).getLsbD 0
      let qb := kind != .scaled && (wSel w).getLsbD 1
      let na := (wT1 w).toNat % 8
      let nb := (wT2 w).toNat % 8
      let there := [s.crossQueue qa na rows, s.crossQueue qb nb cols]
      match firstBad (trapsOf there ++ there ++ [s.crossPoison qb nb cols, s.crossPoison qa na rows]) with
      | .stall x => .stall x s
      | .trap cause sub tval => s.vtrap w c cause sub tval
      | .ok () =>
        if (s1.myTile (wTd w)).fmt ≠ kind.fmt then s.vsix w c
        else .done (s1.cross w c kind qa qb rows cols)

/-! ## Moves (R175) -/

/-- The cell of element `i` of a move that begins at row or column `p`. -/
def moveCell (col : Bool) (p i : Nat) : Nat × Nat := if col then (i % 128, p + i / 128) else (p + i / 128, i % 128)

/-- The x register of a move, which a word with nothing to do does not pop (R170). -/
def moveX (w : IWord) (s : State) : List RegNo := if (s.cap w).vl = 0 then [] else [wT1 w]

/-- `tmvrow` and `tmvcol`: the active elements into cells, bit for bit. -/
def tileIn (w : IWord) (col : Bool) (s : State) : Out :=
  vecOp w (moveX w s) none s fun s1 c x _ =>
    if c.vl = 0 then .done (s1.tdone w c 0)
    else if 128 < x.toNat + (c.vl + 127) / 128 then s.vsix w c
    else
      let n := s1.me.tileNo (wTd w)
      let is := s1.vu.active c (wMask w)
      let r := (wT2 w).toNat
      let t := is.foldl (fun t i =>
        let q := moveCell col x.toNat i
        t.setCell q.1 q.2 (s1.vu.elem r 32 i)) (s1.tile n)
      .done (((s1.setTile n t).raise 0 (is.any (fun i => s1.vu.marked (s1.vu.pos r 32 i) 32))).tdone w c is.length)

/-- `trdrow` and `trdcol`: cells into the active elements, bit for bit. -/
def tileOut (w : IWord) (col : Bool) (s : State) : Out :=
  vecOp w (moveX w s) none s fun s1 c x y =>
    if c.vl = 0 then .done (s1.tdone w c 0)
    else if 128 < x.toNat + (c.vl + 127) / 128 then s.vsix w c
    else
      let t := s1.myTile (wTd w)
      let r := (wT2 w).toNat
      let p : Plan :=
        { w := 32, mask := wMask w, dsts := [{ reg := r, n := c.g, w := 32, et := c.et }], mdst := none, whole := true,
          gran := granOf 32,
          body := fun u _ i =>
            let q := moveCell col x.toNat i
            ElRes.val (u.pos r 32 i) 32 (t.cell q.1 q.2) [] }
      .done (s1.runPlan w c x y p)

/-! ## TCROSS (0x31) -/

/-- `tcross` (R172). -/
def execTcross (k : Bool) (t : BitVec 3) (s : RegNo) (u : RegNo) (l : BitVec 2) (a : Bool) (b : Bool) (mask : Option (BitVec 2)) (u0 : State) : Out :=
  crossOp (packTT 0x31#6 (BitVec.ofBool k) t s u l (BitVec.ofBool a) (BitVec.ofBool b) (maskMe mask) (maskMk mask) 0#5) .plus u0

/-- `tcrossm` (R172). -/
def execTcrossm (k : Bool) (t : BitVec 3) (s : RegNo) (u : RegNo) (l : BitVec 2) (a : Bool) (b : Bool) (mask : Option (BitVec 2)) (u0 : State) : Out :=
  crossOp (packTT 0x31#6 (BitVec.ofBool k) t s u l (BitVec.ofBool a) (BitVec.ofBool b) (maskMe mask) (maskMk mask) 1#5) .minus u0

/-- `tcross.i` (R172). -/
def execTcrossI (k : Bool) (t : BitVec 3) (s : RegNo) (u : RegNo) (l : BitVec 2) (a : Bool) (b : Bool) (mask : Option (BitVec 2)) (u0 : State) : Out :=
  crossOp (packTT 0x31#6 (BitVec.ofBool k) t s u l (BitVec.ofBool a) (BitVec.ofBool b) (maskMe mask) (maskMk mask) 2#5) .int u0

/-- `tcross.s` (R174). -/
def execTcrossS (k : Bool) (t : BitVec 3) (s : RegNo) (u : RegNo) (a : Bool) (b : Bool) (mask : Option (BitVec 2)) (u0 : State) : Out :=
  crossOp (packTT 0x31#6 (BitVec.ofBool k) t s u 0#2 (BitVec.ofBool a) (BitVec.ofBool b) (maskMe mask) (maskMk mask) 3#5) .scaled u0

/-! ## TMOV (0x32) -/

/-- `tzero` (R175). -/
def execTzero (k : Bool) (t : BitVec 3) (u0 : State) : Out :=
  vecOp (packTT 0x32#6 (BitVec.ofBool k) t 0#5 0#5 0#2 0#1 0#1 0#1 0#2 0#5) [] none u0 fun s1 c _ _ =>
    if c.vl = 0 then .done (s1.tdone (packTT 0x32#6 (BitVec.ofBool k) t 0#5 0#5 0#2 0#1 0#1 0#1 0#2 0#5) c 0)
    else
      let n := s1.me.tileNo t.toNat
      let f := if c.et = 0 then 0 else 1
      let e := if c.et = 0 then (c.lscale.extractLsb' 0 8).toNat else 0
      .done ((s1.setTile n ({ s1.tile n with cells := 0 }.label f e)).tdone (packTT 0x32#6 (BitVec.ofBool k) t 0#5 0#5 0#2 0#1 0#1 0#1 0#2 0#5) c c.vl)

/-- `tmvrow` (R175). -/
def execTmvrow (k : Bool) (t : BitVec 3) (x : RegNo) (v : RegNo) (b : Bool) (mask : Option (BitVec 2)) (u0 : State) : Out :=
  tileIn (packTT 0x32#6 (BitVec.ofBool k) t x v 0#2 0#1 (BitVec.ofBool b) (maskMe mask) (maskMk mask) 1#5) false u0

/-- `tmvcol` (R175). -/
def execTmvcol (k : Bool) (t : BitVec 3) (x : RegNo) (v : RegNo) (b : Bool) (mask : Option (BitVec 2)) (u0 : State) : Out :=
  tileIn (packTT 0x32#6 (BitVec.ofBool k) t x v 0#2 0#1 (BitVec.ofBool b) (maskMe mask) (maskMk mask) 2#5) true u0

/-- `trdrow` (R175). -/
def execTrdrow (k : Bool) (t : BitVec 3) (x : RegNo) (v : RegNo) (mask : Option (BitVec 2)) (u0 : State) : Out :=
  tileOut (packTT 0x32#6 (BitVec.ofBool k) t x v 0#2 0#1 0#1 (maskMe mask) (maskMk mask) 3#5) false u0

/-- `trdcol` (R175). -/
def execTrdcol (k : Bool) (t : BitVec 3) (x : RegNo) (v : RegNo) (mask : Option (BitVec 2)) (u0 : State) : Out :=
  tileOut (packTT 0x32#6 (BitVec.ofBool k) t x v 0#2 0#1 0#1 (maskMe mask) (maskMk mask) 4#5) true u0

/-! ## TCTL (0x33) -/

/-- `tcfg` (R176). -/
def execTcfg (k : Bool) (t : BitVec 3) (x : RegNo) (u0 : State) : Out :=
  vecOp (packTT 0x33#6 (BitVec.ofBool k) t x 0#5 0#2 0#1 0#1 0#1 0#2 0#5) [x] none u0 fun s1 c v _ =>
    let n := s1.me.tileNo t.toNat
    if v.extractLsb' 12 52 != 0 || 1 < bits v.toNat 11 8 then u0.vsix (packTT 0x33#6 (BitVec.ofBool k) t x 0#5 0#2 0#1 0#1 0#1 0#2 0#5) c
    else .done ((s1.setTile n ((s1.tile n).label (bits v.toNat 11 8) (bits v.toNat 7 0))).tdone (packTT 0x33#6 (BitVec.ofBool k) t x 0#5 0#2 0#1 0#1 0#1 0#2 0#5) c 0)

/-- `tscale` (R176). -/
def execTscale (k : Bool) (t : BitVec 3) (x : RegNo) (u0 : State) : Out :=
  vecOp (packTT 0x33#6 (BitVec.ofBool k) t x 0#5 0#2 0#1 0#1 0#1 0#2 1#5) [x] none u0 fun s1 c v _ =>
    let n := s1.me.tileNo t.toNat
    let e := v.extractLsb' 0 8
    if e.signExtend 64 != v || (s1.tile n).fmt = 1 then u0.vsix (packTT 0x33#6 (BitVec.ofBool k) t x 0#5 0#2 0#1 0#1 0#1 0#2 1#5) c
    else
      let r := (s1.tile n).rescale c.fz e
      .done (((s1.setTile n r.1).tflags r.2 false).tdone (packTT 0x33#6 (BitVec.ofBool k) t x 0#5 0#2 0#1 0#1 0#1 0#2 1#5) c 0)

/-- `tstat` (R176). -/
def execTstat (k : Bool) (t : BitVec 3) (x : RegNo) (u0 : State) : Out :=
  vecOp (packTT 0x33#6 (BitVec.ofBool k) t x 0#5 0#2 0#1 0#1 0#1 0#2 2#5) [] (some x) u0 fun s1 c _ _ =>
    .done ((s1.put x ((s1.myTile t.toNat).header.zeroExtend 64)).tdone (packTT 0x33#6 (BitVec.ofBool k) t x 0#5 0#2 0#1 0#1 0#1 0#2 2#5) c 0)

end Sys2Proof.Machine
end

