-- ==== Sys2Proof/Machine/VConfig.lean ====
section
/-!
DEFINITION. Vector configuration (R134, R135).
-/

namespace Sys2Proof.Machine

/-- A configuration word retires, with its history entry; the word after it starts a convoy of its own (R42 rule 3). -/
def State.cfgDone (s : State) (w : IWord) (c : Convoy) : State :=
  s.vretire w c { event := 0, vl := c.vl, active := 0, first := 0, last := 0 }

/-- The vector type and length that a request leaves (R134): the type, or `ill`, and `vl`. -/
def vcfgResult (vcfg : BitVec 2) (a req : Word) : Word × Nat :=
  let et := bits req.toNat 4 0
  let g := 2 ^ bits req.toNat 6 5
  if 16 < et || req.extractLsb' 10 54 != 0 || regCount vcfg < g then (0x8000000000000000, 0)
  else (req, Nat.min a.toNat (vlmax vcfg (etypeWidth et) g))

/-- Applies a request. -/
def State.setVtype (s : State) (a req : Word) : State :=
  let r := vcfgResult s.vu.vcfg a req
  { s with vu := { s.vu with vtype := r.1, vl := r.2, dirty := s.vu.dirty ||| 0x100000000 } }

/-- A configuration word that raises its exception, at a check or at its operands, leaves a history entry too (R292). -/
def State.cfgTrap (s : State) (w : IWord) (cause sub : Nat) (v : Word) : Out :=
  .next ((s.history w (s.cap w) { event := 1, vl := (s.cap w).vl, active := 0, first := 0, last := 0 }).takeTrap (s.trapAt cause sub v))

/-- A configuration word: a scalar one with a history entry. -/
def cfgOp (w : IWord) (srcs : List RegNo) (dst : Option RegNo) (s : State) (body : State → Word → Word → Word → Res) : Out :=
  match checks w s, s.gate srcs dst with
  | some (cause, sub, v), _ => s.cfgTrap w cause sub (v.zeroExtend 64)
  | none, .trap cause sub v => s.cfgTrap w cause sub v
  | none, _ => scalarOp w srcs dst s body

/-- A type request (R134). -/
def vcfgForm (w : IWord) (srcs : List RegNo) (d : RegNo) (s : State) (req : Word → Word) : Out :=
  cfgOp w srcs (some d) s fun s1 x y _ =>
    let s2 := s1.setVtype x (req y)
    .done ((s2.put d (BitVec.ofNat 64 s2.vu.vl)).cfgDone w (s.cap w))

/-- `vcfg` (R134). -/
def execVcfg (d a b : RegNo) (s : State) : Out :=
  vcfgForm (packVC 0x20#6 0#1 d a (b ++ 0#5) 0#5) [a, b] d s id

/-- `vcfgi` (R134). -/
def execVcfgi (d a : RegNo) (t : BitVec 10) (s : State) : Out :=
  vcfgForm (packVC 0x20#6 0#1 d a t 1#5) [a] d s (fun _ => t.zeroExtend 64)

/-- `vreconf` (R51, R135): it waits for every earlier vector and tile instruction and its V operations. -/
def execVreconf (c : BitVec 2) (s : State) : Out :=
  let w := (packVC 0x20#6 0#1 0#5 0#5 (0#3 ++ c ++ 0#5) 2#5)
  cfgOp w [] none s fun s1 _ _ _ =>
    if !s1.me.vops.isEmpty then .stall .operand s
    else
      let u := { s1.vu with
        regs := BitVec.allOnes 524288, marks := BitVec.allOnes 32, vl := 0, vtype := 0x8000000000000000, vcfg := c,
        dirty := 0x1FFFFFFFF }
      .done ({ s1 with vu := u }.cfgDone w (s.cap w))

end Sys2Proof.Machine
end

