-- ==== Sys2Proof/Machine/VUpd.lean ====
section
/-!
DEFINITION. Split master weights and the training updates (R84, R177-R179).
-/

namespace Sys2Proof.Machine

/-! ## Plane pairs (R84, R177) -/

/-- Element `i` of the plane pair at register `p`: the FP32 pattern. -/
def VecUnit.pair (u : VecUnit) (p g i : Nat) : Nat := u.elem p 16 i * 65536 + u.elem (p + g) 16 i

/-- The writes of a plane pair. -/
def pairWrites (u : VecUnit) (p g i v : Nat) : List (Nat × Nat × Nat) :=
  [(u.pos p 16 i, 16, v / 65536), (u.pos (p + g) 16 i, 16, v % 65536)]

/-- The bits that an element of a plane pair is read from. -/
def pairReads (u : VecUnit) (p g i : Nat) : List (Nat × Nat) := [(u.pos p 16 i, 16), (u.pos (p + g) 16 i, 16)]

/-- The destinations of a plane pair: each plane is a `bf16` group. -/
def pairDsts (p g : Nat) : List Dst := [{ reg := p, n := g, w := 16, et := 1 }, { reg := p + g, n := g, w := 16, et := 1 }]

/-! ## The update arithmetic (R178) -/

/-- `F(y)`: one rounding to FP32, with the flags of the exact operations before it. -/
def fRound (fz : Bool) (rm : Nat) (v : Val × FF) : Nat × FF :=
  let r := Fmt.f32.round fz rm v.1
  (r.1, v.2 ||| r.2)

/-- Exact sum and product of values with the flags so far. -/
def vAdd (rm : Nat) (a b : Val × FF) : Val × FF :=
  let r := Val.add rm a.1 b.1
  (r.1, a.2 ||| b.2 ||| r.2)
def vMul (a b : Val × FF) : Val × FF :=
  let r := Val.mul a.1 b.1
  (r.1, a.2 ||| b.2 ||| r.2)

/-- An FP32 pattern as an exact value. -/
def f32v (x : Nat) : Val × FF := (Fmt.f32.decode x, 0)

/-- `a - b` exactly. -/
def vSub (rm : Nat) (a b : Val × FF) : Val × FF := vAdd rm a (b.1.negate, b.2)

/-- The narrowing of a new moment to BF16 (R178, R73): its code, the residue it leaves and its flags. -/
def narrowMoment (c : Convoy) (m ns : Nat) : Nat × Nat × FF :=
  if c.rm = 4 then Fmt.bf16.noiseShaped c.fz (Fmt.f32.decode m) ns
  else
    let r := Fmt.bf16.round c.fz c.rm (Fmt.f32.decode m)
    (r.1, ns, r.2)

/-- The residues and sums of the narrowing of a moment (R73, R77). -/
def momentParts (c : Convoy) (m ns ns' : Nat) : List Nat := if c.rm = 4 then shapedParts (Fmt.f32.decode m) ns ns' else []

/-- The gradient unscaled by the captured `lscale`: `g` of R178. -/
def gradient (c : Convoy) (x : Nat) : Nat × FF :=
  let v := Fmt.f32.input c.fz x
  fRound c.fz (plainRm c.rm) (v.scale (-((c.lscale.extractLsb' 0 8).toInt)), ffIf v.isSig ffNv)

/-- The hyperparameter of register `r`. -/
def hyperOf (h : RegNo → Nat) (r : RegNo) : Val × FF := f32v (h r)

/-- `m1` and `w1` of `vupd.sgdm`: from the gradient, the momentum's value and the weight. -/
def sgdm (c : Convoy) (h : RegNo → Nat) (g : Nat) (m : Val) (w : Nat) : (Nat × FF) × (Nat × FF) :=
  let rm := plainRm c.rm
  let m1 := fRound c.fz rm
    (vAdd rm (vAdd rm (vMul (hyperOf h 17) (m, 0)) (f32v g)) (vMul (hyperOf h 20) (f32v w)))
  (m1, fRound c.fz rm (vSub rm (f32v w) (vMul (hyperOf h 16) (f32v m1.1))))

/-- `m1`, `v1` and `w1` of `vupd.adamw`, and the other results of F; the flags of `w1` are those of the step `d` too. -/
def adamw (c : Convoy) (h : RegNo → Nat) (g : Nat) (m v : Val) (w : Nat) : (Nat × FF) × (Nat × FF) × (Nat × FF) × List Nat :=
  let rm := plainRm c.rm
  let one := f32v 0x3F800000
  let rest (b : Val × FF) : Val × FF := vSub rm one b
  let m1 := fRound c.fz rm (vAdd rm (vMul (hyperOf h 17) (m, 0)) (vMul (rest (hyperOf h 17)) (f32v g)))
  let v1 := fRound c.fz rm (vAdd rm (vMul (hyperOf h 18) (v, 0)) (vMul (vMul (rest (hyperOf h 18)) (f32v g)) (f32v g)))
  let up := fRound false rm (vMul (f32v m1.1) (hyperOf h 21))
  let vc := fRound false rm (vMul (f32v v1.1) (hyperOf h 22))
  let sq := fRound false rm (Fmt.f32.decode vc.1).sqrt
  let den := fRound false rm (vAdd rm (f32v sq.1) (hyperOf h 19))
  let d := fRound false rm (Val.div (Fmt.f32.decode up.1) (Fmt.f32.decode den.1))
  let w1 := fRound c.fz rm (vSub rm (f32v w) (vMul (hyperOf h 16) (vAdd rm (f32v d.1) (vMul (hyperOf h 20) (f32v w)))))
  (m1, v1, (w1.1, up.2 ||| vc.2 ||| sq.2 ||| den.2 ||| d.2 ||| w1.2), [up.1, vc.1, sq.1, den.1, d.1])

/-- A subnormal among the FP32 and the BF16 patterns that an update consumes or produces, its hyperparameters and the results of F
among them (R77). DESIGN CHOICE (log entry 102): it marks one granule of the element, that of its index among `bf16` elements,
whichever of its destinations the subnormal belongs to. -/
def anySub (c : Convoy) (fs bs : List Nat) : Bool := !c.fz && (fs.any Fmt.f32.subnormal || bs.any Fmt.bf16.subnormal)

/-- The element of `vupd.sgdm`. -/
def sgdmElem (wd : IWord) (c : Convoy) (h : RegNo → Nat) (u : VecUnit) (ns i : Nat) : ElRes :=
  let p := (wVd wd).toNat
  let q := (wV1 wd).toNat
  let t := (wV2 wd).toNat
  let w := u.pair p c.g i
  let x := u.elem t 32 i
  let m := u.elem q 16 i
  let g := gradient c x
  let r := sgdm c h g.1 (Fmt.bf16.input c.fz m) w
  let k := narrowMoment c r.1.1 ns
  { writes := (u.pos q 16 i, 16, k.1) :: pairWrites u p c.g i r.2.1, bit := none, scale := none,
    ff := g.2 ||| r.1.2 ||| r.2.2 ||| k.2.2, sub := anySub c ([w, x, g.1, r.1.1, r.2.1] ++ momentParts c r.1.1 ns k.2.1 ++ [16#5, 17#5, 20#5].map h) [m, k.1],
    ns := some k.2.1, reads := (u.pos t 32 i, 32) :: (u.pos q 16 i, 16) :: pairReads u p c.g i }

/-- The element of `vupd.adamw`: the residue takes the narrowing of m, then that of v. -/
def adamwElem (wd : IWord) (c : Convoy) (h : RegNo → Nat) (u : VecUnit) (ns i : Nat) : ElRes :=
  let p := (wVd wd).toNat
  let q := (wV1 wd).toNat
  let t := (wV2 wd).toNat
  let w := u.pair p c.g i
  let x := u.elem t 32 i
  let m := u.elem q 16 i
  let v := u.elem (q + c.g) 16 i
  let g := gradient c x
  let r := adamw c h g.1 (Fmt.bf16.input c.fz m) (Fmt.bf16.input c.fz v) w
  let k := narrowMoment c r.1.1 ns
  let l := narrowMoment c r.2.1.1 k.2.1
  { writes := (u.pos q 16 i, 16, k.1) :: (u.pos (q + c.g) 16 i, 16, l.1) :: pairWrites u p c.g i r.2.2.1.1, bit := none,
    scale := none, ff := g.2 ||| r.1.2 ||| r.2.1.2 ||| r.2.2.1.2 ||| k.2.2 ||| l.2.2,
    sub := anySub c ([w, x, g.1, r.1.1, r.2.1.1, r.2.2.1.1] ++ r.2.2.2 ++ momentParts c r.1.1 ns k.2.1 ++ momentParts c r.2.1.1 k.2.1 l.2.1 ++
      hyperRegs.map h) [m, v, k.1, l.1],
    ns := some l.2.1, reads := (u.pos t 32 i, 32) :: pairReads u q c.g i ++ pairReads u p c.g i }

/-- An update word: its elements are placed on lanes as `bf16` elements, and its hyperparameters are read at issue. -/
def updOp (wd : IWord) (moments : Nat → Nat → List Dst)
    (f : Convoy → (RegNo → Nat) → VecUnit → Nat → Nat → ElRes) (s : State) : Out :=
  planOp wd [] s fun s1 c _ =>
    let h (r : RegNo) : Nat := (s1.hyper r).toNat % 2 ^ 32
    { w := 16, mask := wMask wd, dsts := pairDsts (wVd wd).toNat c.g ++ moments (wV1 wd).toNat c.g, mdst := none,
      whole := false, gran := granOf 16, body := f c h }

/-- A word that moves the bits of plane pairs (R179). -/
def planeOp (wd : IWord) (dsts : Nat → Nat → List Dst) (f : VecUnit → Nat → Nat → ElRes) (s : State) : Out :=
  planOp wd [] s fun _ c _ =>
    { w := 16, mask := wMask wd, dsts := dsts (wVd wd).toNat c.g, mdst := none, whole := false, gran := granOf 16,
      body := fun u _ i => f u c.g i }

/-! ## VUPD (0x30) -/

/-- `vupd.sgdm` (R178). -/
def execVupdSgdm (k : Bool) (d : RegNo) (s : RegNo) (t : RegNo) (a : Bool) (b : Bool) (mask : Option (BitVec 2)) (u0 : State) : Out :=
  updOp (packV 0x30#6 (BitVec.ofBool k) d s t (BitVec.ofBool a) (BitVec.ofBool b) (maskMe mask) (maskMk mask) 0#5) (fun q g => [{ reg := q, n := g, w := 16, et := 1 }]) (sgdmElem (packV 0x30#6 (BitVec.ofBool k) d s t (BitVec.ofBool a) (BitVec.ofBool b) (maskMe mask) (maskMk mask) 0#5)) u0

/-- `vupd.adamw` (R178). -/
def execVupdAdamw (k : Bool) (d : RegNo) (s : RegNo) (t : RegNo) (a : Bool) (b : Bool) (mask : Option (BitVec 2)) (u0 : State) : Out :=
  updOp (packV 0x30#6 (BitVec.ofBool k) d s t (BitVec.ofBool a) (BitVec.ofBool b) (maskMe mask) (maskMk mask) 1#5) pairDsts (adamwElem (packV 0x30#6 (BitVec.ofBool k) d s t (BitVec.ofBool a) (BitVec.ofBool b) (maskMe mask) (maskMk mask) 1#5)) u0

/-- `vsplit` (R179). -/
def execVsplit (k : Bool) (d : RegNo) (t : RegNo) (b : Bool) (mask : Option (BitVec 2)) (u0 : State) : Out :=
  planeOp (packV 0x30#6 (BitVec.ofBool k) d 0#5 t 0#1 (BitVec.ofBool b) (maskMe mask) (maskMk mask) 2#5) pairDsts (fun u g i =>
    { writes := pairWrites u d.toNat g i (u.elem t.toNat 32 i), bit := none, scale := none, ff := 0, sub := false, ns := none,
      reads := [(u.pos t.toNat 32 i, 32)] }) u0

/-- `vjoin` (R179). -/
def execVjoin (k : Bool) (d : RegNo) (t : RegNo) (b : Bool) (mask : Option (BitVec 2)) (u0 : State) : Out :=
  planeOp (packV 0x30#6 (BitVec.ofBool k) d 0#5 t 0#1 (BitVec.ofBool b) (maskMe mask) (maskMk mask) 3#5) (fun r g => [{ reg := r, n := 2 * g, w := 32, et := 0 }]) (fun u g i =>
    ElRes.val (u.pos d.toNat 32 i) 32 (u.pair t.toNat g i) (pairReads u t.toNat g i)) u0

end Sys2Proof.Machine
end

