-- ==== Sys2Proof/Machine/Dispatch.lean ====
section
/-! DEFINITION. One arm for each constructor of Instr: the meaning that the spec gives it. -/

namespace Sys2Proof.Machine

def exec (i : Instr) (s : State) : Host.Outcome State Fault Refusal :=
  match i with
  | .loadPerform k => Sys2Proof.Machine.execLoadPerform k s
  | .storeDrain => Sys2Proof.Machine.execStoreDrain s
  | .amoPerform k => Sys2Proof.Machine.execAmoPerform k s
  | .vOperationPerform k => Sys2Proof.Machine.execVOperationPerform k s
  | .fenceAllComplete => Sys2Proof.Machine.execFenceAllComplete s
  | .subnormalAssist => Sys2Proof.Machine.execSubnormalAssist s
  | .barrierArrival x b => Sys2Proof.Machine.execBarrierArrival x b s
  | .eventDelivery k => Sys2Proof.Machine.execEventDelivery k s
  | .vappendCommit => Sys2Proof.Machine.execVappendCommit s
  | .engineStart t => Sys2Proof.Machine.execEngineStart t s
  | .engineUnit t n w bad => Sys2Proof.Machine.execEngineUnit t n w bad s
  | .engineTokenComplete t => Sys2Proof.Machine.execEngineTokenComplete t s
  | .absentFaultResolve u n ok => Sys2Proof.Machine.execAbsentFaultResolve u n ok s
  | .engineInternalError t => Sys2Proof.Machine.execEngineInternalError t s
  | .pubFlip t => Sys2Proof.Machine.execPubFlip t s
  | .tokwWatchdog => Sys2Proof.Machine.execTokwWatchdog s
  | .pageMove t => Sys2Proof.Machine.execPageMove t s
  | .pageWalk ctx die core va => Sys2Proof.Machine.execPageWalk ctx die core va s
  | .walkRetry => Sys2Proof.Machine.execWalkRetry s
  | .kvPageInComplete t => Sys2Proof.Machine.execKvPageInComplete t s
  | .kvretFrameFree t => Sys2Proof.Machine.execKvretFrameFree t s
  | .chainStart => Sys2Proof.Machine.execChainStart s
  | .callComplete => Sys2Proof.Machine.execCallComplete s
  | .caskCopyComplete => Sys2Proof.Machine.execCaskCopyComplete s
  | .abortUnwind => Sys2Proof.Machine.execAbortUnwind s
  | .rendezvousMismatch => Sys2Proof.Machine.execRendezvousMismatch s
  | .dispatcherWake q => Sys2Proof.Machine.execDispatcherWake q s
  | .launchRecord q => Sys2Proof.Machine.execLaunchRecord q s
  | .rerun t => Sys2Proof.Machine.execRerun t s
  | .launchEligible t => Sys2Proof.Machine.execLaunchEligible t s
  | .launchTokenComplete t => Sys2Proof.Machine.execLaunchTokenComplete t s
  | .placement die core slot => Sys2Proof.Machine.execPlacement die core slot s
  | .preload die core slot half => Sys2Proof.Machine.execPreload die core slot half s
  | .aging => Sys2Proof.Machine.execAging s
  | .budgetTick => Sys2Proof.Machine.execBudgetTick s
  | .graceWindowEnd => Sys2Proof.Machine.execGraceWindowEnd s
  | .yieldResolve => Sys2Proof.Machine.execYieldResolve s
  | .preEmption l0 l1 l2 l3 => Sys2Proof.Machine.execPreEmption l0 l1 l2 l3 s
  | .divertedArrival u kind o v => Sys2Proof.Machine.execDivertedArrival u kind o v s
  | .mergeOnResume u => Sys2Proof.Machine.execMergeOnResume u s
  | .machineCheck a => Sys2Proof.Machine.execMachineCheck a s
  | .hostAccess w pa n v => Sys2Proof.Machine.execHostAccess w pa n v s
  | .remoteAccess op m pa n v => Sys2Proof.Machine.execRemoteAccess op m pa n v s
  | .fabricTimeout k => Sys2Proof.Machine.execFabricTimeout k s
  | .cellarerWake => Sys2Proof.Machine.execCellarerWake s
  | .createContext pa => Sys2Proof.Machine.execCreateContext pa s
  | .destroyContext ctx => Sys2Proof.Machine.execDestroyContext ctx s
  | .registerLaunchQueue q pa => Sys2Proof.Machine.execRegisterLaunchQueue q pa s
  | .unregisterLaunchQueue q => Sys2Proof.Machine.execUnregisterLaunchQueue q s
  | .invalidate va w => Sys2Proof.Machine.execInvalidate va w s
  | .mapWindow o n b => Sys2Proof.Machine.execMapWindow o n b s
  | .loadFirmware pa n => Sys2Proof.Machine.execLoadFirmware pa n s
  | .strandDisposition ctx die core slot d => Sys2Proof.Machine.execStrandDisposition ctx die core slot d s
  | .moduleControlWrite o n v => Sys2Proof.Machine.execModuleControlWrite o n v s
  | .coldReset g => Sys2Proof.Machine.execColdReset g s
  | .functionLevelReset => Sys2Proof.Machine.execFunctionLevelReset s
  | .powerClamp p => Sys2Proof.Machine.execPowerClamp p s
  | .thermalThrottle hot => Sys2Proof.Machine.execThermalThrottle hot s
  | .thermalShutdown die => Sys2Proof.Machine.execThermalShutdown die s
  | .sensorEvent id v => Sys2Proof.Machine.execSensorEvent id v s
  | .spdmRequest m => Sys2Proof.Machine.execSpdmRequest m s
  | .pldmRequest id => Sys2Proof.Machine.execPldmRequest id s
  | .flashErase stack b => Sys2Proof.Machine.execFlashErase stack b s
  | .illegalInstruction w => Sys2Proof.Machine.execIllegalInstruction w s
  | .engineFaultResolution t ok => Sys2Proof.Machine.execEngineFaultResolution t ok s
  | .firmwareDisposition u d => Sys2Proof.Machine.execFirmwareDisposition u d s
  | .firmwarePolicyChange kind a v => Sys2Proof.Machine.execFirmwarePolicyChange kind a v s
  | .gtsSlewing g => Sys2Proof.Machine.execGtsSlewing g s
  | .fabricLinkChange up => Sys2Proof.Machine.execFabricLinkChange up s
  | .hostLinkTraining width speed => Sys2Proof.Machine.execHostLinkTraining width speed s
  | .add d a b => Sys2Proof.Machine.execAdd d a b s
  | .sub d a b => Sys2Proof.Machine.execSub d a b s
  | .and d a b => Sys2Proof.Machine.execAnd d a b s
  | .or d a b => Sys2Proof.Machine.execOr d a b s
  | .xor d a b => Sys2Proof.Machine.execXor d a b s
  | .andn d a b => Sys2Proof.Machine.execAndn d a b s
  | .sll d a b => Sys2Proof.Machine.execSll d a b s
  | .srl d a b => Sys2Proof.Machine.execSrl d a b s
  | .sra d a b => Sys2Proof.Machine.execSra d a b s
  | .rol d a b => Sys2Proof.Machine.execRol d a b s
  | .ror d a b => Sys2Proof.Machine.execRor d a b s
  | .slt d a b => Sys2Proof.Machine.execSlt d a b s
  | .sltn d a b => Sys2Proof.Machine.execSltn d a b s
  | .min d a b => Sys2Proof.Machine.execMin d a b s
  | .max d a b => Sys2Proof.Machine.execMax d a b s
  | .minn d a b => Sys2Proof.Machine.execMinn d a b s
  | .maxn d a b => Sys2Proof.Machine.execMaxn d a b s
  | .mul d a b => Sys2Proof.Machine.execMul d a b s
  | .mulh d a b => Sys2Proof.Machine.execMulh d a b s
  | .mulhn d a b => Sys2Proof.Machine.execMulhn d a b s
  | .div d a b => Sys2Proof.Machine.execDiv d a b s
  | .divn d a b => Sys2Proof.Machine.execDivn d a b s
  | .rem d a b => Sys2Proof.Machine.execRem d a b s
  | .remn d a b => Sys2Proof.Machine.execRemn d a b s
  | .clz d a => Sys2Proof.Machine.execClz d a s
  | .ctz d a => Sys2Proof.Machine.execCtz d a s
  | .popc d a => Sys2Proof.Machine.execPopc d a s
  | .sextB d a => Sys2Proof.Machine.execSextB d a s
  | .sextH d a => Sys2Proof.Machine.execSextH d a s
  | .sextW d a => Sys2Proof.Machine.execSextW d a s
  | .zextW d a => Sys2Proof.Machine.execZextW d a s
  | .slli d a u0 => Sys2Proof.Machine.execSlli d a u0 s
  | .srli d a u0 => Sys2Proof.Machine.execSrli d a u0 s
  | .srai d a u0 => Sys2Proof.Machine.execSrai d a u0 s
  | .addi d a imm => Sys2Proof.Machine.execAddi d a imm s
  | .andi d a imm => Sys2Proof.Machine.execAndi d a imm s
  | .ori d a imm => Sys2Proof.Machine.execOri d a imm s
  | .xori d a imm => Sys2Proof.Machine.execXori d a imm s
  | .slti d a imm => Sys2Proof.Machine.execSlti d a imm s
  | .sltni d a imm => Sys2Proof.Machine.execSltni d a imm s
  | .immh d imm => Sys2Proof.Machine.execImmh d imm s
  | .apc d imm => Sys2Proof.Machine.execApc d imm s
  | .ldb d a o => Sys2Proof.Machine.execLdb d a o s
  | .ldbn d a o => Sys2Proof.Machine.execLdbn d a o s
  | .ldh d a o => Sys2Proof.Machine.execLdh d a o s
  | .ldhn d a o => Sys2Proof.Machine.execLdhn d a o s
  | .ldw d a o => Sys2Proof.Machine.execLdw d a o s
  | .ldwn d a o => Sys2Proof.Machine.execLdwn d a o s
  | .ldd d a o => Sys2Proof.Machine.execLdd d a o s
  | .stb u0 a o => Sys2Proof.Machine.execStb u0 a o s
  | .sth u0 a o => Sys2Proof.Machine.execSth u0 a o s
  | .stw u0 a o => Sys2Proof.Machine.execStw u0 a o s
  | .std u0 a o => Sys2Proof.Machine.execStd u0 a o s
  | .amoAdd d a b o u0 w => Sys2Proof.Machine.execAmoAdd d a b o u0 w s
  | .amoAnd d a b o u0 w => Sys2Proof.Machine.execAmoAnd d a b o u0 w s
  | .amoOr d a b o u0 w => Sys2Proof.Machine.execAmoOr d a b o u0 w s
  | .amoXor d a b o u0 w => Sys2Proof.Machine.execAmoXor d a b o u0 w s
  | .amoMin d a b o u0 w => Sys2Proof.Machine.execAmoMin d a b o u0 w s
  | .amoMax d a b o u0 w => Sys2Proof.Machine.execAmoMax d a b o u0 w s
  | .amoMinn d a b o u0 w => Sys2Proof.Machine.execAmoMinn d a b o u0 w s
  | .amoMaxn d a b o u0 w => Sys2Proof.Machine.execAmoMaxn d a b o u0 w s
  | .amoSwap d a b o u0 w => Sys2Proof.Machine.execAmoSwap d a b o u0 w s
  | .amoCas d a b o u0 w => Sys2Proof.Machine.execAmoCas d a b o u0 w s
  | .ldAcq d a u0 w => Sys2Proof.Machine.execLdAcq d a u0 w s
  | .stRel a b u0 w => Sys2Proof.Machine.execStRel a b u0 w s
  | .fadd d a b => Sys2Proof.Machine.execFadd d a b s
  | .fsub d a b => Sys2Proof.Machine.execFsub d a b s
  | .fmul d a b => Sys2Proof.Machine.execFmul d a b s
  | .fdiv d a b => Sys2Proof.Machine.execFdiv d a b s
  | .fsqrt d a => Sys2Proof.Machine.execFsqrt d a s
  | .fmin d a b => Sys2Proof.Machine.execFmin d a b s
  | .fmax d a b => Sys2Proof.Machine.execFmax d a b s
  | .fmac d a b => Sys2Proof.Machine.execFmac d a b s
  | .fcvtfi d a => Sys2Proof.Machine.execFcvtfi d a s
  | .fcvtif d a => Sys2Proof.Machine.execFcvtif d a s
  | .feq d a b => Sys2Proof.Machine.execFeq d a b s
  | .flt d a b => Sys2Proof.Machine.execFlt d a b s
  | .fle d a b => Sys2Proof.Machine.execFle d a b s
  | .fkind d a => Sys2Proof.Machine.execFkind d a s
  | .fcvtbf d a => Sys2Proof.Machine.execFcvtbf d a s
  | .fmvbf d a => Sys2Proof.Machine.execFmvbf d a s
  | .beq a b o => Sys2Proof.Machine.execBeq a b o s
  | .bne a b o => Sys2Proof.Machine.execBne a b o s
  | .blt a b o => Sys2Proof.Machine.execBlt a b o s
  | .bge a b o => Sys2Proof.Machine.execBge a b o s
  | .bltn a b o => Sys2Proof.Machine.execBltn a b o s
  | .bgen a b o => Sys2Proof.Machine.execBgen a b o s
  | .jal d o => Sys2Proof.Machine.execJal d o s
  | .jalr d a imm => Sys2Proof.Machine.execJalr d a imm s
  | .loopSet l => Sys2Proof.Machine.execLoopSet l s
  | .loopEnd l o => Sys2Proof.Machine.execLoopEnd l o s
  | .loopIdx l d => Sys2Proof.Machine.execLoopIdx l d s
  | .loopBrk l o => Sys2Proof.Machine.execLoopBrk l o s
  | .qpush a q => Sys2Proof.Machine.execQpush a q s
  | .qpop d q => Sys2Proof.Machine.execQpop d q s
  | .qpeek d q => Sys2Proof.Machine.execQpeek d q s
  | .qtest d q => Sys2Proof.Machine.execQtest d q s
  | .qclose q => Sys2Proof.Machine.execQclose q s
  | .bpush a => Sys2Proof.Machine.execBpush a s
  | .qbr o => Sys2Proof.Machine.execQbr o s
  | .sprd d a q => Sys2Proof.Machine.execSprd d a q s
  | .spwr d a q => Sys2Proof.Machine.execSpwr d a q s
  | .qflush q => Sys2Proof.Machine.execQflush q s
  | .qdepth d q => Sys2Proof.Machine.execQdepth d q s
  | .csrr d c => Sys2Proof.Machine.execCsrr d c s
  | .csrw d a c => Sys2Proof.Machine.execCsrw d a c s
  | .csrs d a c => Sys2Proof.Machine.execCsrs d a c s
  | .csrc d a c => Sys2Proof.Machine.execCsrc d a c s
  | .fenceAv u0 => Sys2Proof.Machine.execFenceAv u0 s
  | .fenceVa u0 => Sys2Proof.Machine.execFenceVa u0 s
  | .fenceVV u0 => Sys2Proof.Machine.execFenceVV u0 s
  | .fenceAll u0 => Sys2Proof.Machine.execFenceAll u0 s
  | .barArv b u0 => Sys2Proof.Machine.execBarArv b u0 s
  | .barWt b u0 => Sys2Proof.Machine.execBarWt b u0 s
  | .barSync b u0 => Sys2Proof.Machine.execBarSync b u0 s
  | .yield => Sys2Proof.Machine.execYield s
  | .wfe => Sys2Proof.Machine.execWfe s
  | .sev a u0 => Sys2Proof.Machine.execSev a u0 s
  | .trap a => Sys2Proof.Machine.execTrap a s
  | .svc a => Sys2Proof.Machine.execSvc a s
  | .tret => Sys2Proof.Machine.execTret s
  | .halt => Sys2Proof.Machine.execHalt s
  | .dbrk => Sys2Proof.Machine.execDbrk s
  | .tlbi a b => Sys2Proof.Machine.execTlbi a b s
  | .vsave a b => Sys2Proof.Machine.execVsave a b s
  | .vrest a b => Sys2Proof.Machine.execVrest a b s
  | .wfi => Sys2Proof.Machine.execWfi s
  | .cpy d p u0 t k => Sys2Proof.Machine.execCpy d p u0 t k s
  | .cpyq d p u0 => Sys2Proof.Machine.execCpyq d p u0 s
  | .cpys d p u0 => Sys2Proof.Machine.execCpys d p u0 s
  | .gath d p u0 q imm => Sys2Proof.Machine.execGath d p u0 q imm s
  | .scad d p u0 v imm => Sys2Proof.Machine.execScad d p u0 v imm s
  | .coll d p u0 => Sys2Proof.Machine.execColl d p u0 s
  | .pub d p u0 => Sys2Proof.Machine.execPub d p u0 s
  | .tokw d p => Sys2Proof.Machine.execTokw d p s
  | .toks d p => Sys2Proof.Machine.execToks d p s
  | .mig d p => Sys2Proof.Machine.execMig d p s
  | .kvfork d p n u0 => Sys2Proof.Machine.execKvfork d p n u0 s
  | .kvapp d p n u0 => Sys2Proof.Machine.execKvapp d p n u0 s
  | .kvtag d p n u0 => Sys2Proof.Machine.execKvtag d p n u0 s
  | .kvret d p n u0 => Sys2Proof.Machine.execKvret d p n u0 s
  | .kvres d p n u0 => Sys2Proof.Machine.execKvres d p n u0 s
  | .kvpin d p n u0 ev un pin => Sys2Proof.Machine.execKvpin d p n u0 ev un pin s
  | .kvlook d p n u0 => Sys2Proof.Machine.execKvlook d p n u0 s
  | .rvchain p => Sys2Proof.Machine.execRvchain p s
  | .rvret => Sys2Proof.Machine.execRvret s
  | .rvq d => Sys2Proof.Machine.execRvq d s
  | .rvabort n => Sys2Proof.Machine.execRvabort n s
  | .vcfg d a b => Sys2Proof.Machine.execVcfg d a b s
  | .vcfgi d a t => Sys2Proof.Machine.execVcfgi d a t s
  | .vreconf c => Sys2Proof.Machine.execVreconf c s
  | .vle k d x mask => Sys2Proof.Machine.execVle k d x mask s
  | .vlse k d x u0 mask => Sys2Proof.Machine.execVlse k d x u0 mask s
  | .vlseg k d x f mask => Sys2Proof.Machine.execVlseg k d x f mask s
  | .vlx k d x imm mask => Sys2Proof.Machine.execVlx k d x imm mask s
  | .vlb k d x o mask => Sys2Proof.Machine.execVlb k d x o mask s
  | .vlkv k d x p => Sys2Proof.Machine.execVlkv k d x p s
  | .vlsc k d x => Sys2Proof.Machine.execVlsc k d x s
  | .vse k v x c mask => Sys2Proof.Machine.execVse k v x c mask s
  | .vsse k v x u0 c mask => Sys2Proof.Machine.execVsse k v x u0 c mask s
  | .vsseg k v x f c mask => Sys2Proof.Machine.execVsseg k v x f c mask s
  | .vsx k v x imm c mask => Sys2Proof.Machine.execVsx k v x imm c mask s
  | .vsxo k v x imm c mask => Sys2Proof.Machine.execVsxo k v x imm c mask s
  | .vsb k v x o c mask => Sys2Proof.Machine.execVsb k v x o c mask s
  | .vssc k v x => Sys2Proof.Machine.execVssc k v x s
  | .vlld k d x imm mask => Sys2Proof.Machine.execVlld k d x imm mask s
  | .vlst k v x imm c mask => Sys2Proof.Machine.execVlst k v x imm c mask s
  | .vlla k d x imm mask => Sys2Proof.Machine.execVlla k d x imm mask s
  | .vaddVV k d u0 t a b mask => Sys2Proof.Machine.execVaddVV k d u0 t a b mask s
  | .vsubVV k d u0 t a b mask => Sys2Proof.Machine.execVsubVV k d u0 t a b mask s
  | .vmulVV k d u0 t a b mask => Sys2Proof.Machine.execVmulVV k d u0 t a b mask s
  | .vmulh k d u0 t a b mask => Sys2Proof.Machine.execVmulh k d u0 t a b mask s
  | .vmulhn k d u0 t a b mask => Sys2Proof.Machine.execVmulhn k d u0 t a b mask s
  | .vdiv k d u0 t a b mask => Sys2Proof.Machine.execVdiv k d u0 t a b mask s
  | .vdivn k d u0 t a b mask => Sys2Proof.Machine.execVdivn k d u0 t a b mask s
  | .vrem k d u0 t a b mask => Sys2Proof.Machine.execVrem k d u0 t a b mask s
  | .vremn k d u0 t a b mask => Sys2Proof.Machine.execVremn k d u0 t a b mask s
  | .vandVV k d u0 t a b mask => Sys2Proof.Machine.execVandVV k d u0 t a b mask s
  | .vorVV k d u0 t a b mask => Sys2Proof.Machine.execVorVV k d u0 t a b mask s
  | .vxorVV k d u0 t a b mask => Sys2Proof.Machine.execVxorVV k d u0 t a b mask s
  | .vsllVV k d u0 t a b mask => Sys2Proof.Machine.execVsllVV k d u0 t a b mask s
  | .vsrlVV k d u0 t a b mask => Sys2Proof.Machine.execVsrlVV k d u0 t a b mask s
  | .vsraVV k d u0 t a b mask => Sys2Proof.Machine.execVsraVV k d u0 t a b mask s
  | .vminVV k d u0 t a b mask => Sys2Proof.Machine.execVminVV k d u0 t a b mask s
  | .vmaxVV k d u0 t a b mask => Sys2Proof.Machine.execVmaxVV k d u0 t a b mask s
  | .vminn k d u0 t a b mask => Sys2Proof.Machine.execVminn k d u0 t a b mask s
  | .vmaxn k d u0 t a b mask => Sys2Proof.Machine.execVmaxn k d u0 t a b mask s
  | .vmaccVV k d u0 t a b mask => Sys2Proof.Machine.execVmaccVV k d u0 t a b mask s
  | .vwadd k d u0 t a b mask => Sys2Proof.Machine.execVwadd k d u0 t a b mask s
  | .vwmul k d u0 t a b mask => Sys2Proof.Machine.execVwmul k d u0 t a b mask s
  | .vwmacc k d u0 t a b mask => Sys2Proof.Machine.execVwmacc k d u0 t a b mask s
  | .vnsra k d u0 t a b mask => Sys2Proof.Machine.execVnsra k d u0 t a b mask s
  | .vsadd k d u0 t a b mask => Sys2Proof.Machine.execVsadd k d u0 t a b mask s
  | .vssub k d u0 t a b mask => Sys2Proof.Machine.execVssub k d u0 t a b mask s
  | .vaddVX k d x t b mask => Sys2Proof.Machine.execVaddVX k d x t b mask s
  | .vsubVX k d x t b mask => Sys2Proof.Machine.execVsubVX k d x t b mask s
  | .vmulVX k d x t b mask => Sys2Proof.Machine.execVmulVX k d x t b mask s
  | .vandVX k d x t b mask => Sys2Proof.Machine.execVandVX k d x t b mask s
  | .vorVX k d x t b mask => Sys2Proof.Machine.execVorVX k d x t b mask s
  | .vxorVX k d x t b mask => Sys2Proof.Machine.execVxorVX k d x t b mask s
  | .vsllVX k d x t b mask => Sys2Proof.Machine.execVsllVX k d x t b mask s
  | .vsrlVX k d x t b mask => Sys2Proof.Machine.execVsrlVX k d x t b mask s
  | .vsraVX k d x t b mask => Sys2Proof.Machine.execVsraVX k d x t b mask s
  | .vminVX k d x t b mask => Sys2Proof.Machine.execVminVX k d x t b mask s
  | .vmaxVX k d x t b mask => Sys2Proof.Machine.execVmaxVX k d x t b mask s
  | .vmaccVX k d x t b mask => Sys2Proof.Machine.execVmaccVX k d x t b mask s
  | .vaddVI k d imm t b mask => Sys2Proof.Machine.execVaddVI k d imm t b mask s
  | .vandVI k d imm t b mask => Sys2Proof.Machine.execVandVI k d imm t b mask s
  | .vorVI k d imm t b mask => Sys2Proof.Machine.execVorVI k d imm t b mask s
  | .vxorVI k d imm t b mask => Sys2Proof.Machine.execVxorVI k d imm t b mask s
  | .vsllVI k d imm t b mask => Sys2Proof.Machine.execVsllVI k d imm t b mask s
  | .vsrlVI k d imm t b mask => Sys2Proof.Machine.execVsrlVI k d imm t b mask s
  | .vsraVI k d imm t b mask => Sys2Proof.Machine.execVsraVI k d imm t b mask s
  | .vfaddVV k d u0 t a b mask => Sys2Proof.Machine.execVfaddVV k d u0 t a b mask s
  | .vfsubVV k d u0 t a b mask => Sys2Proof.Machine.execVfsubVV k d u0 t a b mask s
  | .vfmulVV k d u0 t a b mask => Sys2Proof.Machine.execVfmulVV k d u0 t a b mask s
  | .vfdiv k d u0 t a b mask => Sys2Proof.Machine.execVfdiv k d u0 t a b mask s
  | .vfsqrt k d t b mask => Sys2Proof.Machine.execVfsqrt k d t b mask s
  | .vfminVV k d u0 t a b mask => Sys2Proof.Machine.execVfminVV k d u0 t a b mask s
  | .vfmaxVV k d u0 t a b mask => Sys2Proof.Machine.execVfmaxVV k d u0 t a b mask s
  | .vfmaccVV k d u0 t a b mask => Sys2Proof.Machine.execVfmaccVV k d u0 t a b mask s
  | .vfsubm k d u0 t a b mask => Sys2Proof.Machine.execVfsubm k d u0 t a b mask s
  | .vfwadd k d u0 t a b mask => Sys2Proof.Machine.execVfwadd k d u0 t a b mask s
  | .vfwmul k d u0 t a b mask => Sys2Proof.Machine.execVfwmul k d u0 t a b mask s
  | .vfwmacc k d u0 t a b mask => Sys2Proof.Machine.execVfwmacc k d u0 t a b mask s
  | .vfexp k d t b mask => Sys2Proof.Machine.execVfexp k d t b mask s
  | .vflog k d t b mask => Sys2Proof.Machine.execVflog k d t b mask s
  | .vfrec k d t b mask => Sys2Proof.Machine.execVfrec k d t b mask s
  | .vfrsq k d t b mask => Sys2Proof.Machine.execVfrsq k d t b mask s
  | .vfcsgn k d u0 t a b mask => Sys2Proof.Machine.execVfcsgn k d u0 t a b mask s
  | .vfkind k d t b mask => Sys2Proof.Machine.execVfkind k d t b mask s
  | .vfaddVX k d x t b mask => Sys2Proof.Machine.execVfaddVX k d x t b mask s
  | .vfsubVX k d x t b mask => Sys2Proof.Machine.execVfsubVX k d x t b mask s
  | .vfmulVX k d x t b mask => Sys2Proof.Machine.execVfmulVX k d x t b mask s
  | .vfmaccVX k d x t b mask => Sys2Proof.Machine.execVfmaccVX k d x t b mask s
  | .vfminVX k d x t b mask => Sys2Proof.Machine.execVfminVX k d x t b mask s
  | .vfmaxVX k d x t b mask => Sys2Proof.Machine.execVfmaxVX k d x t b mask s
  | .vfcvtW k d y t b mask => Sys2Proof.Machine.execVfcvtW k d y t b mask s
  | .vfcvtN k d y t b mask => Sys2Proof.Machine.execVfcvtN k d y t b mask s
  | .vfcvtFi k d y t b mask => Sys2Proof.Machine.execVfcvtFi k d y t b mask s
  | .vfcvtIf k d y t b mask => Sys2Proof.Machine.execVfcvtIf k d y t b mask s
  | .vcvtI k d y t r b mask => Sys2Proof.Machine.execVcvtI k d y t r b mask s
  | .vcvtq k d y t b mask => Sys2Proof.Machine.execVcvtq k d y t b mask s
  | .vdeq k d y t b mask => Sys2Proof.Machine.execVdeq k d y t b mask s
  | .vredsum k d u0 t a b mask => Sys2Proof.Machine.execVredsum k d u0 t a b mask s
  | .vredmax k d u0 t a b mask => Sys2Proof.Machine.execVredmax k d u0 t a b mask s
  | .vredmin k d u0 t a b mask => Sys2Proof.Machine.execVredmin k d u0 t a b mask s
  | .vredmaxn k d u0 t a b mask => Sys2Proof.Machine.execVredmaxn k d u0 t a b mask s
  | .vredminn k d u0 t a b mask => Sys2Proof.Machine.execVredminn k d u0 t a b mask s
  | .vredand k d u0 t a b mask => Sys2Proof.Machine.execVredand k d u0 t a b mask s
  | .vredor k d u0 t a b mask => Sys2Proof.Machine.execVredor k d u0 t a b mask s
  | .vfredsum k d u0 t a b mask => Sys2Proof.Machine.execVfredsum k d u0 t a b mask s
  | .vfredosum k d u0 t a b mask => Sys2Proof.Machine.execVfredosum k d u0 t a b mask s
  | .vfredmax k d u0 t a b mask => Sys2Proof.Machine.execVfredmax k d u0 t a b mask s
  | .vfredmin k d u0 t a b mask => Sys2Proof.Machine.execVfredmin k d u0 t a b mask s
  | .vfwredsum k d u0 t a b mask => Sys2Proof.Machine.execVfwredsum k d u0 t a b mask s
  | .vfwredosum k d u0 t a b mask => Sys2Proof.Machine.execVfwredosum k d u0 t a b mask s
  | .vslup k d x t b mask => Sys2Proof.Machine.execVslup k d x t b mask s
  | .vsldn k d x t b mask => Sys2Proof.Machine.execVsldn k d x t b mask s
  | .vsl1up k d x t b mask => Sys2Proof.Machine.execVsl1up k d x t b mask s
  | .vsl1dn k d x t b mask => Sys2Proof.Machine.execVsl1dn k d x t b mask s
  | .vpull k d u0 t a b mask => Sys2Proof.Machine.execVpull k d u0 t a b mask s
  | .vpush k d u0 t a b mask => Sys2Proof.Machine.execVpush k d u0 t a b mask s
  | .vcomp k d t b mask => Sys2Proof.Machine.execVcomp k d t b mask s
  | .vappend k d h t b mask => Sys2Proof.Machine.execVappend k d h t b mask s
  | .vmerge k d u0 t a b m => Sys2Proof.Machine.execVmerge k d u0 t a b m s
  | .vrank k d t mask => Sys2Proof.Machine.execVrank k d t mask s
  | .vindex k d mask => Sys2Proof.Machine.execVindex k d mask s
  | .mand k d u0 t => Sys2Proof.Machine.execMand k d u0 t s
  | .mor k d u0 t => Sys2Proof.Machine.execMor k d u0 t s
  | .mxor k d u0 t => Sys2Proof.Machine.execMxor k d u0 t s
  | .mnot k d t => Sys2Proof.Machine.execMnot k d t s
  | .mcount k d t mask => Sys2Proof.Machine.execMcount k d t mask s
  | .mlow k d t mask => Sys2Proof.Machine.execMlow k d t mask s
  | .mpre k d t => Sys2Proof.Machine.execMpre k d t s
  | .mmov k d t => Sys2Proof.Machine.execMmov k d t s
  | .mset k d => Sys2Proof.Machine.execMset k d s
  | .mclr k d => Sys2Proof.Machine.execMclr k d s
  | .vmseqVV k d u0 t a b mask => Sys2Proof.Machine.execVmseqVV k d u0 t a b mask s
  | .vmsneVV k d u0 t a b mask => Sys2Proof.Machine.execVmsneVV k d u0 t a b mask s
  | .vmsltVV k d u0 t a b mask => Sys2Proof.Machine.execVmsltVV k d u0 t a b mask s
  | .vmsleVV k d u0 t a b mask => Sys2Proof.Machine.execVmsleVV k d u0 t a b mask s
  | .vmsltnVV k d u0 t a b mask => Sys2Proof.Machine.execVmsltnVV k d u0 t a b mask s
  | .vmfeqVV k d u0 t a b mask => Sys2Proof.Machine.execVmfeqVV k d u0 t a b mask s
  | .vmfltVV k d u0 t a b mask => Sys2Proof.Machine.execVmfltVV k d u0 t a b mask s
  | .vmfle k d u0 t a b mask => Sys2Proof.Machine.execVmfle k d u0 t a b mask s
  | .vmfne k d u0 t a b mask => Sys2Proof.Machine.execVmfne k d u0 t a b mask s
  | .vmseqVX k d x t b mask => Sys2Proof.Machine.execVmseqVX k d x t b mask s
  | .vmsneVX k d x t b mask => Sys2Proof.Machine.execVmsneVX k d x t b mask s
  | .vmsltVX k d x t b mask => Sys2Proof.Machine.execVmsltVX k d x t b mask s
  | .vmsleVX k d x t b mask => Sys2Proof.Machine.execVmsleVX k d x t b mask s
  | .vmsgt k d x t b mask => Sys2Proof.Machine.execVmsgt k d x t b mask s
  | .vmsltnVX k d x t b mask => Sys2Proof.Machine.execVmsltnVX k d x t b mask s
  | .vmfeqVX k d x t b mask => Sys2Proof.Machine.execVmfeqVX k d x t b mask s
  | .vmfltVX k d x t b mask => Sys2Proof.Machine.execVmfltVX k d x t b mask s
  | .vmfgt k d x t b mask => Sys2Proof.Machine.execVmfgt k d x t b mask s
  | .vmv k d t b mask => Sys2Proof.Machine.execVmv k d t b mask s
  | .vmvxs k d t b => Sys2Proof.Machine.execVmvxs k d t b s
  | .vmvsx k d x => Sys2Proof.Machine.execVmvsx k d x s
  | .vbcast k d x mask => Sys2Proof.Machine.execVbcast k d x mask s
  | .vqpop k d q => Sys2Proof.Machine.execVqpop k d q s
  | .vqpush k q t b => Sys2Proof.Machine.execVqpush k q t b s
  | .vnsrd k d => Sys2Proof.Machine.execVnsrd k d s
  | .vnswr k t b => Sys2Proof.Machine.execVnswr k t b s
  | .vupdSgdm k d u0 t a b mask => Sys2Proof.Machine.execVupdSgdm k d u0 t a b mask s
  | .vupdAdamw k d u0 t a b mask => Sys2Proof.Machine.execVupdAdamw k d u0 t a b mask s
  | .vsplit k d t b mask => Sys2Proof.Machine.execVsplit k d t b mask s
  | .vjoin k d t b mask => Sys2Proof.Machine.execVjoin k d t b mask s
  | .tcross k t u0 u l a b mask => Sys2Proof.Machine.execTcross k t u0 u l a b mask s
  | .tcrossm k t u0 u l a b mask => Sys2Proof.Machine.execTcrossm k t u0 u l a b mask s
  | .tcrossI k t u0 u l a b mask => Sys2Proof.Machine.execTcrossI k t u0 u l a b mask s
  | .tcrossS k t u0 u a b mask => Sys2Proof.Machine.execTcrossS k t u0 u a b mask s
  | .tzero k t => Sys2Proof.Machine.execTzero k t s
  | .tmvrow k t x v b mask => Sys2Proof.Machine.execTmvrow k t x v b mask s
  | .tmvcol k t x v b mask => Sys2Proof.Machine.execTmvcol k t x v b mask s
  | .trdrow k t x v mask => Sys2Proof.Machine.execTrdrow k t x v mask s
  | .trdcol k t x v mask => Sys2Proof.Machine.execTrdcol k t x v mask s
  | .tcfg k t x => Sys2Proof.Machine.execTcfg k t x s
  | .tscale k t x => Sys2Proof.Machine.execTscale k t x s
  | .tstat k t x => Sys2Proof.Machine.execTstat k t x s

end Sys2Proof.Machine
end

