-- ==== Sys2Proof/Machine/Fetch.lean ====
section
/-!
DEFINITION. Running a word: the fetch (R100, R112, R294, R295), the dispatch of a fetched word to its meaning, and what a
module does of itself when no input says what happens next.
-/

namespace Sys2Proof.Machine

/-! ## The meaning of a word -/

/-- Runs a word of major 0x01 (R107). -/
def run01 (w : BitVec 32) (s : State) : Host.Outcome State Fault Refusal :=
  match (w.extractLsb' 5 6).toNat with
  | 0 => execAdd (w.extractLsb' 21 5) (w.extractLsb' 16 5) (w.extractLsb' 11 5) s
  | 1 => execSub (w.extractLsb' 21 5) (w.extractLsb' 16 5) (w.extractLsb' 11 5) s
  | 2 => execAnd (w.extractLsb' 21 5) (w.extractLsb' 16 5) (w.extractLsb' 11 5) s
  | 3 => execOr (w.extractLsb' 21 5) (w.extractLsb' 16 5) (w.extractLsb' 11 5) s
  | 4 => execXor (w.extractLsb' 21 5) (w.extractLsb' 16 5) (w.extractLsb' 11 5) s
  | 5 => execAndn (w.extractLsb' 21 5) (w.extractLsb' 16 5) (w.extractLsb' 11 5) s
  | 6 => execSll (w.extractLsb' 21 5) (w.extractLsb' 16 5) (w.extractLsb' 11 5) s
  | 7 => execSrl (w.extractLsb' 21 5) (w.extractLsb' 16 5) (w.extractLsb' 11 5) s
  | 8 => execSra (w.extractLsb' 21 5) (w.extractLsb' 16 5) (w.extractLsb' 11 5) s
  | 9 => execRol (w.extractLsb' 21 5) (w.extractLsb' 16 5) (w.extractLsb' 11 5) s
  | 10 => execRor (w.extractLsb' 21 5) (w.extractLsb' 16 5) (w.extractLsb' 11 5) s
  | 11 => execSlt (w.extractLsb' 21 5) (w.extractLsb' 16 5) (w.extractLsb' 11 5) s
  | 12 => execSltn (w.extractLsb' 21 5) (w.extractLsb' 16 5) (w.extractLsb' 11 5) s
  | 13 => execMin (w.extractLsb' 21 5) (w.extractLsb' 16 5) (w.extractLsb' 11 5) s
  | 14 => execMax (w.extractLsb' 21 5) (w.extractLsb' 16 5) (w.extractLsb' 11 5) s
  | 15 => execMinn (w.extractLsb' 21 5) (w.extractLsb' 16 5) (w.extractLsb' 11 5) s
  | 16 => execMaxn (w.extractLsb' 21 5) (w.extractLsb' 16 5) (w.extractLsb' 11 5) s
  | 17 => execMul (w.extractLsb' 21 5) (w.extractLsb' 16 5) (w.extractLsb' 11 5) s
  | 18 => execMulh (w.extractLsb' 21 5) (w.extractLsb' 16 5) (w.extractLsb' 11 5) s
  | 19 => execMulhn (w.extractLsb' 21 5) (w.extractLsb' 16 5) (w.extractLsb' 11 5) s
  | 20 => execDiv (w.extractLsb' 21 5) (w.extractLsb' 16 5) (w.extractLsb' 11 5) s
  | 21 => execDivn (w.extractLsb' 21 5) (w.extractLsb' 16 5) (w.extractLsb' 11 5) s
  | 22 => execRem (w.extractLsb' 21 5) (w.extractLsb' 16 5) (w.extractLsb' 11 5) s
  | 23 => execRemn (w.extractLsb' 21 5) (w.extractLsb' 16 5) (w.extractLsb' 11 5) s
  | 24 => execClz (w.extractLsb' 21 5) (w.extractLsb' 16 5) s
  | 25 => execCtz (w.extractLsb' 21 5) (w.extractLsb' 16 5) s
  | 26 => execPopc (w.extractLsb' 21 5) (w.extractLsb' 16 5) s
  | 27 => execSextB (w.extractLsb' 21 5) (w.extractLsb' 16 5) s
  | 28 => execSextH (w.extractLsb' 21 5) (w.extractLsb' 16 5) s
  | 29 => execSextW (w.extractLsb' 21 5) (w.extractLsb' 16 5) s
  | 30 => execZextW (w.extractLsb' 21 5) (w.extractLsb' 16 5) s
  | 31 => execSlli (w.extractLsb' 21 5) (w.extractLsb' 16 5) (w.extractLsb' 0 1 ++ w.extractLsb' 11 5) s
  | 32 => execSrli (w.extractLsb' 21 5) (w.extractLsb' 16 5) (w.extractLsb' 0 1 ++ w.extractLsb' 11 5) s
  | 33 => execSrai (w.extractLsb' 21 5) (w.extractLsb' 16 5) (w.extractLsb' 0 1 ++ w.extractLsb' 11 5) s
  | _ => execIllegalInstruction w s

/-- Runs a word of major 0x0A (R107). -/
def run0A (w : BitVec 32) (s : State) : Host.Outcome State Fault Refusal :=
  match (w.extractLsb' 13 3).toNat with
  | 0 => execLdb (w.extractLsb' 21 5) (w.extractLsb' 16 5) (w.extractLsb' 0 13) s
  | 1 => execLdbn (w.extractLsb' 21 5) (w.extractLsb' 16 5) (w.extractLsb' 0 13) s
  | 2 => execLdh (w.extractLsb' 21 5) (w.extractLsb' 16 5) (w.extractLsb' 0 13) s
  | 3 => execLdhn (w.extractLsb' 21 5) (w.extractLsb' 16 5) (w.extractLsb' 0 13) s
  | 4 => execLdw (w.extractLsb' 21 5) (w.extractLsb' 16 5) (w.extractLsb' 0 13) s
  | 5 => execLdwn (w.extractLsb' 21 5) (w.extractLsb' 16 5) (w.extractLsb' 0 13) s
  | 6 => execLdd (w.extractLsb' 21 5) (w.extractLsb' 16 5) (w.extractLsb' 0 13) s
  | _ => execIllegalInstruction w s

/-- Runs a word of major 0x0B (R107). -/
def run0B (w : BitVec 32) (s : State) : Host.Outcome State Fault Refusal :=
  match (w.extractLsb' 13 3).toNat with
  | 0 => execStb (w.extractLsb' 21 5) (w.extractLsb' 16 5) (w.extractLsb' 0 13) s
  | 1 => execSth (w.extractLsb' 21 5) (w.extractLsb' 16 5) (w.extractLsb' 0 13) s
  | 2 => execStw (w.extractLsb' 21 5) (w.extractLsb' 16 5) (w.extractLsb' 0 13) s
  | 3 => execStd (w.extractLsb' 21 5) (w.extractLsb' 16 5) (w.extractLsb' 0 13) s
  | _ => execIllegalInstruction w s

/-- Runs a word of major 0x0C (R107). -/
def run0C (w : BitVec 32) (s : State) : Host.Outcome State Fault Refusal :=
  match (w.extractLsb' 5 6).toNat with
  | 0 => execAmoAdd (w.extractLsb' 21 5) (w.extractLsb' 16 5) (w.extractLsb' 11 5) (w.extractLsb' 3 2) (w.extractLsb' 1 2) (w.getLsbD 0) s
  | 1 => execAmoAnd (w.extractLsb' 21 5) (w.extractLsb' 16 5) (w.extractLsb' 11 5) (w.extractLsb' 3 2) (w.extractLsb' 1 2) (w.getLsbD 0) s
  | 2 => execAmoOr (w.extractLsb' 21 5) (w.extractLsb' 16 5) (w.extractLsb' 11 5) (w.extractLsb' 3 2) (w.extractLsb' 1 2) (w.getLsbD 0) s
  | 3 => execAmoXor (w.extractLsb' 21 5) (w.extractLsb' 16 5) (w.extractLsb' 11 5) (w.extractLsb' 3 2) (w.extractLsb' 1 2) (w.getLsbD 0) s
  | 4 => execAmoMin (w.extractLsb' 21 5) (w.extractLsb' 16 5) (w.extractLsb' 11 5) (w.extractLsb' 3 2) (w.extractLsb' 1 2) (w.getLsbD 0) s
  | 5 => execAmoMax (w.extractLsb' 21 5) (w.extractLsb' 16 5) (w.extractLsb' 11 5) (w.extractLsb' 3 2) (w.extractLsb' 1 2) (w.getLsbD 0) s
  | 6 => execAmoMinn (w.extractLsb' 21 5) (w.extractLsb' 16 5) (w.extractLsb' 11 5) (w.extractLsb' 3 2) (w.extractLsb' 1 2) (w.getLsbD 0) s
  | 7 => execAmoMaxn (w.extractLsb' 21 5) (w.extractLsb' 16 5) (w.extractLsb' 11 5) (w.extractLsb' 3 2) (w.extractLsb' 1 2) (w.getLsbD 0) s
  | 8 => execAmoSwap (w.extractLsb' 21 5) (w.extractLsb' 16 5) (w.extractLsb' 11 5) (w.extractLsb' 3 2) (w.extractLsb' 1 2) (w.getLsbD 0) s
  | 9 => execAmoCas (w.extractLsb' 21 5) (w.extractLsb' 16 5) (w.extractLsb' 11 5) (w.extractLsb' 3 2) (w.extractLsb' 1 2) (w.getLsbD 0) s
  | 10 => execLdAcq (w.extractLsb' 21 5) (w.extractLsb' 16 5) (w.extractLsb' 1 2) (w.getLsbD 0) s
  | 11 => execStRel (w.extractLsb' 16 5) (w.extractLsb' 11 5) (w.extractLsb' 1 2) (w.getLsbD 0) s
  | _ => execIllegalInstruction w s

/-- Runs a word of major 0x0D (R107). -/
def run0D (w : BitVec 32) (s : State) : Host.Outcome State Fault Refusal :=
  match (w.extractLsb' 5 6).toNat with
  | 0 => execFadd (w.extractLsb' 21 5) (w.extractLsb' 16 5) (w.extractLsb' 11 5) s
  | 1 => execFsub (w.extractLsb' 21 5) (w.extractLsb' 16 5) (w.extractLsb' 11 5) s
  | 2 => execFmul (w.extractLsb' 21 5) (w.extractLsb' 16 5) (w.extractLsb' 11 5) s
  | 3 => execFdiv (w.extractLsb' 21 5) (w.extractLsb' 16 5) (w.extractLsb' 11 5) s
  | 4 => execFsqrt (w.extractLsb' 21 5) (w.extractLsb' 16 5) s
  | 5 => execFmin (w.extractLsb' 21 5) (w.extractLsb' 16 5) (w.extractLsb' 11 5) s
  | 6 => execFmax (w.extractLsb' 21 5) (w.extractLsb' 16 5) (w.extractLsb' 11 5) s
  | 7 => execFmac (w.extractLsb' 21 5) (w.extractLsb' 16 5) (w.extractLsb' 11 5) s
  | 8 => execFcvtfi (w.extractLsb' 21 5) (w.extractLsb' 16 5) s
  | 9 => execFcvtif (w.extractLsb' 21 5) (w.extractLsb' 16 5) s
  | 10 => execFeq (w.extractLsb' 21 5) (w.extractLsb' 16 5) (w.extractLsb' 11 5) s
  | 11 => execFlt (w.extractLsb' 21 5) (w.extractLsb' 16 5) (w.extractLsb' 11 5) s
  | 12 => execFle (w.extractLsb' 21 5) (w.extractLsb' 16 5) (w.extractLsb' 11 5) s
  | 13 => execFkind (w.extractLsb' 21 5) (w.extractLsb' 16 5) s
  | 14 => execFcvtbf (w.extractLsb' 21 5) (w.extractLsb' 16 5) s
  | 15 => execFmvbf (w.extractLsb' 21 5) (w.extractLsb' 16 5) s
  | _ => execIllegalInstruction w s

/-- Runs a word of major 0x16 (R107). -/
def run16 (w : BitVec 32) (s : State) : Host.Outcome State Fault Refusal :=
  match (w.extractLsb' 24 2).toNat with
  | 0 => execLoopSet (w.extractLsb' 21 3) s
  | 1 => execLoopEnd (w.extractLsb' 21 3) (w.extractLsb' 0 16) s
  | 2 => execLoopIdx (w.extractLsb' 21 3) (w.extractLsb' 16 5) s
  | 3 => execLoopBrk (w.extractLsb' 21 3) (w.extractLsb' 0 16) s
  | _ => execIllegalInstruction w s

/-- Runs a word of major 0x17 (R107). -/
def run17 (w : BitVec 32) (s : State) : Host.Outcome State Fault Refusal :=
  match (w.extractLsb' 5 6).toNat with
  | 0 => execQpush (w.extractLsb' 16 5) (w.extractLsb' 11 5) s
  | 1 => execQpop (w.extractLsb' 21 5) (w.extractLsb' 11 5) s
  | 2 => execQpeek (w.extractLsb' 21 5) (w.extractLsb' 11 5) s
  | 3 => execQtest (w.extractLsb' 21 5) (w.extractLsb' 11 5) s
  | 4 => execQclose (w.extractLsb' 11 5) s
  | 5 => execBpush (w.extractLsb' 16 5) s
  | 6 => execQbr (w.extractLsb' 11 15 ++ w.extractLsb' 0 5) s
  | 7 => execSprd (w.extractLsb' 21 5) (w.extractLsb' 16 5) (w.extractLsb' 11 5) s
  | 8 => execSpwr (w.extractLsb' 21 5) (w.extractLsb' 16 5) (w.extractLsb' 11 5) s
  | 9 => execQflush (w.extractLsb' 11 5) s
  | 10 => execQdepth (w.extractLsb' 21 5) (w.extractLsb' 11 5) s
  | _ => execIllegalInstruction w s

/-- Runs a word of major 0x18 (R107). -/
def run18 (w : BitVec 32) (s : State) : Host.Outcome State Fault Refusal :=
  match (w.extractLsb' 14 2).toNat with
  | 0 => execCsrr (w.extractLsb' 21 5) (w.extractLsb' 0 12) s
  | 1 => execCsrw (w.extractLsb' 21 5) (w.extractLsb' 16 5) (w.extractLsb' 0 12) s
  | 2 => execCsrs (w.extractLsb' 21 5) (w.extractLsb' 16 5) (w.extractLsb' 0 12) s
  | 3 => execCsrc (w.extractLsb' 21 5) (w.extractLsb' 16 5) (w.extractLsb' 0 12) s
  | _ => execIllegalInstruction w s

/-- Runs a word of major 0x19 (R107). -/
def run19 (w : BitVec 32) (s : State) : Host.Outcome State Fault Refusal :=
  match (w.extractLsb' 5 6).toNat with
  | 0 => execFenceAv (w.extractLsb' 1 2) s
  | 1 => execFenceVa (w.extractLsb' 1 2) s
  | 2 => execFenceVV (w.extractLsb' 1 2) s
  | 3 => execFenceAll (w.extractLsb' 1 2) s
  | 4 => execBarArv (w.extractLsb' 11 5) (w.extractLsb' 1 2) s
  | 5 => execBarWt (w.extractLsb' 11 5) (w.extractLsb' 1 2) s
  | 6 => execBarSync (w.extractLsb' 11 5) (w.extractLsb' 1 2) s
  | 7 => execYield s
  | 8 => execWfe s
  | 9 => execSev (w.extractLsb' 16 5) (w.extractLsb' 1 2) s
  | _ => execIllegalInstruction w s

/-- Runs a word of major 0x1A (R107). -/
def run1A (w : BitVec 32) (s : State) : Host.Outcome State Fault Refusal :=
  match (w.extractLsb' 5 6).toNat with
  | 0 => execTrap (w.extractLsb' 16 5) s
  | 1 => execSvc (w.extractLsb' 16 5) s
  | 2 => execTret s
  | 3 => execHalt s
  | 4 => execDbrk s
  | 5 => execTlbi (w.extractLsb' 16 5) (w.extractLsb' 11 5) s
  | 6 => execVsave (w.extractLsb' 16 5) (w.extractLsb' 11 5) s
  | 7 => execVrest (w.extractLsb' 16 5) (w.extractLsb' 11 5) s
  | 8 => execWfi s
  | _ => execIllegalInstruction w s

/-- Runs a word of major 0x1B (R107). -/
def run1B (w : BitVec 32) (s : State) : Host.Outcome State Fault Refusal :=
  match (w.extractLsb' 5 6).toNat with
  | 0 => execCpy (w.extractLsb' 21 5) (w.extractLsb' 16 5) (w.extractLsb' 3 2) (w.getLsbD 1) (w.getLsbD 0) s
  | 1 => execCpyq (w.extractLsb' 21 5) (w.extractLsb' 16 5) (w.extractLsb' 3 2) s
  | 2 => execCpys (w.extractLsb' 21 5) (w.extractLsb' 16 5) (w.extractLsb' 3 2) s
  | 3 => execGath (w.extractLsb' 21 5) (w.extractLsb' 16 5) (w.extractLsb' 3 2) (w.getLsbD 1) (w.getLsbD 0) s
  | 4 => execScad (w.extractLsb' 21 5) (w.extractLsb' 16 5) (w.extractLsb' 3 2) (w.getLsbD 1) (w.getLsbD 0) s
  | 5 => execColl (w.extractLsb' 21 5) (w.extractLsb' 16 5) (w.extractLsb' 3 2) s
  | 6 => execPub (w.extractLsb' 21 5) (w.extractLsb' 16 5) (w.extractLsb' 3 2) s
  | 7 => execTokw (w.extractLsb' 21 5) (w.extractLsb' 16 5) s
  | 8 => execToks (w.extractLsb' 21 5) (w.extractLsb' 16 5) s
  | 9 => execMig (w.extractLsb' 21 5) (w.extractLsb' 16 5) s
  | _ => execIllegalInstruction w s

/-- Runs a word of major 0x1C (R107). -/
def run1C (w : BitVec 32) (s : State) : Host.Outcome State Fault Refusal :=
  match (w.extractLsb' 5 6).toNat with
  | 0 => execKvfork (w.extractLsb' 21 5) (w.extractLsb' 16 5) (w.extractLsb' 11 5) (w.extractLsb' 3 2) s
  | 1 => execKvapp (w.extractLsb' 21 5) (w.extractLsb' 16 5) (w.extractLsb' 11 5) (w.extractLsb' 3 2) s
  | 2 => execKvtag (w.extractLsb' 21 5) (w.extractLsb' 16 5) (w.extractLsb' 11 5) (w.extractLsb' 3 2) s
  | 3 => execKvret (w.extractLsb' 21 5) (w.extractLsb' 16 5) (w.extractLsb' 11 5) (w.extractLsb' 3 2) s
  | 4 => execKvres (w.extractLsb' 21 5) (w.extractLsb' 16 5) (w.extractLsb' 11 5) (w.extractLsb' 3 2) s
  | 5 => execKvpin (w.extractLsb' 21 5) (w.extractLsb' 16 5) (w.extractLsb' 11 5) (w.extractLsb' 3 2) (w.getLsbD 2) (w.getLsbD 1) (w.getLsbD 0) s
  | 6 => execKvlook (w.extractLsb' 21 5) (w.extractLsb' 16 5) (w.extractLsb' 11 5) (w.extractLsb' 3 2) s
  | _ => execIllegalInstruction w s

/-- Runs a word of major 0x1D (R107). -/
def run1D (w : BitVec 32) (s : State) : Host.Outcome State Fault Refusal :=
  match (w.extractLsb' 5 6).toNat with
  | 0 => execRvchain (w.extractLsb' 16 5) s
  | 1 => execRvret s
  | 2 => execRvq (w.extractLsb' 21 5) s
  | 3 => execRvabort (w.extractLsb' 11 5) s
  | _ => execIllegalInstruction w s

/-- Runs a word of major 0x20 (R107). -/
def run20 (w : BitVec 32) (s : State) : Host.Outcome State Fault Refusal :=
  match (w.extractLsb' 0 5).toNat with
  | 0 => execVcfg (w.extractLsb' 20 5) (w.extractLsb' 15 5) (w.extractLsb' 10 5) s
  | 1 => execVcfgi (w.extractLsb' 20 5) (w.extractLsb' 15 5) (w.extractLsb' 5 10) s
  | 2 => execVreconf (w.extractLsb' 10 2) s
  | _ => execIllegalInstruction w s

/-- Runs a word of major 0x21 (R107). -/
def run21 (w : BitVec 32) (s : State) : Host.Outcome State Fault Refusal :=
  match (w.extractLsb' 0 5).toNat with
  | 0 => execVle (w.getLsbD 25) (w.extractLsb' 20 5) (w.extractLsb' 15 5) (maskOf w) s
  | 1 => execVlse (w.getLsbD 25) (w.extractLsb' 20 5) (w.extractLsb' 15 5) (w.extractLsb' 10 5) (maskOf w) s
  | 2 => execVlseg (w.getLsbD 25) (w.extractLsb' 20 5) (w.extractLsb' 15 5) (w.extractLsb' 10 3) (maskOf w) s
  | 3 => execVlx (w.getLsbD 25) (w.extractLsb' 20 5) (w.extractLsb' 15 5) (w.extractLsb' 10 5) (maskOf w) s
  | 4 => execVlb (w.getLsbD 25) (w.extractLsb' 20 5) (w.extractLsb' 15 5) (w.extractLsb' 10 5) (maskOf w) s
  | 5 => execVlkv (w.getLsbD 25) (w.extractLsb' 20 5) (w.extractLsb' 15 5) (w.extractLsb' 10 5) s
  | 6 => execVlsc (w.getLsbD 25) (w.extractLsb' 20 5) (w.extractLsb' 15 5) s
  | _ => execIllegalInstruction w s

/-- Runs a word of major 0x22 (R107). -/
def run22 (w : BitVec 32) (s : State) : Host.Outcome State Fault Refusal :=
  match (w.extractLsb' 0 5).toNat with
  | 0 => execVse (w.getLsbD 25) (w.extractLsb' 20 5) (w.extractLsb' 15 5) (w.getLsbD 9) (maskOf w) s
  | 1 => execVsse (w.getLsbD 25) (w.extractLsb' 20 5) (w.extractLsb' 15 5) (w.extractLsb' 10 5) (w.getLsbD 9) (maskOf w) s
  | 2 => execVsseg (w.getLsbD 25) (w.extractLsb' 20 5) (w.extractLsb' 15 5) (w.extractLsb' 10 3) (w.getLsbD 9) (maskOf w) s
  | 3 => execVsx (w.getLsbD 25) (w.extractLsb' 20 5) (w.extractLsb' 15 5) (w.extractLsb' 10 5) (w.getLsbD 9) (maskOf w) s
  | 4 => execVsxo (w.getLsbD 25) (w.extractLsb' 20 5) (w.extractLsb' 15 5) (w.extractLsb' 10 5) (w.getLsbD 9) (maskOf w) s
  | 5 => execVsb (w.getLsbD 25) (w.extractLsb' 20 5) (w.extractLsb' 15 5) (w.extractLsb' 10 5) (w.getLsbD 9) (maskOf w) s
  | 6 => execVssc (w.getLsbD 25) (w.extractLsb' 20 5) (w.extractLsb' 15 5) s
  | _ => execIllegalInstruction w s

/-- Runs a word of major 0x23 (R107). -/
def run23 (w : BitVec 32) (s : State) : Host.Outcome State Fault Refusal :=
  match (w.extractLsb' 0 5).toNat with
  | 0 => execVlld (w.getLsbD 25) (w.extractLsb' 20 5) (w.extractLsb' 15 5) (w.extractLsb' 10 5) (maskOf w) s
  | 1 => execVlst (w.getLsbD 25) (w.extractLsb' 20 5) (w.extractLsb' 15 5) (w.extractLsb' 10 5) (w.getLsbD 9) (maskOf w) s
  | 2 => execVlla (w.getLsbD 25) (w.extractLsb' 20 5) (w.extractLsb' 15 5) (w.extractLsb' 10 5) (maskOf w) s
  | _ => execIllegalInstruction w s

/-- Runs a word of major 0x24 (R107). -/
def run24 (w : BitVec 32) (s : State) : Host.Outcome State Fault Refusal :=
  match (w.extractLsb' 0 5).toNat with
  | 0 => execVaddVV (w.getLsbD 25) (w.extractLsb' 20 5) (w.extractLsb' 15 5) (w.extractLsb' 10 5) (w.getLsbD 9) (w.getLsbD 8) (maskOf w) s
  | 1 => execVsubVV (w.getLsbD 25) (w.extractLsb' 20 5) (w.extractLsb' 15 5) (w.extractLsb' 10 5) (w.getLsbD 9) (w.getLsbD 8) (maskOf w) s
  | 2 => execVmulVV (w.getLsbD 25) (w.extractLsb' 20 5) (w.extractLsb' 15 5) (w.extractLsb' 10 5) (w.getLsbD 9) (w.getLsbD 8) (maskOf w) s
  | 3 => execVmulh (w.getLsbD 25) (w.extractLsb' 20 5) (w.extractLsb' 15 5) (w.extractLsb' 10 5) (w.getLsbD 9) (w.getLsbD 8) (maskOf w) s
  | 4 => execVmulhn (w.getLsbD 25) (w.extractLsb' 20 5) (w.extractLsb' 15 5) (w.extractLsb' 10 5) (w.getLsbD 9) (w.getLsbD 8) (maskOf w) s
  | 5 => execVdiv (w.getLsbD 25) (w.extractLsb' 20 5) (w.extractLsb' 15 5) (w.extractLsb' 10 5) (w.getLsbD 9) (w.getLsbD 8) (maskOf w) s
  | 6 => execVdivn (w.getLsbD 25) (w.extractLsb' 20 5) (w.extractLsb' 15 5) (w.extractLsb' 10 5) (w.getLsbD 9) (w.getLsbD 8) (maskOf w) s
  | 7 => execVrem (w.getLsbD 25) (w.extractLsb' 20 5) (w.extractLsb' 15 5) (w.extractLsb' 10 5) (w.getLsbD 9) (w.getLsbD 8) (maskOf w) s
  | 8 => execVremn (w.getLsbD 25) (w.extractLsb' 20 5) (w.extractLsb' 15 5) (w.extractLsb' 10 5) (w.getLsbD 9) (w.getLsbD 8) (maskOf w) s
  | 9 => execVandVV (w.getLsbD 25) (w.extractLsb' 20 5) (w.extractLsb' 15 5) (w.extractLsb' 10 5) (w.getLsbD 9) (w.getLsbD 8) (maskOf w) s
  | 10 => execVorVV (w.getLsbD 25) (w.extractLsb' 20 5) (w.extractLsb' 15 5) (w.extractLsb' 10 5) (w.getLsbD 9) (w.getLsbD 8) (maskOf w) s
  | 11 => execVxorVV (w.getLsbD 25) (w.extractLsb' 20 5) (w.extractLsb' 15 5) (w.extractLsb' 10 5) (w.getLsbD 9) (w.getLsbD 8) (maskOf w) s
  | 12 => execVsllVV (w.getLsbD 25) (w.extractLsb' 20 5) (w.extractLsb' 15 5) (w.extractLsb' 10 5) (w.getLsbD 9) (w.getLsbD 8) (maskOf w) s
  | 13 => execVsrlVV (w.getLsbD 25) (w.extractLsb' 20 5) (w.extractLsb' 15 5) (w.extractLsb' 10 5) (w.getLsbD 9) (w.getLsbD 8) (maskOf w) s
  | 14 => execVsraVV (w.getLsbD 25) (w.extractLsb' 20 5) (w.extractLsb' 15 5) (w.extractLsb' 10 5) (w.getLsbD 9) (w.getLsbD 8) (maskOf w) s
  | 15 => execVminVV (w.getLsbD 25) (w.extractLsb' 20 5) (w.extractLsb' 15 5) (w.extractLsb' 10 5) (w.getLsbD 9) (w.getLsbD 8) (maskOf w) s
  | 16 => execVmaxVV (w.getLsbD 25) (w.extractLsb' 20 5) (w.extractLsb' 15 5) (w.extractLsb' 10 5) (w.getLsbD 9) (w.getLsbD 8) (maskOf w) s
  | 17 => execVminn (w.getLsbD 25) (w.extractLsb' 20 5) (w.extractLsb' 15 5) (w.extractLsb' 10 5) (w.getLsbD 9) (w.getLsbD 8) (maskOf w) s
  | 18 => execVmaxn (w.getLsbD 25) (w.extractLsb' 20 5) (w.extractLsb' 15 5) (w.extractLsb' 10 5) (w.getLsbD 9) (w.getLsbD 8) (maskOf w) s
  | 19 => execVmaccVV (w.getLsbD 25) (w.extractLsb' 20 5) (w.extractLsb' 15 5) (w.extractLsb' 10 5) (w.getLsbD 9) (w.getLsbD 8) (maskOf w) s
  | 20 => execVwadd (w.getLsbD 25) (w.extractLsb' 20 5) (w.extractLsb' 15 5) (w.extractLsb' 10 5) (w.getLsbD 9) (w.getLsbD 8) (maskOf w) s
  | 21 => execVwmul (w.getLsbD 25) (w.extractLsb' 20 5) (w.extractLsb' 15 5) (w.extractLsb' 10 5) (w.getLsbD 9) (w.getLsbD 8) (maskOf w) s
  | 22 => execVwmacc (w.getLsbD 25) (w.extractLsb' 20 5) (w.extractLsb' 15 5) (w.extractLsb' 10 5) (w.getLsbD 9) (w.getLsbD 8) (maskOf w) s
  | 23 => execVnsra (w.getLsbD 25) (w.extractLsb' 20 5) (w.extractLsb' 15 5) (w.extractLsb' 10 5) (w.getLsbD 9) (w.getLsbD 8) (maskOf w) s
  | 24 => execVsadd (w.getLsbD 25) (w.extractLsb' 20 5) (w.extractLsb' 15 5) (w.extractLsb' 10 5) (w.getLsbD 9) (w.getLsbD 8) (maskOf w) s
  | 25 => execVssub (w.getLsbD 25) (w.extractLsb' 20 5) (w.extractLsb' 15 5) (w.extractLsb' 10 5) (w.getLsbD 9) (w.getLsbD 8) (maskOf w) s
  | _ => execIllegalInstruction w s

/-- Runs a word of major 0x25 (R107). -/
def run25 (w : BitVec 32) (s : State) : Host.Outcome State Fault Refusal :=
  match (w.extractLsb' 0 5).toNat with
  | 0 => execVaddVX (w.getLsbD 25) (w.extractLsb' 20 5) (w.extractLsb' 15 5) (w.extractLsb' 10 5) (w.getLsbD 8) (maskOf w) s
  | 1 => execVsubVX (w.getLsbD 25) (w.extractLsb' 20 5) (w.extractLsb' 15 5) (w.extractLsb' 10 5) (w.getLsbD 8) (maskOf w) s
  | 2 => execVmulVX (w.getLsbD 25) (w.extractLsb' 20 5) (w.extractLsb' 15 5) (w.extractLsb' 10 5) (w.getLsbD 8) (maskOf w) s
  | 3 => execVandVX (w.getLsbD 25) (w.extractLsb' 20 5) (w.extractLsb' 15 5) (w.extractLsb' 10 5) (w.getLsbD 8) (maskOf w) s
  | 4 => execVorVX (w.getLsbD 25) (w.extractLsb' 20 5) (w.extractLsb' 15 5) (w.extractLsb' 10 5) (w.getLsbD 8) (maskOf w) s
  | 5 => execVxorVX (w.getLsbD 25) (w.extractLsb' 20 5) (w.extractLsb' 15 5) (w.extractLsb' 10 5) (w.getLsbD 8) (maskOf w) s
  | 6 => execVsllVX (w.getLsbD 25) (w.extractLsb' 20 5) (w.extractLsb' 15 5) (w.extractLsb' 10 5) (w.getLsbD 8) (maskOf w) s
  | 7 => execVsrlVX (w.getLsbD 25) (w.extractLsb' 20 5) (w.extractLsb' 15 5) (w.extractLsb' 10 5) (w.getLsbD 8) (maskOf w) s
  | 8 => execVsraVX (w.getLsbD 25) (w.extractLsb' 20 5) (w.extractLsb' 15 5) (w.extractLsb' 10 5) (w.getLsbD 8) (maskOf w) s
  | 9 => execVminVX (w.getLsbD 25) (w.extractLsb' 20 5) (w.extractLsb' 15 5) (w.extractLsb' 10 5) (w.getLsbD 8) (maskOf w) s
  | 10 => execVmaxVX (w.getLsbD 25) (w.extractLsb' 20 5) (w.extractLsb' 15 5) (w.extractLsb' 10 5) (w.getLsbD 8) (maskOf w) s
  | 11 => execVmaccVX (w.getLsbD 25) (w.extractLsb' 20 5) (w.extractLsb' 15 5) (w.extractLsb' 10 5) (w.getLsbD 8) (maskOf w) s
  | _ => execIllegalInstruction w s

/-- Runs a word of major 0x26 (R107). -/
def run26 (w : BitVec 32) (s : State) : Host.Outcome State Fault Refusal :=
  match (w.extractLsb' 0 5).toNat with
  | 0 => execVaddVI (w.getLsbD 25) (w.extractLsb' 20 5) (w.extractLsb' 15 5) (w.extractLsb' 10 5) (w.getLsbD 8) (maskOf w) s
  | 1 => execVandVI (w.getLsbD 25) (w.extractLsb' 20 5) (w.extractLsb' 15 5) (w.extractLsb' 10 5) (w.getLsbD 8) (maskOf w) s
  | 2 => execVorVI (w.getLsbD 25) (w.extractLsb' 20 5) (w.extractLsb' 15 5) (w.extractLsb' 10 5) (w.getLsbD 8) (maskOf w) s
  | 3 => execVxorVI (w.getLsbD 25) (w.extractLsb' 20 5) (w.extractLsb' 15 5) (w.extractLsb' 10 5) (w.getLsbD 8) (maskOf w) s
  | 4 => execVsllVI (w.getLsbD 25) (w.extractLsb' 20 5) (w.extractLsb' 15 5) (w.extractLsb' 10 5) (w.getLsbD 8) (maskOf w) s
  | 5 => execVsrlVI (w.getLsbD 25) (w.extractLsb' 20 5) (w.extractLsb' 15 5) (w.extractLsb' 10 5) (w.getLsbD 8) (maskOf w) s
  | 6 => execVsraVI (w.getLsbD 25) (w.extractLsb' 20 5) (w.extractLsb' 15 5) (w.extractLsb' 10 5) (w.getLsbD 8) (maskOf w) s
  | _ => execIllegalInstruction w s

/-- Runs a word of major 0x27 (R107). -/
def run27 (w : BitVec 32) (s : State) : Host.Outcome State Fault Refusal :=
  match (w.extractLsb' 0 5).toNat with
  | 0 => execVfaddVV (w.getLsbD 25) (w.extractLsb' 20 5) (w.extractLsb' 15 5) (w.extractLsb' 10 5) (w.getLsbD 9) (w.getLsbD 8) (maskOf w) s
  | 1 => execVfsubVV (w.getLsbD 25) (w.extractLsb' 20 5) (w.extractLsb' 15 5) (w.extractLsb' 10 5) (w.getLsbD 9) (w.getLsbD 8) (maskOf w) s
  | 2 => execVfmulVV (w.getLsbD 25) (w.extractLsb' 20 5) (w.extractLsb' 15 5) (w.extractLsb' 10 5) (w.getLsbD 9) (w.getLsbD 8) (maskOf w) s
  | 3 => execVfdiv (w.getLsbD 25) (w.extractLsb' 20 5) (w.extractLsb' 15 5) (w.extractLsb' 10 5) (w.getLsbD 9) (w.getLsbD 8) (maskOf w) s
  | 4 => execVfsqrt (w.getLsbD 25) (w.extractLsb' 20 5) (w.extractLsb' 10 5) (w.getLsbD 8) (maskOf w) s
  | 5 => execVfminVV (w.getLsbD 25) (w.extractLsb' 20 5) (w.extractLsb' 15 5) (w.extractLsb' 10 5) (w.getLsbD 9) (w.getLsbD 8) (maskOf w) s
  | 6 => execVfmaxVV (w.getLsbD 25) (w.extractLsb' 20 5) (w.extractLsb' 15 5) (w.extractLsb' 10 5) (w.getLsbD 9) (w.getLsbD 8) (maskOf w) s
  | 7 => execVfmaccVV (w.getLsbD 25) (w.extractLsb' 20 5) (w.extractLsb' 15 5) (w.extractLsb' 10 5) (w.getLsbD 9) (w.getLsbD 8) (maskOf w) s
  | 8 => execVfsubm (w.getLsbD 25) (w.extractLsb' 20 5) (w.extractLsb' 15 5) (w.extractLsb' 10 5) (w.getLsbD 9) (w.getLsbD 8) (maskOf w) s
  | 9 => execVfwadd (w.getLsbD 25) (w.extractLsb' 20 5) (w.extractLsb' 15 5) (w.extractLsb' 10 5) (w.getLsbD 9) (w.getLsbD 8) (maskOf w) s
  | 10 => execVfwmul (w.getLsbD 25) (w.extractLsb' 20 5) (w.extractLsb' 15 5) (w.extractLsb' 10 5) (w.getLsbD 9) (w.getLsbD 8) (maskOf w) s
  | 11 => execVfwmacc (w.getLsbD 25) (w.extractLsb' 20 5) (w.extractLsb' 15 5) (w.extractLsb' 10 5) (w.getLsbD 9) (w.getLsbD 8) (maskOf w) s
  | 12 => execVfexp (w.getLsbD 25) (w.extractLsb' 20 5) (w.extractLsb' 10 5) (w.getLsbD 8) (maskOf w) s
  | 13 => execVflog (w.getLsbD 25) (w.extractLsb' 20 5) (w.extractLsb' 10 5) (w.getLsbD 8) (maskOf w) s
  | 14 => execVfrec (w.getLsbD 25) (w.extractLsb' 20 5) (w.extractLsb' 10 5) (w.getLsbD 8) (maskOf w) s
  | 15 => execVfrsq (w.getLsbD 25) (w.extractLsb' 20 5) (w.extractLsb' 10 5) (w.getLsbD 8) (maskOf w) s
  | 16 => execVfcsgn (w.getLsbD 25) (w.extractLsb' 20 5) (w.extractLsb' 15 5) (w.extractLsb' 10 5) (w.getLsbD 9) (w.getLsbD 8) (maskOf w) s
  | 17 => execVfkind (w.getLsbD 25) (w.extractLsb' 20 5) (w.extractLsb' 10 5) (w.getLsbD 8) (maskOf w) s
  | _ => execIllegalInstruction w s

/-- Runs a word of major 0x28 (R107). -/
def run28 (w : BitVec 32) (s : State) : Host.Outcome State Fault Refusal :=
  match (w.extractLsb' 0 5).toNat with
  | 0 => execVfaddVX (w.getLsbD 25) (w.extractLsb' 20 5) (w.extractLsb' 15 5) (w.extractLsb' 10 5) (w.getLsbD 8) (maskOf w) s
  | 1 => execVfsubVX (w.getLsbD 25) (w.extractLsb' 20 5) (w.extractLsb' 15 5) (w.extractLsb' 10 5) (w.getLsbD 8) (maskOf w) s
  | 2 => execVfmulVX (w.getLsbD 25) (w.extractLsb' 20 5) (w.extractLsb' 15 5) (w.extractLsb' 10 5) (w.getLsbD 8) (maskOf w) s
  | 3 => execVfmaccVX (w.getLsbD 25) (w.extractLsb' 20 5) (w.extractLsb' 15 5) (w.extractLsb' 10 5) (w.getLsbD 8) (maskOf w) s
  | 4 => execVfminVX (w.getLsbD 25) (w.extractLsb' 20 5) (w.extractLsb' 15 5) (w.extractLsb' 10 5) (w.getLsbD 8) (maskOf w) s
  | 5 => execVfmaxVX (w.getLsbD 25) (w.extractLsb' 20 5) (w.extractLsb' 15 5) (w.extractLsb' 10 5) (w.getLsbD 8) (maskOf w) s
  | _ => execIllegalInstruction w s

/-- Runs a word of major 0x29 (R107). -/
def run29 (w : BitVec 32) (s : State) : Host.Outcome State Fault Refusal :=
  match (w.extractLsb' 0 5).toNat with
  | 0 => execVfcvtW (w.getLsbD 25) (w.extractLsb' 20 5) (w.extractLsb' 15 5) (w.extractLsb' 10 5) (w.getLsbD 8) (maskOf w) s
  | 1 => execVfcvtN (w.getLsbD 25) (w.extractLsb' 20 5) (w.extractLsb' 15 5) (w.extractLsb' 10 5) (w.getLsbD 8) (maskOf w) s
  | 2 => execVfcvtFi (w.getLsbD 25) (w.extractLsb' 20 5) (w.extractLsb' 15 5) (w.extractLsb' 10 5) (w.getLsbD 8) (maskOf w) s
  | 3 => execVfcvtIf (w.getLsbD 25) (w.extractLsb' 20 5) (w.extractLsb' 15 5) (w.extractLsb' 10 5) (w.getLsbD 8) (maskOf w) s
  | 4 => execVcvtI (w.getLsbD 25) (w.extractLsb' 20 5) (w.extractLsb' 15 5) (w.extractLsb' 10 5) (w.getLsbD 9) (w.getLsbD 8) (maskOf w) s
  | 5 => execVcvtq (w.getLsbD 25) (w.extractLsb' 20 5) (w.extractLsb' 15 5) (w.extractLsb' 10 5) (w.getLsbD 8) (maskOf w) s
  | 6 => execVdeq (w.getLsbD 25) (w.extractLsb' 20 5) (w.extractLsb' 15 5) (w.extractLsb' 10 5) (w.getLsbD 8) (maskOf w) s
  | _ => execIllegalInstruction w s

/-- Runs a word of major 0x2A (R107). -/
def run2A (w : BitVec 32) (s : State) : Host.Outcome State Fault Refusal :=
  match (w.extractLsb' 0 5).toNat with
  | 0 => execVredsum (w.getLsbD 25) (w.extractLsb' 20 5) (w.extractLsb' 15 5) (w.extractLsb' 10 5) (w.getLsbD 9) (w.getLsbD 8) (maskOf w) s
  | 1 => execVredmax (w.getLsbD 25) (w.extractLsb' 20 5) (w.extractLsb' 15 5) (w.extractLsb' 10 5) (w.getLsbD 9) (w.getLsbD 8) (maskOf w) s
  | 2 => execVredmin (w.getLsbD 25) (w.extractLsb' 20 5) (w.extractLsb' 15 5) (w.extractLsb' 10 5) (w.getLsbD 9) (w.getLsbD 8) (maskOf w) s
  | 3 => execVredmaxn (w.getLsbD 25) (w.extractLsb' 20 5) (w.extractLsb' 15 5) (w.extractLsb' 10 5) (w.getLsbD 9) (w.getLsbD 8) (maskOf w) s
  | 4 => execVredminn (w.getLsbD 25) (w.extractLsb' 20 5) (w.extractLsb' 15 5) (w.extractLsb' 10 5) (w.getLsbD 9) (w.getLsbD 8) (maskOf w) s
  | 5 => execVredand (w.getLsbD 25) (w.extractLsb' 20 5) (w.extractLsb' 15 5) (w.extractLsb' 10 5) (w.getLsbD 9) (w.getLsbD 8) (maskOf w) s
  | 6 => execVredor (w.getLsbD 25) (w.extractLsb' 20 5) (w.extractLsb' 15 5) (w.extractLsb' 10 5) (w.getLsbD 9) (w.getLsbD 8) (maskOf w) s
  | 7 => execVfredsum (w.getLsbD 25) (w.extractLsb' 20 5) (w.extractLsb' 15 5) (w.extractLsb' 10 5) (w.getLsbD 9) (w.getLsbD 8) (maskOf w) s
  | 8 => execVfredosum (w.getLsbD 25) (w.extractLsb' 20 5) (w.extractLsb' 15 5) (w.extractLsb' 10 5) (w.getLsbD 9) (w.getLsbD 8) (maskOf w) s
  | 9 => execVfredmax (w.getLsbD 25) (w.extractLsb' 20 5) (w.extractLsb' 15 5) (w.extractLsb' 10 5) (w.getLsbD 9) (w.getLsbD 8) (maskOf w) s
  | 10 => execVfredmin (w.getLsbD 25) (w.extractLsb' 20 5) (w.extractLsb' 15 5) (w.extractLsb' 10 5) (w.getLsbD 9) (w.getLsbD 8) (maskOf w) s
  | 11 => execVfwredsum (w.getLsbD 25) (w.extractLsb' 20 5) (w.extractLsb' 15 5) (w.extractLsb' 10 5) (w.getLsbD 9) (w.getLsbD 8) (maskOf w) s
  | 12 => execVfwredosum (w.getLsbD 25) (w.extractLsb' 20 5) (w.extractLsb' 15 5) (w.extractLsb' 10 5) (w.getLsbD 9) (w.getLsbD 8) (maskOf w) s
  | _ => execIllegalInstruction w s

/-- Runs a word of major 0x2B (R107). -/
def run2B (w : BitVec 32) (s : State) : Host.Outcome State Fault Refusal :=
  match (w.extractLsb' 0 5).toNat with
  | 0 => execVslup (w.getLsbD 25) (w.extractLsb' 20 5) (w.extractLsb' 15 5) (w.extractLsb' 10 5) (w.getLsbD 8) (maskOf w) s
  | 1 => execVsldn (w.getLsbD 25) (w.extractLsb' 20 5) (w.extractLsb' 15 5) (w.extractLsb' 10 5) (w.getLsbD 8) (maskOf w) s
  | 2 => execVsl1up (w.getLsbD 25) (w.extractLsb' 20 5) (w.extractLsb' 15 5) (w.extractLsb' 10 5) (w.getLsbD 8) (maskOf w) s
  | 3 => execVsl1dn (w.getLsbD 25) (w.extractLsb' 20 5) (w.extractLsb' 15 5) (w.extractLsb' 10 5) (w.getLsbD 8) (maskOf w) s
  | 4 => execVpull (w.getLsbD 25) (w.extractLsb' 20 5) (w.extractLsb' 15 5) (w.extractLsb' 10 5) (w.getLsbD 9) (w.getLsbD 8) (maskOf w) s
  | 5 => execVpush (w.getLsbD 25) (w.extractLsb' 20 5) (w.extractLsb' 15 5) (w.extractLsb' 10 5) (w.getLsbD 9) (w.getLsbD 8) (maskOf w) s
  | 6 => execVcomp (w.getLsbD 25) (w.extractLsb' 20 5) (w.extractLsb' 10 5) (w.getLsbD 8) (maskOf w) s
  | 7 => execVappend (w.getLsbD 25) (w.extractLsb' 20 5) (w.extractLsb' 15 5) (w.extractLsb' 10 5) (w.getLsbD 8) (maskOf w) s
  | 8 => execVmerge (w.getLsbD 25) (w.extractLsb' 20 5) (w.extractLsb' 15 5) (w.extractLsb' 10 5) (w.getLsbD 9) (w.getLsbD 8) (w.extractLsb' 5 2) s
  | 9 => execVrank (w.getLsbD 25) (w.extractLsb' 20 5) (w.extractLsb' 10 5) (maskOf w) s
  | 10 => execVindex (w.getLsbD 25) (w.extractLsb' 20 5) (maskOf w) s
  | _ => execIllegalInstruction w s

/-- Runs a word of major 0x2C (R107). -/
def run2C (w : BitVec 32) (s : State) : Host.Outcome State Fault Refusal :=
  match (w.extractLsb' 0 5).toNat with
  | 0 => execMand (w.getLsbD 25) (w.extractLsb' 20 5) (w.extractLsb' 15 5) (w.extractLsb' 10 5) s
  | 1 => execMor (w.getLsbD 25) (w.extractLsb' 20 5) (w.extractLsb' 15 5) (w.extractLsb' 10 5) s
  | 2 => execMxor (w.getLsbD 25) (w.extractLsb' 20 5) (w.extractLsb' 15 5) (w.extractLsb' 10 5) s
  | 3 => execMnot (w.getLsbD 25) (w.extractLsb' 20 5) (w.extractLsb' 10 5) s
  | 4 => execMcount (w.getLsbD 25) (w.extractLsb' 20 5) (w.extractLsb' 10 5) (maskOf w) s
  | 5 => execMlow (w.getLsbD 25) (w.extractLsb' 20 5) (w.extractLsb' 10 5) (maskOf w) s
  | 6 => execMpre (w.getLsbD 25) (w.extractLsb' 20 5) (w.extractLsb' 10 5) s
  | 7 => execMmov (w.getLsbD 25) (w.extractLsb' 20 5) (w.extractLsb' 10 5) s
  | 8 => execMset (w.getLsbD 25) (w.extractLsb' 20 5) s
  | 9 => execMclr (w.getLsbD 25) (w.extractLsb' 20 5) s
  | _ => execIllegalInstruction w s

/-- Runs a word of major 0x2D (R107). -/
def run2D (w : BitVec 32) (s : State) : Host.Outcome State Fault Refusal :=
  match (w.extractLsb' 0 5).toNat with
  | 0 => execVmseqVV (w.getLsbD 25) (w.extractLsb' 20 5) (w.extractLsb' 15 5) (w.extractLsb' 10 5) (w.getLsbD 9) (w.getLsbD 8) (maskOf w) s
  | 1 => execVmsneVV (w.getLsbD 25) (w.extractLsb' 20 5) (w.extractLsb' 15 5) (w.extractLsb' 10 5) (w.getLsbD 9) (w.getLsbD 8) (maskOf w) s
  | 2 => execVmsltVV (w.getLsbD 25) (w.extractLsb' 20 5) (w.extractLsb' 15 5) (w.extractLsb' 10 5) (w.getLsbD 9) (w.getLsbD 8) (maskOf w) s
  | 3 => execVmsleVV (w.getLsbD 25) (w.extractLsb' 20 5) (w.extractLsb' 15 5) (w.extractLsb' 10 5) (w.getLsbD 9) (w.getLsbD 8) (maskOf w) s
  | 4 => execVmsltnVV (w.getLsbD 25) (w.extractLsb' 20 5) (w.extractLsb' 15 5) (w.extractLsb' 10 5) (w.getLsbD 9) (w.getLsbD 8) (maskOf w) s
  | 5 => execVmfeqVV (w.getLsbD 25) (w.extractLsb' 20 5) (w.extractLsb' 15 5) (w.extractLsb' 10 5) (w.getLsbD 9) (w.getLsbD 8) (maskOf w) s
  | 6 => execVmfltVV (w.getLsbD 25) (w.extractLsb' 20 5) (w.extractLsb' 15 5) (w.extractLsb' 10 5) (w.getLsbD 9) (w.getLsbD 8) (maskOf w) s
  | 7 => execVmfle (w.getLsbD 25) (w.extractLsb' 20 5) (w.extractLsb' 15 5) (w.extractLsb' 10 5) (w.getLsbD 9) (w.getLsbD 8) (maskOf w) s
  | 8 => execVmfne (w.getLsbD 25) (w.extractLsb' 20 5) (w.extractLsb' 15 5) (w.extractLsb' 10 5) (w.getLsbD 9) (w.getLsbD 8) (maskOf w) s
  | _ => execIllegalInstruction w s

/-- Runs a word of major 0x2E (R107). -/
def run2E (w : BitVec 32) (s : State) : Host.Outcome State Fault Refusal :=
  match (w.extractLsb' 0 5).toNat with
  | 0 => execVmseqVX (w.getLsbD 25) (w.extractLsb' 20 5) (w.extractLsb' 15 5) (w.extractLsb' 10 5) (w.getLsbD 8) (maskOf w) s
  | 1 => execVmsneVX (w.getLsbD 25) (w.extractLsb' 20 5) (w.extractLsb' 15 5) (w.extractLsb' 10 5) (w.getLsbD 8) (maskOf w) s
  | 2 => execVmsltVX (w.getLsbD 25) (w.extractLsb' 20 5) (w.extractLsb' 15 5) (w.extractLsb' 10 5) (w.getLsbD 8) (maskOf w) s
  | 3 => execVmsleVX (w.getLsbD 25) (w.extractLsb' 20 5) (w.extractLsb' 15 5) (w.extractLsb' 10 5) (w.getLsbD 8) (maskOf w) s
  | 4 => execVmsgt (w.getLsbD 25) (w.extractLsb' 20 5) (w.extractLsb' 15 5) (w.extractLsb' 10 5) (w.getLsbD 8) (maskOf w) s
  | 5 => execVmsltnVX (w.getLsbD 25) (w.extractLsb' 20 5) (w.extractLsb' 15 5) (w.extractLsb' 10 5) (w.getLsbD 8) (maskOf w) s
  | 6 => execVmfeqVX (w.getLsbD 25) (w.extractLsb' 20 5) (w.extractLsb' 15 5) (w.extractLsb' 10 5) (w.getLsbD 8) (maskOf w) s
  | 7 => execVmfltVX (w.getLsbD 25) (w.extractLsb' 20 5) (w.extractLsb' 15 5) (w.extractLsb' 10 5) (w.getLsbD 8) (maskOf w) s
  | 8 => execVmfgt (w.getLsbD 25) (w.extractLsb' 20 5) (w.extractLsb' 15 5) (w.extractLsb' 10 5) (w.getLsbD 8) (maskOf w) s
  | _ => execIllegalInstruction w s

/-- Runs a word of major 0x2F (R107). -/
def run2F (w : BitVec 32) (s : State) : Host.Outcome State Fault Refusal :=
  match (w.extractLsb' 0 5).toNat with
  | 0 => execVmv (w.getLsbD 25) (w.extractLsb' 20 5) (w.extractLsb' 10 5) (w.getLsbD 8) (maskOf w) s
  | 1 => execVmvxs (w.getLsbD 25) (w.extractLsb' 20 5) (w.extractLsb' 10 5) (w.getLsbD 8) s
  | 2 => execVmvsx (w.getLsbD 25) (w.extractLsb' 20 5) (w.extractLsb' 15 5) s
  | 3 => execVbcast (w.getLsbD 25) (w.extractLsb' 20 5) (w.extractLsb' 15 5) (maskOf w) s
  | 4 => execVqpop (w.getLsbD 25) (w.extractLsb' 20 5) (w.extractLsb' 15 3) s
  | 5 => execVqpush (w.getLsbD 25) (w.extractLsb' 15 2) (w.extractLsb' 10 5) (w.getLsbD 8) s
  | 6 => execVnsrd (w.getLsbD 25) (w.extractLsb' 20 5) s
  | 7 => execVnswr (w.getLsbD 25) (w.extractLsb' 10 5) (w.getLsbD 8) s
  | _ => execIllegalInstruction w s

/-- Runs a word of major 0x30 (R107). -/
def run30 (w : BitVec 32) (s : State) : Host.Outcome State Fault Refusal :=
  match (w.extractLsb' 0 5).toNat with
  | 0 => execVupdSgdm (w.getLsbD 25) (w.extractLsb' 20 5) (w.extractLsb' 15 5) (w.extractLsb' 10 5) (w.getLsbD 9) (w.getLsbD 8) (maskOf w) s
  | 1 => execVupdAdamw (w.getLsbD 25) (w.extractLsb' 20 5) (w.extractLsb' 15 5) (w.extractLsb' 10 5) (w.getLsbD 9) (w.getLsbD 8) (maskOf w) s
  | 2 => execVsplit (w.getLsbD 25) (w.extractLsb' 20 5) (w.extractLsb' 10 5) (w.getLsbD 8) (maskOf w) s
  | 3 => execVjoin (w.getLsbD 25) (w.extractLsb' 20 5) (w.extractLsb' 10 5) (w.getLsbD 8) (maskOf w) s
  | _ => execIllegalInstruction w s

/-- Runs a word of major 0x31 (R107). -/
def run31 (w : BitVec 32) (s : State) : Host.Outcome State Fault Refusal :=
  match (w.extractLsb' 0 5).toNat with
  | 0 => execTcross (w.getLsbD 25) (w.extractLsb' 22 3) (w.extractLsb' 17 5) (w.extractLsb' 12 5) (w.extractLsb' 10 2) (w.getLsbD 9) (w.getLsbD 8) (maskOf w) s
  | 1 => execTcrossm (w.getLsbD 25) (w.extractLsb' 22 3) (w.extractLsb' 17 5) (w.extractLsb' 12 5) (w.extractLsb' 10 2) (w.getLsbD 9) (w.getLsbD 8) (maskOf w) s
  | 2 => execTcrossI (w.getLsbD 25) (w.extractLsb' 22 3) (w.extractLsb' 17 5) (w.extractLsb' 12 5) (w.extractLsb' 10 2) (w.getLsbD 9) (w.getLsbD 8) (maskOf w) s
  | 3 => execTcrossS (w.getLsbD 25) (w.extractLsb' 22 3) (w.extractLsb' 17 5) (w.extractLsb' 12 5) (w.getLsbD 9) (w.getLsbD 8) (maskOf w) s
  | _ => execIllegalInstruction w s

/-- Runs a word of major 0x32 (R107). -/
def run32 (w : BitVec 32) (s : State) : Host.Outcome State Fault Refusal :=
  match (w.extractLsb' 0 5).toNat with
  | 0 => execTzero (w.getLsbD 25) (w.extractLsb' 22 3) s
  | 1 => execTmvrow (w.getLsbD 25) (w.extractLsb' 22 3) (w.extractLsb' 17 5) (w.extractLsb' 12 5) (w.getLsbD 8) (maskOf w) s
  | 2 => execTmvcol (w.getLsbD 25) (w.extractLsb' 22 3) (w.extractLsb' 17 5) (w.extractLsb' 12 5) (w.getLsbD 8) (maskOf w) s
  | 3 => execTrdrow (w.getLsbD 25) (w.extractLsb' 22 3) (w.extractLsb' 17 5) (w.extractLsb' 12 5) (maskOf w) s
  | 4 => execTrdcol (w.getLsbD 25) (w.extractLsb' 22 3) (w.extractLsb' 17 5) (w.extractLsb' 12 5) (maskOf w) s
  | _ => execIllegalInstruction w s

/-- Runs a word of major 0x33 (R107). -/
def run33 (w : BitVec 32) (s : State) : Host.Outcome State Fault Refusal :=
  match (w.extractLsb' 0 5).toNat with
  | 0 => execTcfg (w.getLsbD 25) (w.extractLsb' 22 3) (w.extractLsb' 17 5) s
  | 1 => execTscale (w.getLsbD 25) (w.extractLsb' 22 3) (w.extractLsb' 17 5) s
  | 2 => execTstat (w.getLsbD 25) (w.extractLsb' 22 3) (w.extractLsb' 17 5) s
  | _ => execIllegalInstruction w s

/-- Runs the instruction that a checked word names: the meaning that `exec` gives what `pick` reads (R101, R102, R107). -/
def run (w : BitVec 32) (s : State) : Host.Outcome State Fault Refusal :=
  match (w.extractLsb' 26 6).toNat with
  | 0x01 => run01 w s
  | 0x02 => execAddi (w.extractLsb' 21 5) (w.extractLsb' 16 5) (w.extractLsb' 0 16) s
  | 0x03 => execAndi (w.extractLsb' 21 5) (w.extractLsb' 16 5) (w.extractLsb' 0 16) s
  | 0x04 => execOri (w.extractLsb' 21 5) (w.extractLsb' 16 5) (w.extractLsb' 0 16) s
  | 0x05 => execXori (w.extractLsb' 21 5) (w.extractLsb' 16 5) (w.extractLsb' 0 16) s
  | 0x06 => execSlti (w.extractLsb' 21 5) (w.extractLsb' 16 5) (w.extractLsb' 0 16) s
  | 0x07 => execSltni (w.extractLsb' 21 5) (w.extractLsb' 16 5) (w.extractLsb' 0 16) s
  | 0x08 => execImmh (w.extractLsb' 21 5) (w.extractLsb' 0 21) s
  | 0x09 => execApc (w.extractLsb' 21 5) (w.extractLsb' 0 21) s
  | 0x0A => run0A w s
  | 0x0B => run0B w s
  | 0x0C => run0C w s
  | 0x0D => run0D w s
  | 0x0E => execBeq (w.extractLsb' 21 5) (w.extractLsb' 16 5) (w.extractLsb' 0 16) s
  | 0x0F => execBne (w.extractLsb' 21 5) (w.extractLsb' 16 5) (w.extractLsb' 0 16) s
  | 0x10 => execBlt (w.extractLsb' 21 5) (w.extractLsb' 16 5) (w.extractLsb' 0 16) s
  | 0x11 => execBge (w.extractLsb' 21 5) (w.extractLsb' 16 5) (w.extractLsb' 0 16) s
  | 0x12 => execBltn (w.extractLsb' 21 5) (w.extractLsb' 16 5) (w.extractLsb' 0 16) s
  | 0x13 => execBgen (w.extractLsb' 21 5) (w.extractLsb' 16 5) (w.extractLsb' 0 16) s
  | 0x14 => execJal (w.extractLsb' 21 5) (w.extractLsb' 0 21) s
  | 0x15 => execJalr (w.extractLsb' 21 5) (w.extractLsb' 16 5) (w.extractLsb' 0 16) s
  | 0x16 => run16 w s
  | 0x17 => run17 w s
  | 0x18 => run18 w s
  | 0x19 => run19 w s
  | 0x1A => run1A w s
  | 0x1B => run1B w s
  | 0x1C => run1C w s
  | 0x1D => run1D w s
  | 0x20 => run20 w s
  | 0x21 => run21 w s
  | 0x22 => run22 w s
  | 0x23 => run23 w s
  | 0x24 => run24 w s
  | 0x25 => run25 w s
  | 0x26 => run26 w s
  | 0x27 => run27 w s
  | 0x28 => run28 w s
  | 0x29 => run29 w s
  | 0x2A => run2A w s
  | 0x2B => run2B w s
  | 0x2C => run2C w s
  | 0x2D => run2D w s
  | 0x2E => run2E w s
  | 0x2F => run2F w s
  | 0x30 => run30 w s
  | 0x31 => run31 w s
  | 0x32 => run32 w s
  | 0x33 => run33 w s
  | _ => execIllegalInstruction w s

/-- Runs a fetched word: the instruction that it holds, or the exception that it raises (R109). -/
def State.runWord (s : State) (w : IWord) : Out :=
  match check w with
  | .ok _ => run w s
  | .error _ => execIllegalInstruction w s

/-! ## Fetch -/

/-- What a fetch finds. -/
inductive Fetched where
  | word (w : IWord) (s : State)
  | trap (cause : Nat)
  | moving

/-- The word that a fetch of an address reads: what stands there, or, where a store has replaced it since the strand was
placed, that or one of the words before it, by a free value (R112). -/
def State.codeWord (s : State) (l : Loc) (w : IWord) : IWord × State :=
  let old := ((s.codeOld.take (s.codeOld.length - s.me.codeSeen)).filter (fun e => l == .mem e.1)).map (·.2)
  if old.isEmpty then (w, s) else ((w :: old).getD (s.drawFree.1.toNat % (old.length + 1)) w, s.drawFree.2)

/-- The fetch of the word at the program counter; one that reaches its home is counted (R300). Nothing can be fetched from the scratchpad window, which page tables
never map (R200; log entry 48). -/
def State.fetch (s : State) : Fetched :=
  if s.cur.pc.toNat % 4 ≠ 0 then .trap 0x03
  else if inWindow s.cur.pc then .trap 0x06
  else
    match s.memPlace s.cur.pc .fetch s.cur.priv with
    | .stall _ => .moving
    | .trap cause _ _ => .trap cause
    | .ok (p, s1) =>
      let l := s1.placeNow s1.me.ctx p
      if s1.poisonedAt l 4 then .trap 0x09
      else
        let c := s1.codeWord l (BitVec.ofNat 32 (s1.readHome l 4))
        .word c.1 (c.2.countMaybe l s.cur.pc s.me.source)

/-- After the instruction that a return from a trap restarted, the held entries run (R274). -/
def State.thenHeld (t s : State) : State :=
  match s.me.resumeAt with
  | none => t
  | some rpc =>
    if s.thr == .x && s.me.x.priv == .u && t.me.uid == s.me.uid && t.me.status == .placed && t.me.x.priv == .u &&
       t.me.x.wait == .none && !t.me.x.halted then
      { t with me := { t.me with x := { t.me.x with pc := rpc }, resuming := !t.vu.flight.isEmpty, resumeAt := none } }
    else t

/-- The thread at hand takes its next step: it finishes the trap that it has entered, runs the held entry that comes next, or fetches
a word and runs it. It issues nothing past a read that is going to trap, or still could (R116; log entry 96). -/
def State.advance (s : State) : Out :=
  match s.cur.pend, s.held with
  | some r, _ => .next (s.writeRecord r)
  | none, some f => if s.trapsAhead then .next (s.waitFor .operand) else s.runWord f.word
  | none, none =>
    if s.trapsAhead then .next (s.waitFor .operand)
    else
      match s.fetch with
      | .moving => .next (s.waitFor .walk)
      | .trap cause => .next (s.takeTrap (s.trapAt cause 0 s.cur.pc))
      | .word w s1 =>
        match s1.runWord w with
        | .next t => .next (t.thenHeld s)
        | o => o

/-! ## What happens without an input -/

/-- The first of a list of events that changes the state. -/
def State.firstChange (s : State) : List (State → Out) → Option State
  | [] => none
  | f :: l =>
    match f s with
    | .next t => if t = s then s.firstChange l else some t
    | _ => s.firstChange l

/-- The events of the strand at hand. -/
def State.strandEvents (s : State) : List (State → Out) :=
  (s.me.aops.map (fun o t => Host.Outcome.next (t.performA o))) ++
  (s.me.vops.map (fun o t => Host.Outcome.next (t.performAnyV o))) ++ [execSubnormalAssist] ++
  ((List.range 8).flatMap (fun b =>
    [execBarrierArrival false (BitVec.ofNat 3 b), execBarrierArrival true (BitVec.ofNat 3 b)])) ++
  ((List.range s.me.sevs.length).map execEventDelivery) ++
  [execFenceAllComplete, execRendezvousMismatch, execChainStart, execCallComplete, execCaskCopyComplete, execAbortUnwind,
   execYieldResolve]

/-- The next units of a command, in order. -/
def State.unitEvents (c : Cmd) : List (State → Out) :=
  let ns := [c.next, c.bytesWritten, c.written.length]
  (dedupNat (ns ++ (if c.kind = 3 || c.kind = 4 then ns.map (fun n => c.count + n) else []))).flatMap (fun n =>
    [execEngineUnit c.token n true false, execEngineUnit c.token n false false])

/-- The events of the engines. -/
def State.engineEvents (s : State) : List (State → Out) :=
  (s.cmds.filter (·.open)).flatMap (fun c =>
    [execKvPageInComplete c.token, execKvretFrameFree c.token, execEngineTokenComplete c.token, execPubFlip c.token,
     execEngineStart c.token, execPageMove c.token] ++ State.unitEvents c)

/-- Suspends strands of a core for a candidate, as far as PRE_EMPTION allows it. -/
def State.suspendAll (s : State) (ms : List Strand) : State :=
  ms.foldl (fun t m => match execPreEmption 0 0 0 0 (t.focus m.uid t.thr) with | .next u => u | _ => t) s

/-- A candidate is placed over the strand in its slot, or, where its reservations do not fit, over all strands of its core,
that its effective class exceeds; nothing happens where it would not fit even so (R263). -/
def State.makeWay (s : State) (k : Strand) : Out :=
  let low := s.strands.filter (fun m =>
    (m.status == .placed || m.status == .yielded) && m.die == k.die && m.core == k.core && decide (m.cls < s.effClass k))
  let own := s.suspendAll (low.filter (fun m => m.slot == k.slot))
  let all := s.suspendAll low
  let put (t : State) : Out := .next (t.fillSlot k.die k.core k.slot)
  if low.isEmpty || own.slotTaken k.die k.core k.slot then .next s
  else if own.roomFor k then put own
  else if all.roomFor k then put all
  else .next s

/-- The events of the dispatchers and of the Cellarer. -/
def State.moduleEvents (s : State) : List (State → Out) :=
  (s.launches.map (fun l => execLaunchTokenComplete l.token)) ++ (s.launches.map (fun l => execLaunchEligible l.token)) ++
  (s.queues.map (fun k => execLaunchRecord k.num)) ++ [execCellarerWake] ++
  ((s.strands.filter (·.candidate)).map (fun m =>
    execPlacement (BitVec.ofNat 2 m.die) (BitVec.ofNat 4 m.core) (BitVec.ofNat 2 m.slot))) ++
  ((s.strands.filter (·.candidate)).map (fun k t => t.makeWay k))

/-- A thread may issue: it has not halted, and waits for nothing or looks again. -/
def Thread.ready (t : Thread) : Bool := !t.halted && (t.wait == .none || t.wait == .barrierAgain || t.wait == .interruptAgain)

/-- A thread that waited looks again. A thread at `fence.all` or at a CHAIN instruction has arrived and stays there. -/
def Thread.lookAgain (t : Thread) : Thread :=
  match t.wait with
  | .fence => t
  | .chain => t
  | .barrier => { t with wait := .barrierAgain }
  | .barrierAgain => t
  | .interrupt => { t with wait := .interruptAgain }
  | .interruptAgain => t
  | _ => { t with wait := .none }

/-- Both threads of the strand at hand look again. -/
def State.lookAgain (s : State) : State := { s with me := { s.me with a := s.me.a.lookAgain, x := s.me.x.lookAgain } }

/-- Brings a strand to hand. -/
def State.turnTo (s : State) (uid : Nat) (t : Tid) : State := (s.focus uid t).lookAgain

/-- A strand that has something left to do: a thread that may run, or an operation to perform. -/
def Strand.runs (m : Strand) : Bool :=
  (m.status == .placed && !(m.a.halted && m.x.halted)) ||
  ((m.resident || m.status == .retired || m.status == .discarded) && !m.performedAll)

/-- The slot of a core that issued last: the strand at hand, and of the others the one that was at hand last, stands first. -/
def State.lastSlot (s : State) (die core : Nat) : Nat :=
  (((s.me :: s.peers).find? (fun m => m.die == die && m.core == core)).map (·.slot)).getD 3

/-- The order in which a core takes its strands, smaller first: the highest class, then the one that has been ready the longest, then
the slots in turn, from the one after the slot that issued last (R40, R41). -/
def State.issueKey (s : State) (m : Strand) : List Nat :=
  [7 - m.cls, m.readyAt.toNat, (m.slot + 3 - s.lastSlot m.die m.core) % 4]

/-- The strand at hand can issue again: one of its threads is ready. -/
def State.mayGoOn (s : State) : Bool := s.me.status == .placed && s.me.stop.isEmpty && (s.me.a.ready || s.me.x.ready)

/-- The strand that a core takes next: of those that have something to do, the strand at hand among them while it can issue. -/
def State.issuesNext (s : State) (m : Strand) : Strand :=
  ((if s.mayGoOn then [s.me] else []) ++ s.peers).foldl
    (fun b k => if k.runs && k.die == m.die && k.core == m.core && decide (s.issueKey k < s.issueKey b) then k else b) m

/-- The turn passes: from the A-thread to a ready X-thread, else to the core whose turn is the longest ago, and there to the strand
that R40 puts first; but never more than three times past a strand of a lower class, which R41 lets issue too (log entry 49). The strand
that had the turn is ready anew. With no other strand, back to the A-thread. -/
def State.passOn (s : State) : State :=
  if s.thr == .a && s.me.status == .placed && s.me.x.ready then { s with thr := .x }
  else
    let s0 := { s with me := { s.me with readyAt := s.gts } }
    match s0.peers.reverse.find? (·.runs) with
    | some m =>
      let k := s0.issuesNext m
      if m.cls < k.cls && s.skips < 3 then { s0 with skips := s.skips + 1 }.turnTo k.uid .a
      else { s0 with skips := 0 }.turnTo (if m.cls < k.cls then m.uid else k.uid) .a
    | none => { s0 with thr := s.thr.other }.lookAgain

/-- Time passes: 13 ns, with what the end of a grace window brings (R264). -/
def State.timePasses (s : State) : State :=
  let s1 := s.advanceTo (s.gts.toNat + 13)
  match s1.strands.find? (fun m => m.counting && m.ydl != 0 && decide (m.ydl.toNat ≤ s1.gts.toNat)) with
  | none => s1
  | some m =>
    match execGraceWindowEnd (s1.focus m.uid s1.thr) with
    | .next t => t
    | _ => s1

/-- The events that may happen of themselves. -/
def State.events (s : State) : List (State → Out) := s.strandEvents ++ s.engineEvents ++ s.moduleEvents

/-- A step in which no thread issues: the first event that changes anything, of the strand at hand, of the engines, of the
module; else time passes, and the turn (log entry 49). -/
def State.idle (s : State) : State :=
  match s.firstChange s.events with
  | some t => t.lookAgain
  | none => s.timePasses.passOn

/-- The instructions that a thread issues before the turn passes. -/
def sliceLength : Nat := 32

/-- The end of a turn: an event, if one is due, then time passes, and the turn. -/
def State.sliceEnd (s : State) : State :=
  let s1 := { s with slice := 0 }
  ((s1.firstChange s1.events).getD s1).timePasses.passOn

/-- A pre-emption may stop the X-thread's next word part way; behind a word that has stopped, only one that depends on it element by
element (R277; log entry 72). -/
def State.mayStop (s : State) : Bool :=
  if s.me.stopping then ((s.peekWord s.me.x.pc).map takesEntry).getD false else s.me.stop != [noLanes]

/-- The pre-emption stops at an instruction boundary: nothing more stops part way, and the counters of the oldest word that has are in
view (R276, R307). -/
def State.endStop (s : State) : State :=
  let v := if s.me.stopping then s.vu.setStart 0 (((s.vu.flight.head?).map (·.lgp)).getD noLanes) else s.vu
  { s with vu := v, me := { s.me with stop := [noLanes], stopping := false } }

/-- A pre-emption that stops the X-thread's next instructions part way lets them issue; after them, or at once, the strand is
suspended, unless it must wait, and meanwhile a `vappend` of it ends (R276, R277, R161). Where they stop for a `yield`, or for the trap
of the word before them, that follows instead (R38, R274). -/
def State.finishStop (s : State) : Out :=
  let x := { s with thr := Tid.x }
  if s.me.append.isSome && x.cur.ready then x.advance
  else if s.me.append.isNone && x.cur.ready && s.mayStop then
    match x.advance with
    | .next t => .next (if t.me.uid = s.me.uid && t.me.stop = s.me.stop then t.endStop else t)
    | o => o
  else
    match s.me.ending with
    | some _ => .next (if s.me.append.isSome then s.idle else s.endStop.finishEnding)
    | none =>
      let t := s.endStop.preempt
      .next (if t.me.status = .suspended then t else t.idle)

/-- A step without an input. -/
def State.go (s : State) : Out :=
  if s.me.status != .placed then .next s.idle
  else if !s.me.stop.isEmpty then s.finishStop
  else if !s.cur.ready then .next s.idle
  else if sliceLength ≤ s.slice then .next s.sliceEnd
  else { s with slice := s.slice + 1 }.advance

/-! ## Inputs and a first program -/

end Sys2Proof.Machine

/-- An event of the table: a row that no word encodes. -/
def Sys2Proof.Instr.isEvent (i : Sys2Proof.Instr) : Bool := Sys2Proof.encode i == 0

/-- The input is a cold reset. -/
def Sys2Proof.Machine.Input.isColdReset (i : Sys2Proof.Machine.Input) : Bool :=
  match i with
  | .event (.coldReset _) => true
  | _ => false

namespace Sys2Proof.Machine

/-- A context whose tables map virtual addresses below 1 GiB to the first GiB of tier 0. -/
def bootContext : Context :=
  { num := 1, descPa := 0x3F000000, watchdog := none,
    desc := BitVec.ofNat 1024 (0x3E000000 + 2 ^ (8 * 20) + 2 ^ (8 * 24) * 0x20000000 + 2 ^ (8 * 32)
      + 2 ^ (8 * 40) * 0x10000 + 2 ^ (8 * 48) * 0x20000) }

/-- A strand of that context as placement leaves it: entry 0x30000, eight tiles, 64 KiB of scratchpad. -/
def bootStrand (uid : Nat) : Strand :=
  let t (trec : Word) : Thread := { Thread.reset with pc := 0x30000, trec := trec, lt := Vector.replicate 6 0 }
  { Strand.reset with
    uid := uid, status := .placed, ctx := 1, ntiles := 8, scratch := 65536, budget0 := 1048575, budget := 1048575,
    save := some 0, bound := [0, 1, 2, 3, 4, 5, 6, 7], a := t 0x20001000, x := t 0x20001200, xstate := 3 }

/-- The module with a strand at hand: as it is, or, when none is placed, with one of a new context. -/
def State.booted (s : State) : State :=
  if s.me.status == .placed then s
  else
    let s1 := (s.writePa 0x3E000000 8 (0x3E020000 + 1)).writePa 0x3E020000 8 0xDF
    { s1 with
      contexts := bootContext :: s1.contexts.filter (fun c => c.num != 1)
      me := bootStrand s1.nextUid
      nextUid := s1.nextUid + 1
      vu := { VecUnit.reset with owner := some s1.nextUid }
      tiles := (List.range 8).map (fun k => (k, { holder := some (s1.nextUid, k), header := 0, cells := 0 })) }

/-- The thread that may execute a word; where both may, the one at hand. -/
def State.threadFor (s : State) (w : IWord) : Tid := if (column w).admits s.thr then s.thr else s.thr.other

/-- Stores a word at the program counter of the thread that may execute it, which is ready. -/
def State.placeWord (s : State) (w : IWord) : State :=
  let s1 := { s with thr := s.threadFor w, inputs := [] }
  let s2 := s1.setCur { s1.cur with wait := .none, halted := false, pend := none }
  let s3 := { s2 with me := { s2.me with resuming := false, stop := [] }, slice := 0 }
  match s3.translateMe s3.cur.pc .fetch s3.cur.priv with
  | .ok pa _ _ _ => s3.writePa pa 4 w.toNat
  | _ => s3

end Sys2Proof.Machine
end

