-- ==== Sys2Proof/Machine/Step.lean ====
section
/-!
DEFINITION. One step of the module, and the state in which a given instruction is fetched next.
-/

namespace Sys2Proof.Machine

/-- What follows any change: a write to an entry of an absent-fault queue that has been performed releases its command (R287). -/
def settled (o : Host.Outcome State Fault Refusal) : Host.Outcome State Fault Refusal :=
  match o with
  | .next t => .next t.released
  | o => o

/-- What an input says happens next. -/
def State.input (s : State) (i : Input) : Host.Outcome State Fault Refusal :=
  match i with
  | .turn uid t => .next (s.turnTo uid t)
  | .event i => if i.isEvent then exec i s else .next s
  | .agents l => .next { s with agents := l }
  | .flying uid l => .next (s.modStrand uid (fun m => { m with ahead := l }))
  | .forward uid t => .next (s.forward uid t)
  | .corrected sram => .next (s.bumpCounter (if sram then 1 else 0))

/-- One step: the next input, or, without one, what `State.go` does. After a shutdown only a cold reset happens (R329). -/
def step (s : State) : Host.Outcome State Fault Refusal :=
  match s.inputs with
  | i :: l => if s.stopped && !i.isColdReset then .fault .moduleStopped else settled (State.input { s with inputs := l } i)
  | [] => if s.stopped then .fault .moduleStopped else settled s.go

/-- `s` with an instruction stored where the thread at hand fetches its next one; a module that has placed no strand is first
given one, as a launch would (log entry 50). -/
def State.withFetchWord (s : State) (nbits w : Nat) : State := s.booted.placeWord (BitVec.ofNat 32 (w % 2 ^ nbits))

end Sys2Proof.Machine
end

