-- ==== Sys2Proof/Safety.lean ====
section
/-!
DEFINITION. What counts as a safe run, and the conditions under which the claims say that an instruction completes: the
checks of R110 passed, the operands at hand, the addressed bytes reachable.
-/

namespace Sys2Proof.Machine

/-! ## Safe runs -/

/-- The invariant of the machine: memory, the scratchpad and lane-store reservation of every strand and every preloaded image stand
in their canonical form, so that equal contents are equal data. -/
def State.Inv (s : State) : Prop :=
  Memory.wf s.mem = true ∧ (∀ m ∈ s.me :: s.peers, Memory.wf m.pad = true ∧ Memory.wf m.lanes = true) ∧
    ∀ p ∈ s.preloads, Memory.wf p.image = true

/-- A step is safe when it gives a next state. -/
def State.Safe (s : State) : Prop := ∃ t, step s = .next t

/-- `n` safe steps from `s` lead to `t`. -/
def State.Runs : Nat → State → State → Prop
  | 0, s, t => t = s
  | n + 1, s, t => ∃ u, step s = .next u ∧ State.Runs n u t

/-! ## When a word executes -/

/-- The word of `i` passes the checks of R110. -/
def State.passes (s : State) (i : Instr) : Bool := (checks (encode i) s).isNone

/-- The thread at hand may name a register as a scalar destination: the X-thread has no output port for `x28`-`x31` (R47). -/
def State.mayWrite (s : State) (d : RegNo) : Bool := s.thr == .a || decide (d.toNat < 28)

/-- The operands of a scalar word are at hand: no pending operation writes them, every port it pops holds what it pops, and
the port it pushes has room (R47, R90). -/
def State.atHand (s : State) (srcs : List RegNo) (dst : Option RegNo) : Bool :=
  match s.gate srcs dst with
  | .ok _ => true
  | _ => false

/-- The state after a scalar word has read its sources, and the values it read (R14, R47): ports pop in order. -/
def State.after1 (s : State) (a : RegNo) : State := (s.endConvoy.take a).2
def State.val1 (s : State) (a : RegNo) : Word := (s.endConvoy.take a).1
def State.after2 (s : State) (a b : RegNo) : State := ((s.after1 a).take b).2
def State.val2 (s : State) (a b : RegNo) : Word := ((s.after1 a).take b).1
def State.after3 (s : State) (a b c : RegNo) : State := ((s.after2 a b).take c).2
def State.val3 (s : State) (a b c : RegNo) : Word := ((s.after2 a b).take c).1

/-- The state after a scalar word writes `v` to `d` and retires (R100). -/
def State.wrote1 (s : State) (d : RegNo) (v : Word) : State := (s.put d v).retire

/-- No surface record of the context and no copy of the capability list holds an address (R208, R214, R312). -/
def State.unsurfaced (s : State) (va : Word) : Bool :=
  (surfAtIn (s.surfs s.me.ctx) va).isNone && (side1In (s.surfs s.me.ctx) va).isNone && (s.capOffset s.me.ctx va).isNone

/-- The leaf, with the size of its page, by which an access of the strand at hand translates an address: that of a cached
translation which permits it and has the accessed bit set, else the one that the walk finds and that permits it (R295-R298). -/
def State.usable (s : State) (va : Word) (acc : Acc) : Option (Word × Nat) :=
  match (s.tlbHit s.me.ctx s.me.die (some s.me.core) va).filter
      (fun h => permits h.leaf acc s.cur.priv && h.leaf.getLsbD 6), s.walk s.me.ctx va with
  | some h, _ => some (h.leaf, h.size)
  | none, .leaf e _ k => if permits e acc s.cur.priv then some (e, k) else none
  | none, _ => none

/-- An address is good for an access of `n` bytes, which then reaches the location `l`: it is a multiple of `n`, and stands in the
strand's own part of the scratchpad window, inside its reservation (R116, R200, R201), or, outside the window, on a page that
permits the access, with no surface there, no page of tier 1 being written (R209, R295). -/
def State.goodAddress (s : State) (va : Word) (n : Nat) (acc : Acc) (l : Loc) : Prop :=
  va.toNat % n = 0 ∧
  ((inWindow va = true ∧ va.toNat % 2 ^ 32 / 2 ^ 23 = s.me.core % 4 ∧ va.toNat % 2 ^ 23 + n ≤ s.me.scratch ∧
      l = .pad s.me.uid (va.toNat % 2 ^ 23)) ∨
    (inWindow va = false ∧ canonical va = true ∧ s.unsurfaced va = true ∧
      ∃ e k, s.usable va acc = some (e, k) ∧ e.getLsbD 9 = false ∧
        (acc.writes = true → s.tierOf (s.normPa (leafPa e k va)) ≠ 1) ∧ l = .mem (s.normPa (leafPa e k va))))

/-- A check passed, with what it found. -/
def Chk.value {α : Type} : Chk α → Option α
  | .ok v => some v
  | _ => none

/-- A check passed. -/
def Chk.holds {α : Type} (c : Chk α) : Bool := c.value.isSome

/-- A vector word is ready: it passes its checks, no load is pending on its registers, its x registers are at hand, it runs
from its own fetch and for the first time, the flight table has room for it, and neither a pre-emption nor a trap stops words part
way. -/
def State.vecReady (s : State) (i : Instr) (xs : List RegNo) (dst : Option RegNo) : Bool :=
  let w := encode i
  let c := s.cap w
  let sh := shape w c.et c.g
  s.passes i && !s.vBusy sh.groups (sh.scaled || (wMaj w == 0x31 && wFn5 w == 3)) && s.held.isNone && s.note.isNone &&
    s.me.stop.isEmpty && !s.me.stopping && s.me.ahead.isEmpty &&
    (!takesEntry w || s.flightRoom) && s.atHand xs dst

/-! ## The words of one shape, with what the rules give them

Each function below answers, for the instructions of one shape, their operands and their result as the rule's table states
it. The claims take the operands and the result from here, so that one claim speaks of every word of the shape. -/

end Sys2Proof.Machine

namespace Sys2Proof

open Machine

/-- The shift amount of a register value: its low six bits. -/
def shiftBy (y : Word) : Nat := y.toNat % 64

/-- 1 or 0. -/
def oneIf (p : Prop) [Decidable p] : Word := if p then 1#64 else 0#64

/-- A signed quotient, saturating to the largest and the least 64-bit value (R114). -/
def quotient (x y : Int) : Word :=
  if y = 0 then (if 0 ≤ x then BitVec.ofInt 64 (2 ^ 63 - 1) else BitVec.ofInt 64 (-(2 ^ 63)))
  else BitVec.ofInt 64 (min (x.tdiv y) (2 ^ 63 - 1))

/-- The OPS words of two sources: destination, sources and result (R114). -/
def intTwo : Instr → Option (RegNo × RegNo × RegNo × (Word → Word → Word))
  | .add d a b => some (d, a, b, fun x y => BitVec.ofNat 64 (x.toNat + y.toNat))
  | .sub d a b => some (d, a, b, fun x y => BitVec.ofInt 64 (x.toInt - y.toInt))
  | .and d a b => some (d, a, b, fun x y => x &&& y)
  | .or d a b => some (d, a, b, fun x y => x ||| y)
  | .xor d a b => some (d, a, b, fun x y => x ^^^ y)
  | .andn d a b => some (d, a, b, fun x y => x &&& (BitVec.allOnes 64 ^^^ y))
  | .sll d a b => some (d, a, b, fun x y => BitVec.ofNat 64 (x.toNat * 2 ^ shiftBy y))
  | .srl d a b => some (d, a, b, fun x y => BitVec.ofNat 64 (x.toNat / 2 ^ shiftBy y))
  | .sra d a b => some (d, a, b, fun x y => BitVec.ofInt 64 (x.toInt / 2 ^ shiftBy y))
  | .rol d a b => some (d, a, b, fun x y => x <<< shiftBy y ||| x >>> (64 - shiftBy y))
  | .ror d a b => some (d, a, b, fun x y => x >>> shiftBy y ||| x <<< (64 - shiftBy y))
  | .slt d a b => some (d, a, b, fun x y => oneIf (x.toInt < y.toInt))
  | .sltn d a b => some (d, a, b, fun x y => oneIf (x.toNat < y.toNat))
  | .min d a b => some (d, a, b, fun x y => BitVec.ofInt 64 (min x.toInt y.toInt))
  | .max d a b => some (d, a, b, fun x y => BitVec.ofInt 64 (max x.toInt y.toInt))
  | .minn d a b => some (d, a, b, fun x y => BitVec.ofNat 64 (min x.toNat y.toNat))
  | .maxn d a b => some (d, a, b, fun x y => BitVec.ofNat 64 (max x.toNat y.toNat))
  | .mul d a b => some (d, a, b, fun x y => BitVec.ofNat 64 (x.toNat * y.toNat))
  | .mulh d a b => some (d, a, b, fun x y => (BitVec.ofInt 128 (x.toInt * y.toInt)).extractLsb' 64 64)
  | .mulhn d a b => some (d, a, b, fun x y => (BitVec.ofNat 128 (x.toNat * y.toNat)).extractLsb' 64 64)
  | .div d a b => some (d, a, b, fun x y => quotient x.toInt y.toInt)
  | .divn d a b => some (d, a, b, fun x y =>
      if y.toNat = 0 then BitVec.allOnes 64 else BitVec.ofNat 64 (x.toNat / y.toNat))
  | .rem d a b => some (d, a, b, fun x y =>
      if y.toInt = 0 then x else BitVec.ofInt 64 (x.toInt - y.toInt * (x.toInt.tdiv y.toInt)))
  | .remn d a b => some (d, a, b, fun x y => if y.toNat = 0 then x else BitVec.ofNat 64 (x.toNat % y.toNat))
  | _ => none

/-- The OPS words of one source, the immediate shifts and the immediate words: destination, source and result (R114,
R115). -/
def intOne : Instr → Option (RegNo × RegNo × (Word → Word))
  | .clz d a => some (d, a, fun x => BitVec.ofNat 64 (if x = 0 then 64 else 63 - Nat.log2 x.toNat))
  | .ctz d a => some (d, a, fun x => BitVec.ofNat 64 (((List.range 64).find? x.getLsbD).getD 64))
  | .popc d a => some (d, a, fun x => BitVec.ofNat 64 ((List.range 64).countP x.getLsbD))
  | .sextB d a => some (d, a, fun x => (x.setWidth 8).signExtend 64)
  | .sextH d a => some (d, a, fun x => (x.setWidth 16).signExtend 64)
  | .sextW d a => some (d, a, fun x => (x.setWidth 32).signExtend 64)
  | .zextW d a => some (d, a, fun x => BitVec.ofNat 64 (x.toNat % 2 ^ 32))
  | .slli d a h => some (d, a, fun x => BitVec.ofNat 64 (x.toNat * 2 ^ h.toNat))
  | .srli d a h => some (d, a, fun x => BitVec.ofNat 64 (x.toNat / 2 ^ h.toNat))
  | .srai d a h => some (d, a, fun x => BitVec.ofInt 64 (x.toInt / 2 ^ h.toNat))
  | .addi d a i => some (d, a, fun x => BitVec.ofInt 64 (x.toInt + i.toInt))
  | .andi d a i => some (d, a, fun x => x &&& BitVec.ofInt 64 i.toInt)
  | .ori d a i => some (d, a, fun x => x ||| BitVec.ofInt 64 i.toInt)
  | .xori d a i => some (d, a, fun x => x ^^^ BitVec.ofInt 64 i.toInt)
  | .slti d a i => some (d, a, fun x => oneIf (x.toInt < i.toInt))
  | .sltni d a i => some (d, a, fun x => oneIf (x.toNat < (BitVec.ofInt 64 i.toInt).toNat))
  | _ => none

/-- The scalar floating-point words: destination, sources and, under a rounding mode, the value and the flags (R118). A
result takes the low 32 bits of the register and the rest is zero; an FP32 source is the low 32 bits of its register. -/
def fpWord : Instr → Option (RegNo × List RegNo × (Nat → Word → Word → Word → Nat × FF))
  | .fadd d a b => some (d, [a, b], fun rm x y _ => Fmt.f32.add false rm (x.toNat % 2 ^ 32) (y.toNat % 2 ^ 32))
  | .fsub d a b => some (d, [a, b], fun rm x y _ => Fmt.f32.sub false rm (x.toNat % 2 ^ 32) (y.toNat % 2 ^ 32))
  | .fmul d a b => some (d, [a, b], fun rm x y _ => Fmt.f32.mul false rm (x.toNat % 2 ^ 32) (y.toNat % 2 ^ 32))
  | .fdiv d a b => some (d, [a, b], fun rm x y _ => Fmt.f32.div false rm (x.toNat % 2 ^ 32) (y.toNat % 2 ^ 32))
  | .fsqrt d a => some (d, [a], fun rm x _ _ => Fmt.f32.sqrt false rm (x.toNat % 2 ^ 32))
  | .fmin d a b => some (d, [a, b], fun _ x y _ => Fmt.f32.minMax false false (x.toNat % 2 ^ 32) (y.toNat % 2 ^ 32))
  | .fmax d a b => some (d, [a, b], fun _ x y _ => Fmt.f32.minMax false true (x.toNat % 2 ^ 32) (y.toNat % 2 ^ 32))
  | .fmac d a b => some (d, [a, b, d], fun rm x y z =>
      Fmt.f32.fma false rm false (x.toNat % 2 ^ 32) (y.toNat % 2 ^ 32) (z.toNat % 2 ^ 32))
  | .fcvtfi d a => some (d, [a], fun rm x _ _ =>
      ((BitVec.ofInt 64 (toInteger rm (-(2 ^ 63)) (2 ^ 63 - 1) (Fmt.f32.decode (x.toNat % 2 ^ 32))).1).toNat,
       (toInteger rm (-(2 ^ 63)) (2 ^ 63 - 1) (Fmt.f32.decode (x.toNat % 2 ^ 32))).2))
  | .fcvtif d a => some (d, [a], fun rm x _ _ => Fmt.f32.round false rm (Val.ofInt x.toInt))
  | .feq d a b => some (d, [a, b], fun _ x y _ =>
      (if (Fmt.f32.eqQuiet false (x.toNat % 2 ^ 32) (y.toNat % 2 ^ 32)).1 then 1 else 0,
       (Fmt.f32.eqQuiet false (x.toNat % 2 ^ 32) (y.toNat % 2 ^ 32)).2))
  | .flt d a b => some (d, [a, b], fun _ x y _ =>
      (if (Fmt.f32.less false false (x.toNat % 2 ^ 32) (y.toNat % 2 ^ 32)).1 then 1 else 0,
       (Fmt.f32.less false false (x.toNat % 2 ^ 32) (y.toNat % 2 ^ 32)).2))
  | .fle d a b => some (d, [a, b], fun _ x y _ =>
      (if (Fmt.f32.less false true (x.toNat % 2 ^ 32) (y.toNat % 2 ^ 32)).1 then 1 else 0,
       (Fmt.f32.less false true (x.toNat % 2 ^ 32) (y.toNat % 2 ^ 32)).2))
  | .fkind d a => some (d, [a], fun _ x _ _ => (2 * Fmt.f32.kind (x.toNat % 2 ^ 32) + x.toNat / 2 ^ 31 % 2, 0))
  | .fcvtbf d a => some (d, [a], fun rm x _ _ => Fmt.bf16.round false rm (Fmt.f32.decode (x.toNat % 2 ^ 32)))
  | .fmvbf d a => some (d, [a], fun _ x _ _ => (x.toNat % 2 ^ 16 * 2 ^ 16, 0))
  | _ => none

/-- The branches: sources, offset and condition (R119). -/
def branchWord : Instr → Option (RegNo × RegNo × BitVec 16 × (Word → Word → Bool))
  | .beq a b o => some (a, b, o, fun x y => decide (x = y))
  | .bne a b o => some (a, b, o, fun x y => decide (x ≠ y))
  | .blt a b o => some (a, b, o, fun x y => decide (x.toInt < y.toInt))
  | .bge a b o => some (a, b, o, fun x y => decide (y.toInt ≤ x.toInt))
  | .bltn a b o => some (a, b, o, fun x y => decide (x.toNat < y.toNat))
  | .bgen a b o => some (a, b, o, fun x y => decide (y.toNat ≤ x.toNat))
  | _ => none

end Sys2Proof

namespace Sys2Proof.Machine

/-- The state after a word has read a list of sources in order, and the values it read, 0 beyond the list. -/
def State.reads (s : State) : List RegNo → State × List Word
  | [] => (s, [])
  | r :: l =>
    let p := s.take r
    let q := p.2.reads l
    (q.1, p.1 :: q.2)

end Sys2Proof.Machine

namespace Sys2Proof

/-- The sources and the destination of the scalar words that compute a register or branch (R114, R115, R118, R119). -/
def scalarForm (i : Instr) : Option (List RegNo × Option RegNo) :=
  match intTwo i, intOne i, fpWord i, branchWord i with
  | some (d, a, b, _), _, _, _ => some ([a, b], some d)
  | none, some (d, a, _), _, _ => some ([a], some d)
  | none, none, some (d, l, _), _ => some (l, some d)
  | none, none, none, some (a, b, _, _) => some ([a, b], none)
  | none, none, none, none => none

end Sys2Proof

/-! ## Memory words -/

namespace Sys2Proof

open Machine

/-- The load words (R116, R117): destination, base, offset, bytes, sign extension, acquire. -/
def loadWord : Instr → Option (RegNo × RegNo × Int × Nat × Bool × Option (BitVec 2))
  | .ldb d a o => some (d, a, o.toInt, 1, true, none)
  | .ldbn d a o => some (d, a, o.toInt, 1, false, none)
  | .ldh d a o => some (d, a, o.toInt, 2, true, none)
  | .ldhn d a o => some (d, a, o.toInt, 2, false, none)
  | .ldw d a o => some (d, a, o.toInt, 4, true, none)
  | .ldwn d a o => some (d, a, o.toInt, 4, false, none)
  | .ldd d a o => some (d, a, o.toInt, 8, false, none)
  | .ldAcq d a sc w => some (d, a, 0, if w then 8 else 4, true, some sc)
  | _ => none

/-- The store words (R116, R117): source, base, offset, bytes, and the scope of a release. -/
def storeWord : Instr → Option (RegNo × RegNo × Int × Nat × Option (BitVec 2))
  | .stb v a o => some (v, a, o.toInt, 1, none)
  | .sth v a o => some (v, a, o.toInt, 2, none)
  | .stw v a o => some (v, a, o.toInt, 4, none)
  | .std v a o => some (v, a, o.toInt, 8, none)
  | .stRel a b sc w => some (b, a, 0, if w then 8 else 4, some sc)
  | _ => none

/-- The read-modify-write words (R117): function number, destination, address, operand, bytes, and the scopes of an acquire
and of a release. -/
def amoWord : Instr → Option (Nat × RegNo × RegNo × RegNo × Nat × Option (BitVec 2) × Option (BitVec 2))
  | .amoAdd d a b o sc w => some (0, d, a, b, if w then 8 else 4, if o.toNat % 2 = 1 then some sc else none, if 2 ≤ o.toNat then some sc else none)
  | .amoAnd d a b o sc w => some (1, d, a, b, if w then 8 else 4, if o.toNat % 2 = 1 then some sc else none, if 2 ≤ o.toNat then some sc else none)
  | .amoOr d a b o sc w => some (2, d, a, b, if w then 8 else 4, if o.toNat % 2 = 1 then some sc else none, if 2 ≤ o.toNat then some sc else none)
  | .amoXor d a b o sc w => some (3, d, a, b, if w then 8 else 4, if o.toNat % 2 = 1 then some sc else none, if 2 ≤ o.toNat then some sc else none)
  | .amoMin d a b o sc w => some (4, d, a, b, if w then 8 else 4, if o.toNat % 2 = 1 then some sc else none, if 2 ≤ o.toNat then some sc else none)
  | .amoMax d a b o sc w => some (5, d, a, b, if w then 8 else 4, if o.toNat % 2 = 1 then some sc else none, if 2 ≤ o.toNat then some sc else none)
  | .amoMinn d a b o sc w => some (6, d, a, b, if w then 8 else 4, if o.toNat % 2 = 1 then some sc else none, if 2 ≤ o.toNat then some sc else none)
  | .amoMaxn d a b o sc w => some (7, d, a, b, if w then 8 else 4, if o.toNat % 2 = 1 then some sc else none, if 2 ≤ o.toNat then some sc else none)
  | .amoSwap d a b o sc w => some (8, d, a, b, if w then 8 else 4, if o.toNat % 2 = 1 then some sc else none, if 2 ≤ o.toNat then some sc else none)
  | .amoCas d a b o sc w => some (9, d, a, b, if w then 8 else 4, if o.toNat % 2 = 1 then some sc else none, if 2 ≤ o.toNat then some sc else none)
  | _ => none

/-- The new value of a read-modify-write of `w` bits (R117), from the old value, the operand and the expected value. -/
def amoTable {w : Nat} (fn : Nat) (old v expected : BitVec w) : BitVec w :=
  match fn with
  | 0 => old + v
  | 1 => old &&& v
  | 2 => old ||| v
  | 3 => old ^^^ v
  | 4 => if old.toInt ≤ v.toInt then old else v
  | 5 => if old.toInt ≤ v.toInt then v else old
  | 6 => if old.toNat ≤ v.toNat then old else v
  | 7 => if old.toNat ≤ v.toNat then v else old
  | 8 => v
  | _ => if old = expected then v else old

/-- The widths of scalar accesses in bytes (R116). -/
abbrev accessSizes : List Nat := [1, 2, 4, 8]

end Sys2Proof

/-! ## Vector words that work element by element

`ElemWord` says what a word writes into each element of its destination group, `MaskWord` what a word writes into each bit
of its mask register. -/

namespace Sys2Proof

open Machine

/-- A word that writes a destination group element by element. -/
structure ElemWord where
  /-- The x registers that it reads. -/
  xs : List RegNo
  dst : RegNo
  mask : Option (BitVec 2)
  /-- The width of a destination element, the registers of the group and the type that gives the fill value. -/
  bits : Convoy → Nat
  regs : Convoy → Nat
  et : Convoy → Nat
  /-- The width that places its elements on lanes. -/
  lane : Convoy → Nat
  /-- The new value of element `i`, from the registers as they stood at decode and the x operand; `none` leaves it. -/
  value : Convoy → VecUnit → Word → Nat → Option Nat
  /-- The flags of element `i`. -/
  flags : Convoy → VecUnit → Word → Nat → FF

/-- A word that writes a mask register bit by bit. -/
structure MaskWord where
  xs : List RegNo
  dst : RegNo
  mask : Option (BitVec 2)
  bit : Convoy → VecUnit → Word → Nat → Bool
  flags : Convoy → VecUnit → Word → Nat → FF

/-- The second operand of an integer or floating-point word. -/
inductive Second where
  | vec (s : RegNo)
  | scalar
  | const (k : Int)

/-- The second operand of element `i`, of `w` bits (R152). -/
def Second.at (k : Second) (u : VecUnit) (x : Word) (w i : Nat) : BitVec w :=
  match k with
  | .vec s => BitVec.ofNat w (u.elem s.toNat w i)
  | .scalar => x.setWidth w
  | .const c => BitVec.ofInt w c

/-- The value of an element under a signedness, and the nearest value that a type of `w` bits holds. -/
def reading {w : Nat} (sg : Bool) (x : BitVec w) : Int := if sg then x.toInt else x.toNat
def nearest (sg : Bool) (w : Nat) (i : Int) : Int :=
  if sg then max (-(2 ^ (w - 1))) (min (2 ^ (w - 1) - 1) i) else max 0 (min (2 ^ w - 1) i)

/-- An integer type is signed unless it is one of `n32`, `n16` and `n8` (R59). -/
def typeSigned (c : Convoy) : Bool := decide (c.et < 13)

/-- The integer functions of R152, of the signedness of the type, the two operands and the old destination element. -/
abbrev ElemFn := (w : Nat) → Bool → BitVec w → BitVec w → BitVec w → BitVec w

def elemAdd : ElemFn := fun _ _ u v _ => u + v
def elemSub : ElemFn := fun _ _ u v _ => u - v
def elemMul : ElemFn := fun _ _ u v _ => u * v
def elemMulHigh : ElemFn := fun w _ u v _ => BitVec.ofInt w (u.toInt * v.toInt / 2 ^ w)
def elemMulHighN : ElemFn := fun w _ u v _ => BitVec.ofNat w (u.toNat * v.toNat / 2 ^ w)
def elemQuot : ElemFn := fun w _ u v _ =>
  if v.toInt = 0 then (if 0 ≤ u.toInt then BitVec.ofInt w (2 ^ (w - 1) - 1) else BitVec.ofInt w (-(2 ^ (w - 1))))
  else BitVec.ofInt w (min (2 ^ (w - 1) - 1) (u.toInt.tdiv v.toInt))
def elemQuotN : ElemFn := fun w _ u v _ => if v.toNat = 0 then BitVec.allOnes w else BitVec.ofNat w (u.toNat / v.toNat)
def elemRest : ElemFn := fun w _ u v _ =>
  if v.toInt = 0 then u else BitVec.ofInt w (u.toInt - v.toInt * u.toInt.tdiv v.toInt)
def elemRestN : ElemFn := fun w _ u v _ => if v.toNat = 0 then u else BitVec.ofNat w (u.toNat % v.toNat)
def elemAnd : ElemFn := fun _ _ u v _ => u &&& v
def elemOr : ElemFn := fun _ _ u v _ => u ||| v
def elemXor : ElemFn := fun _ _ u v _ => u ^^^ v
def elemShl : ElemFn := fun w _ u v _ => u <<< (v.toNat % w)
def elemShr : ElemFn := fun w _ u v _ => u >>> (v.toNat % w)
def elemSar : ElemFn := fun w _ u v _ => BitVec.ofInt w (u.toInt / 2 ^ (v.toNat % w))
def elemMin : ElemFn := fun _ _ u v _ => if u.toInt ≤ v.toInt then u else v
def elemMax : ElemFn := fun _ _ u v _ => if u.toInt ≤ v.toInt then v else u
def elemMinN : ElemFn := fun _ _ u v _ => if u.toNat ≤ v.toNat then u else v
def elemMaxN : ElemFn := fun _ _ u v _ => if u.toNat ≤ v.toNat then v else u
def elemMacc : ElemFn := fun _ _ u v old => old + u * v
def elemSatAdd : ElemFn := fun w sg u v _ => BitVec.ofInt w (nearest sg w (reading sg u + reading sg v))
def elemSatSub : ElemFn := fun w sg u v _ => BitVec.ofInt w (nearest sg w (reading sg u - reading sg v))

/-- An integer word of one width: vd, vs2, mask, x registers, second operand, function. -/
def intWord (d t : RegNo) (m : Option (BitVec 2)) (xs : List RegNo) (k : Second) (f : ElemFn) : ElemWord :=
  { xs := xs, dst := d, mask := m, bits := fun c => c.w, regs := fun c => c.g, et := fun c => c.et, lane := fun c => c.w
    value := fun c u x i => some (f c.w (typeSigned c) (BitVec.ofNat c.w (u.elem t.toNat c.w i)) (k.at u x c.w i)
      (BitVec.ofNat c.w (u.elem d.toNat c.w i))).toNat
    flags := fun _ _ _ _ => 0 }

/-- A widening integer word: elements of `2w` bits in a group of 2G, from extended sources (R152). -/
def wideWord (d s t : RegNo) (m : Option (BitVec 2)) (f : Int → Int → Int → Int) : ElemWord :=
  { xs := [], dst := d, mask := m, bits := fun c => 2 * c.w, regs := fun c => 2 * c.g, et := fun c => c.et,
    lane := fun c => 2 * c.w
    value := fun c u _ i => some (BitVec.ofInt (2 * c.w) (f
      (reading (typeSigned c) (BitVec.ofNat c.w (u.elem t.toNat c.w i)))
      (reading (typeSigned c) (BitVec.ofNat c.w (u.elem s.toNat c.w i))) (u.elem d.toNat (2 * c.w) i))).toNat
    flags := fun _ _ _ _ => 0 }

/-- `vnsra`: a shift of `2w`-bit elements, clamped to the type (R152). -/
def shrinkWord (d s t : RegNo) (m : Option (BitVec 2)) : ElemWord :=
  { xs := [], dst := d, mask := m, bits := fun c => c.w, regs := fun c => c.g, et := fun c => c.et, lane := fun c => c.w
    value := fun c u _ i => some (BitVec.ofInt c.w (nearest (typeSigned c) c.w
      (reading (typeSigned c) (BitVec.ofNat (2 * c.w) (u.elem t.toNat (2 * c.w) i)) /
        2 ^ (u.elem s.toNat c.w i % (2 * c.w))))).toNat
    flags := fun _ _ _ _ => 0 }

/-- The VINT words (R152). -/
def intElem : Instr → Option ElemWord
  | .vaddVV _ d p t _ _ m => some (intWord d t m [] (.vec p) elemAdd)
  | .vsubVV _ d p t _ _ m => some (intWord d t m [] (.vec p) elemSub)
  | .vmulVV _ d p t _ _ m => some (intWord d t m [] (.vec p) elemMul)
  | .vmulh _ d p t _ _ m => some (intWord d t m [] (.vec p) elemMulHigh)
  | .vmulhn _ d p t _ _ m => some (intWord d t m [] (.vec p) elemMulHighN)
  | .vdiv _ d p t _ _ m => some (intWord d t m [] (.vec p) elemQuot)
  | .vdivn _ d p t _ _ m => some (intWord d t m [] (.vec p) elemQuotN)
  | .vrem _ d p t _ _ m => some (intWord d t m [] (.vec p) elemRest)
  | .vremn _ d p t _ _ m => some (intWord d t m [] (.vec p) elemRestN)
  | .vandVV _ d p t _ _ m => some (intWord d t m [] (.vec p) elemAnd)
  | .vorVV _ d p t _ _ m => some (intWord d t m [] (.vec p) elemOr)
  | .vxorVV _ d p t _ _ m => some (intWord d t m [] (.vec p) elemXor)
  | .vsllVV _ d p t _ _ m => some (intWord d t m [] (.vec p) elemShl)
  | .vsrlVV _ d p t _ _ m => some (intWord d t m [] (.vec p) elemShr)
  | .vsraVV _ d p t _ _ m => some (intWord d t m [] (.vec p) elemSar)
  | .vminVV _ d p t _ _ m => some (intWord d t m [] (.vec p) elemMin)
  | .vmaxVV _ d p t _ _ m => some (intWord d t m [] (.vec p) elemMax)
  | .vminn _ d p t _ _ m => some (intWord d t m [] (.vec p) elemMinN)
  | .vmaxn _ d p t _ _ m => some (intWord d t m [] (.vec p) elemMaxN)
  | .vmaccVV _ d p t _ _ m => some (intWord d t m [] (.vec p) elemMacc)
  | .vsadd _ d p t _ _ m => some (intWord d t m [] (.vec p) elemSatAdd)
  | .vssub _ d p t _ _ m => some (intWord d t m [] (.vec p) elemSatSub)
  | .vaddVX _ d x t _ m => some (intWord d t m [x] .scalar elemAdd)
  | .vsubVX _ d x t _ m => some (intWord d t m [x] .scalar elemSub)
  | .vmulVX _ d x t _ m => some (intWord d t m [x] .scalar elemMul)
  | .vandVX _ d x t _ m => some (intWord d t m [x] .scalar elemAnd)
  | .vorVX _ d x t _ m => some (intWord d t m [x] .scalar elemOr)
  | .vxorVX _ d x t _ m => some (intWord d t m [x] .scalar elemXor)
  | .vsllVX _ d x t _ m => some (intWord d t m [x] .scalar elemShl)
  | .vsrlVX _ d x t _ m => some (intWord d t m [x] .scalar elemShr)
  | .vsraVX _ d x t _ m => some (intWord d t m [x] .scalar elemSar)
  | .vminVX _ d x t _ m => some (intWord d t m [x] .scalar elemMin)
  | .vmaxVX _ d x t _ m => some (intWord d t m [x] .scalar elemMax)
  | .vmaccVX _ d x t _ m => some (intWord d t m [x] .scalar elemMacc)
  | .vaddVI _ d k t _ m => some (intWord d t m [] (.const k.toInt) elemAdd)
  | .vandVI _ d k t _ m => some (intWord d t m [] (.const k.toInt) elemAnd)
  | .vorVI _ d k t _ m => some (intWord d t m [] (.const k.toInt) elemOr)
  | .vxorVI _ d k t _ m => some (intWord d t m [] (.const k.toInt) elemXor)
  | .vsllVI _ d k t _ m => some (intWord d t m [] (.const k.toNat) elemShl)
  | .vsrlVI _ d k t _ m => some (intWord d t m [] (.const k.toNat) elemShr)
  | .vsraVI _ d k t _ m => some (intWord d t m [] (.const k.toNat) elemSar)
  | .vwadd _ d p t _ _ m => some (wideWord d p t m (fun u v _ => u + v))
  | .vwmul _ d p t _ _ m => some (wideWord d p t m (fun u v _ => u * v))
  | .vwmacc _ d p t _ _ m => some (wideWord d p t m (fun u v old => old + u * v))
  | .vnsra _ d p t _ _ m => some (shrinkWord d p t m)
  | _ => none
/-- A floating-point word of one format: its two operands (0 where it has one) and the old element (R153). -/
def fpElemWord (d t : RegNo) (m : Option (BitVec 2)) (xs : List RegNo) (k : Option Second)
    (f : Fmt → Bool → Nat → Nat → Nat → Nat → Nat × FF) : ElemWord :=
  let r (c : Convoy) (u : VecUnit) (x : Word) (i : Nat) : Nat × FF :=
    f c.fmt c.fz c.prm (u.elem t.toNat c.w i) ((k.map (fun s => (s.at u x c.w i).toNat)).getD 0) (u.elem d.toNat c.w i)
  { xs := xs, dst := d, mask := m, bits := fun c => c.w, regs := fun c => c.g, et := fun c => c.et, lane := fun c => c.w
    value := fun c u x i => some (r c u x i).1, flags := fun c u x i => (r c u x i).2 }

/-- A widening floating-point word: exact sources, one rounding to FP32 in a group of 2G (R153). -/
def fpWideWord (d s t : RegNo) (m : Option (BitVec 2)) (f : Nat → Val → Val → Val → Val × FF) : ElemWord :=
  let r (c : Convoy) (u : VecUnit) (i : Nat) : Nat × FF :=
    let v := f c.prm (c.fmt.input c.fz (u.elem t.toNat c.w i)) (c.fmt.input c.fz (u.elem s.toNat c.w i))
      (Fmt.f32.input c.fz (u.elem d.toNat 32 i))
    let z := Fmt.f32.round c.fz c.prm v.1
    (z.1, v.2 ||| z.2)
  { xs := [], dst := d, mask := m, bits := fun _ => 32, regs := fun c => 2 * c.g, et := fun _ => 0, lane := fun _ => 32
    value := fun c u _ i => some (r c u i).1, flags := fun c u _ i => (r c u i).2 }

/-- The VFP words (R83, R153): of the format, `fz` and the rounding mode. -/
def fpElem : Instr → Option ElemWord
  | .vfaddVV _ d s t _ _ m => some (fpElemWord d t m [] (some (.vec s)) (fun f fz rm u v _ => f.add fz rm u v))
  | .vfsubVV _ d s t _ _ m => some (fpElemWord d t m [] (some (.vec s)) (fun f fz rm u v _ => f.sub fz rm u v))
  | .vfmulVV _ d s t _ _ m => some (fpElemWord d t m [] (some (.vec s)) (fun f fz rm u v _ => f.mul fz rm u v))
  | .vfdiv _ d s t _ _ m => some (fpElemWord d t m [] (some (.vec s)) (fun f fz rm u v _ => f.div fz rm u v))
  | .vfsqrt _ d t _ m => some (fpElemWord d t m [] none (fun f fz rm u _ _ => f.sqrt fz rm u))
  | .vfminVV _ d s t _ _ m => some (fpElemWord d t m [] (some (.vec s)) (fun f fz _ u v _ => f.minMax fz false u v))
  | .vfmaxVV _ d s t _ _ m => some (fpElemWord d t m [] (some (.vec s)) (fun f fz _ u v _ => f.minMax fz true u v))
  | .vfmaccVV _ d s t _ _ m => some (fpElemWord d t m [] (some (.vec s)) (fun f fz rm u v old => f.fma fz rm false u v old))
  | .vfsubm _ d s t _ _ m => some (fpElemWord d t m [] (some (.vec s)) (fun f fz rm u v old => f.fma fz rm true u v old))
  | .vfwadd _ d s t _ _ m => some (fpWideWord d s t m (fun rm u v _ => Val.add rm u v))
  | .vfwmul _ d s t _ _ m => some (fpWideWord d s t m (fun _ u v _ => Val.mul u v))
  | .vfwmacc _ d s t _ _ m => some (fpWideWord d s t m (fun rm u v old => fusedVal rm false u v old))
  | .vfexp _ d t _ m => some (fpElemWord d t m [] none (fun f fz rm u _ _ => f.special fz rm Val.exp2 u))
  | .vflog _ d t _ m => some (fpElemWord d t m [] none (fun f fz rm u _ _ => f.special fz rm Val.log2 u))
  | .vfrec _ d t _ m => some (fpElemWord d t m [] none (fun f fz rm u _ _ => f.special fz rm Val.recip u))
  | .vfrsq _ d t _ m => some (fpElemWord d t m [] none (fun f fz rm u _ _ => f.special fz rm Val.rsqrt u))
  | .vfcsgn _ d s t _ _ m => some (fpElemWord d t m [] (some (.vec s))
      (fun f _ _ u v _ => (u % 2 ^ (f.width - 1) + v / 2 ^ (f.width - 1) * 2 ^ (f.width - 1), 0)))
  | .vfkind _ d t _ m => some (fpElemWord d t m [] none (fun f fz _ u _ _ =>
      (2 * (if fz = true ∧ f.kind u = 1 then 0 else f.kind u) + u / 2 ^ (f.width - 1), 0)))
  | .vfaddVX _ d x t _ m => some (fpElemWord d t m [x] (some .scalar) (fun f fz rm u v _ => f.add fz rm u v))
  | .vfsubVX _ d x t _ m => some (fpElemWord d t m [x] (some .scalar) (fun f fz rm u v _ => f.sub fz rm u v))
  | .vfmulVX _ d x t _ m => some (fpElemWord d t m [x] (some .scalar) (fun f fz rm u v _ => f.mul fz rm u v))
  | .vfmaccVX _ d x t _ m => some (fpElemWord d t m [x] (some .scalar) (fun f fz rm u v old => f.fma fz rm false u v old))
  | .vfminVX _ d x t _ m => some (fpElemWord d t m [x] (some .scalar) (fun f fz _ u v _ => f.minMax fz false u v))
  | .vfmaxVX _ d x t _ m => some (fpElemWord d t m [x] (some .scalar) (fun f fz _ u v _ => f.minMax fz true u v))
  | _ => none

/-- A conversion word: the types and the groups are those that R154 and R155 give the word (`cvtOf`); its elements are
converted one by one, from the registers, their number and their code. -/
def cvtElemWord (i : Instr) (d t : RegNo) (m : Option (BitVec 2)) (f : Convoy → Cvt → VecUnit → Nat → Nat → Nat × FF) : ElemWord :=
  let k (c : Convoy) : Cvt := cvtOf (encode i) c
  { xs := [], dst := d, mask := m, bits := fun c => etypeWidth (k c).dst, regs := fun c => (k c).nd, et := fun c => (k c).dst
    lane := fun c => etypeWidth (k c).dst
    value := fun c u _ j => some (f c (k c) u j (u.elem t.toNat (etypeWidth (k c).src) j)).1
    flags := fun c u _ j => (f c (k c) u j (u.elem t.toNat (etypeWidth (k c).src) j)).2 }

/-- Rounding to the destination of a conversion (R71). -/
def toFloat (c : Convoy) (k : Cvt) (v : Val) : Nat × FF := ((fmtOf k.dst).getD .f32).round c.fz c.prm v

/-- The conversions of R155 and `vdeq` of R156, whose element is converted by the rows of R70, R71 and R74, under a rounding mode
other than noise shaping; `vdeq` gives `x 2^(s - 127)` for the scale `s` of the element's block, and NaN for the scale 0xFF. -/
def cvtElem (i : Instr) : Option ElemWord :=
  match i with
  | .vfcvtW _ d _ t _ m => some (cvtElemWord i d t m (fun c k _ _ x => convertCode k.src k.dst c.fz c.prm x))
  | .vfcvtFi _ d _ t _ m => some (cvtElemWord i d t m (fun c k _ _ x => convertCode k.src k.dst c.fz c.prm x))
  | .vcvtI _ d _ t _ _ m => some (cvtElemWord i d t m (fun c k _ _ x => convertCode k.src k.dst c.fz c.prm x))
  | .vfcvtN _ d _ t _ m => some (cvtElemWord i d t m (fun c k _ _ x => toFloat c k (c.input k.src x)))
  | .vfcvtIf _ d _ t _ m => some (cvtElemWord i d t m (fun c k _ _ x => toFloat c k (c.input k.src x)))
  | .vdeq _ d _ t _ m => some (cvtElemWord i d t m (fun c k u j x =>
      let s := u.scaleAt (t.toNat * 4 / regCount u.vcfg) (j / 32)
      toFloat c k (if s = 255 then .nan false else (c.input k.src x).scale ((s : Int) - 127))))
  | _ => none

/-- A word that moves elements of one width. -/
def moveWord (d : RegNo) (m : Option (BitVec 2)) (xs : List RegNo) (f : Convoy → VecUnit → Word → Nat → Option Nat) : ElemWord :=
  { xs := xs, dst := d, mask := m, bits := fun c => c.w, regs := fun c => c.g, et := fun c => c.et, lane := fun c => c.w, value := f
    flags := fun _ _ _ _ => 0 }

/-- The number of elements that a group of the captured type holds (R49). -/
def holds (c : Convoy) (u : VecUnit) : Nat := vlmax u.vcfg c.w c.g

/-- The permutations and moves (R158, R165). -/
def moveElem : Instr → Option ElemWord
  | .vslup _ d x t _ m => some (moveWord d m [x] (fun c u v i =>
      if v.toNat ≤ i then some (u.elem t.toNat c.w (i - v.toNat)) else none))
  | .vsldn _ d x t _ m => some (moveWord d m [x] (fun c u v i =>
      some (if i + v.toNat < holds c u then u.elem t.toNat c.w (i + v.toNat) else 0)))
  | .vsl1up _ d x t _ m => some (moveWord d m [x] (fun c u v i => some (if i = 0 then v.toNat else u.elem t.toNat c.w (i - 1))))
  | .vsl1dn _ d x t _ m => some (moveWord d m [x] (fun c u v i =>
      some (if i + 1 = c.vl then v.toNat else u.elem t.toNat c.w (i + 1))))
  | .vpull _ d s t _ _ m => some (moveWord d m [] (fun c u _ i =>
      some (if u.elem s.toNat c.w i < holds c u then u.elem t.toNat c.w (u.elem s.toNat c.w i) else 0)))
  | .vmerge _ d s t _ _ k => some (moveWord d none [] (fun c u _ i =>
      some (if u.mbit k.toNat i then u.elem s.toNat c.w i else u.elem t.toNat c.w i)))
  | .vrank _ d t m => some (moveWord d m [] (fun _ u _ i =>
      some ((List.range i).countP (fun j => (match m with | some k => u.mbit k.toNat j | none => true) && u.mbit t.toNat j))))
  | .vindex _ d m => some (moveWord d m [] (fun _ _ _ i => some i))
  | .vmv _ d t _ m => some (moveWord d m [] (fun c u _ i => some (u.elem t.toNat c.w i)))
  | .vbcast _ d x m => some (moveWord d m [x] (fun _ _ v _ => some v.toNat))
  | .vjoin _ d t _ m => some { xs := [], dst := d, mask := m, bits := fun _ => 32, regs := fun c => 2 * c.g, et := fun _ => 0
                               lane := fun _ => 16
                               value := fun c u _ i => some (u.elem t.toNat 16 i * 2 ^ 16 + u.elem (t.toNat + c.g) 16 i)
                               flags := fun _ _ _ _ => 0 }
  | _ => none

/-- A mask word without flags: it has no mask operand. -/
def maskPlain (d : RegNo) (f : Convoy → VecUnit → Nat → Bool) : MaskWord :=
  { xs := [], dst := d, mask := none, bit := fun c u _ i => f c u i, flags := fun _ _ _ _ => 0 }

/-- An integer comparison of vs2 with a second operand. -/
def cmpWord (d t : RegNo) (m : Option (BitVec 2)) (xs : List RegNo) (k : Second) (sg : Bool) (p : Int → Int → Bool) : MaskWord :=
  { xs := xs, dst := d, mask := m
    bit := fun c u x i => p (reading sg (BitVec.ofNat c.w (u.elem t.toNat c.w i))) (reading sg (k.at u x c.w i))
    flags := fun _ _ _ _ => 0 }

/-- A floating-point comparison. -/
def cmpFpWord (d t : RegNo) (m : Option (BitVec 2)) (xs : List RegNo) (k : Second)
    (p : Fmt → Bool → Nat → Nat → Bool × FF) : MaskWord :=
  { xs := xs, dst := d, mask := m
    bit := fun c u x i => (p c.fmt c.fz (u.elem t.toNat c.w i) (k.at u x c.w i).toNat).1
    flags := fun c u x i => (p c.fmt c.fz (u.elem t.toNat c.w i) (k.at u x c.w i).toNat).2 }

/-- The mask words and the comparisons (R163, R164). -/
def maskElem : Instr → Option MaskWord
  | .mand _ d s t => some (maskPlain d (fun _ u i => u.mbit t.toNat i && u.mbit s.toNat i))
  | .mor _ d s t => some (maskPlain d (fun _ u i => u.mbit t.toNat i || u.mbit s.toNat i))
  | .mxor _ d s t => some (maskPlain d (fun _ u i => xor (u.mbit t.toNat i) (u.mbit s.toNat i)))
  | .mnot _ d t => some (maskPlain d (fun _ u i => !u.mbit t.toNat i))
  | .mmov _ d t => some (maskPlain d (fun _ u i => u.mbit t.toNat i))
  | .mpre _ d t => some (maskPlain d (fun c u i => decide (∀ j < i + 1, c.vstart ≤ j → u.mbit t.toNat j = false)))
  | .mset _ d => some (maskPlain d (fun _ _ _ => true))
  | .mclr _ d => some (maskPlain d (fun _ _ _ => false))
  | .vmseqVV _ d s t _ _ m => some (cmpWord d t m [] (.vec s) true (fun a b => decide (a = b)))
  | .vmsneVV _ d s t _ _ m => some (cmpWord d t m [] (.vec s) true (fun a b => decide (a ≠ b)))
  | .vmsltVV _ d s t _ _ m => some (cmpWord d t m [] (.vec s) true (fun a b => decide (a < b)))
  | .vmsleVV _ d s t _ _ m => some (cmpWord d t m [] (.vec s) true (fun a b => decide (a ≤ b)))
  | .vmsltnVV _ d s t _ _ m => some (cmpWord d t m [] (.vec s) false (fun a b => decide (a < b)))
  | .vmfeqVV _ d s t _ _ m => some (cmpFpWord d t m [] (.vec s) (fun f fz a b => f.eqQuiet fz a b))
  | .vmfltVV _ d s t _ _ m => some (cmpFpWord d t m [] (.vec s) (fun f fz a b => f.less fz false a b))
  | .vmfle _ d s t _ _ m => some (cmpFpWord d t m [] (.vec s) (fun f fz a b => f.less fz true a b))
  | .vmfne _ d s t _ _ m => some (cmpFpWord d t m [] (.vec s) (fun f fz a b => (!(f.eqQuiet fz a b).1, (f.eqQuiet fz a b).2)))
  | .vmseqVX _ d x t _ m => some (cmpWord d t m [x] .scalar true (fun a b => decide (a = b)))
  | .vmsneVX _ d x t _ m => some (cmpWord d t m [x] .scalar true (fun a b => decide (a ≠ b)))
  | .vmsltVX _ d x t _ m => some (cmpWord d t m [x] .scalar true (fun a b => decide (a < b)))
  | .vmsleVX _ d x t _ m => some (cmpWord d t m [x] .scalar true (fun a b => decide (a ≤ b)))
  | .vmsgt _ d x t _ m => some (cmpWord d t m [x] .scalar true (fun a b => decide (a > b)))
  | .vmsltnVX _ d x t _ m => some (cmpWord d t m [x] .scalar false (fun a b => decide (a < b)))
  | .vmfeqVX _ d x t _ m => some (cmpFpWord d t m [x] .scalar (fun f fz a b => f.eqQuiet fz a b))
  | .vmfltVX _ d x t _ m => some (cmpFpWord d t m [x] .scalar (fun f fz a b => f.less fz false a b))
  | .vmfgt _ d x t _ m => some (cmpFpWord d t m [x] .scalar (fun f fz a b => f.less fz false b a))
  | _ => none

/-- A reduction whose result is a fold of its sources: vd, vs1, vs2, mask, FP32 result, and the value and flags of element 0
from element 0 of vs1 and the active elements of vs2 in order (R157). -/
structure RedWord where
  dst : RegNo
  first : RegNo
  src : RegNo
  mask : Option (BitVec 2)
  wide : Bool
  value : Convoy → Nat → List Nat → Nat × FF

/-- An integer reduction. -/
def redIntWord (d s t : RegNo) (m : Option (BitVec 2)) (f : (w : Nat) → Nat → List Nat → Nat) : RedWord :=
  { dst := d, first := s, src := t, mask := m, wide := false, value := fun c e0 l => (f c.w e0 l, 0) }

/-- A fold of signed values of `w` bits. -/
def foldSigned (pick : Int → Int → Int) (w e0 : Nat) (l : List Nat) : Nat :=
  (BitVec.ofInt w (l.foldl (fun a v => pick a (BitVec.ofNat w v).toInt) (BitVec.ofNat w e0).toInt)).toNat

/-- The reductions that fold their sources (R81, R157). -/
def redWord : Instr → Option RedWord
  | .vredsum _ d s t _ _ m => some (redIntWord d s t m (fun w e0 l => (e0 + l.sum) % 2 ^ w))
  | .vredmax _ d s t _ _ m => some (redIntWord d s t m (foldSigned max))
  | .vredmin _ d s t _ _ m => some (redIntWord d s t m (foldSigned min))
  | .vredmaxn _ d s t _ _ m => some (redIntWord d s t m (fun _ e0 l => l.foldl max e0))
  | .vredminn _ d s t _ _ m => some (redIntWord d s t m (fun _ e0 l => l.foldl min e0))
  | .vredand _ d s t _ _ m => some (redIntWord d s t m (fun _ e0 l => l.foldl Nat.land e0))
  | .vredor _ d s t _ _ m => some (redIntWord d s t m (fun _ e0 l => l.foldl Nat.lor e0))
  | .vfredmax _ d s t _ _ m => some { dst := d, first := s, src := t, mask := m, wide := false
                                      value := fun c e0 l => l.foldl (fun a v =>
                                        ((c.fmt.minMax c.fz true a.1 v).1, a.2 ||| (c.fmt.minMax c.fz true a.1 v).2)) (e0, 0) }
  | .vfredmin _ d s t _ _ m => some { dst := d, first := s, src := t, mask := m, wide := false
                                      value := fun c e0 l => l.foldl (fun a v =>
                                        ((c.fmt.minMax c.fz false a.1 v).1, a.2 ||| (c.fmt.minMax c.fz false a.1 v).2)) (e0, 0) }
  | .vfredosum _ d s t _ _ m => some { dst := d, first := s, src := t, mask := m, wide := false
                                       value := fun c e0 l => l.foldl (fun a v =>
                                         ((c.fmt.add c.fz c.prm a.1 v).1, a.2 ||| (c.fmt.add c.fz c.prm a.1 v).2)) (e0, 0) }
  | .vfwredosum _ d s t _ _ m => some { dst := d, first := s, src := t, mask := m, wide := true
                                        value := fun c e0 l => l.foldl (fun a v =>
                                          let z := Val.add c.prm (Fmt.f32.input c.fz a.1) (c.fmt.input c.fz v)
                                          let r := Fmt.f32.round c.fz c.prm z.1
                                          (r.1, a.2 ||| (z.2 ||| r.2))) (e0, 0) }
  | _ => none

/-- The words that work element by element, with the x registers that they read. -/
def planned (i : Instr) : Option (List RegNo) :=
  match i with
  | .vcvtq _ _ _ _ _ _ => some []
  | .vupdSgdm _ _ _ _ _ _ _ => some []
  | .vupdAdamw _ _ _ _ _ _ _ => some []
  | .vsplit _ _ _ _ _ => some []
  | _ =>
    (intElem i).map (·.xs) <|> (fpElem i).map (·.xs) <|> (cvtElem i).map (·.xs) <|> (moveElem i).map (·.xs) <|>
      (maskElem i).map (·.xs)

end Sys2Proof

namespace Sys2Proof.Machine

/-- The state in which the body of a vector word runs, and the value of its x register (0 when it reads none): its convoy is
in progress and its port has popped (R42, R47). -/
def State.issued (s : State) (i : Instr) (xs : List RegNo) : State := ((s.inConvoy (s.cap (encode i))).reads xs).1
def State.operand (s : State) (i : Instr) (xs : List RegNo) : Word := ((s.inConvoy (s.cap (encode i))).reads xs).2.headD 0

/-- The word admits element `j`. -/
def maskAdmits (m : Option (BitVec 2)) (u : VecUnit) (j : Nat) : Bool :=
  match m with
  | some k => u.mbit k.toNat j
  | none => true

/-- What a word leaves in place `j` of its destination, from the old value, the new value and the fill value (R137, R139,
R150): nothing changes with `vl` at or below `vstart`; the tail and the masked-off elements are filled or left; an active element
is written unless a part of the word that ran before has written it. -/
def leaves {α : Type} (c : Convoy) (m : Option (BitVec 2)) (u : VecUnit) (w j : Nat) (old new fill : α) : α :=
  if c.vl ≤ c.vstart ∨ j < c.vstart then old
  else if c.vl ≤ j then (if c.tfill then fill else old)
  else if maskAdmits m u j then (if lgAt c.lgp (lgOf w j) ≤ j then new else old)
  else (if c.mfill then fill else old)

/-- The flags of the elements that a word performs. -/
def flagsOf (c : Convoy) (m : Option (BitVec 2)) (u : VecUnit) (w : Nat) (f : Nat → FF) : FF :=
  ((List.range c.vl).filter (fun j => decide (c.vstart ≤ j) && maskAdmits m u j && decide (lgAt c.lgp (lgOf w j) ≤ j))).foldl
    (fun a j => a ||| f j) 0

end Sys2Proof.Machine

namespace Sys2Proof

open Machine

/-- What an element word leaves: each element of its destination group, every register outside the group, the mask registers,
and the flags in `fcsr`. -/
def ElemWord.Leaves (e : ElemWord) (i : Instr) (s t : State) : Prop :=
  let c := s.cap (encode i)
  let x := s.operand i e.xs
  let w := e.bits c
  let lw := e.lane c
  let b := regBits s.vu.vcfg
  (∀ j, j < b * e.regs c / w → t.vu.elem e.dst.toNat w j =
    leaves c e.mask s.vu lw j (s.vu.elem e.dst.toNat w j)
      (((e.value c s.vu x j).map (· % 2 ^ w)).getD (s.vu.elem e.dst.toNat w j)) (fillValue (e.et c) % 2 ^ w)) ∧
  (∀ r, r < regCount s.vu.vcfg → (r < e.dst.toNat ∨ e.dst.toNat + e.regs c ≤ r) →
    t.vu.get (r * b) b = s.vu.get (r * b) b ∧ t.vu.marks.getLsbD r = s.vu.marks.getLsbD r) ∧
  t.vu.masks = s.vu.masks ∧
  t.me.fcsr &&& 0x1FF = orFlags s.me.fcsr (flagsOf c e.mask s.vu lw (e.flags c s.vu x)) &&& 0x1FF

/-- What a mask word leaves: each bit of its mask register up to VLMAX and the bits above, the other mask registers, the vector
registers and the flags in `fcsr`. -/
def MaskWord.Leaves (e : MaskWord) (i : Instr) (s t : State) : Prop :=
  let c := s.cap (encode i)
  let x := s.operand i e.xs
  (∀ j, j < vlmax s.vu.vcfg c.w c.g → t.vu.mbit e.dst.toNat j =
    leaves c e.mask s.vu c.w j (s.vu.mbit e.dst.toNat j) (e.bit c s.vu x j) false) ∧
  (∀ j, vlmax s.vu.vcfg c.w c.g ≤ j → t.vu.mbit e.dst.toNat j = s.vu.mbit e.dst.toNat j) ∧
  (∀ k j, k ≠ e.dst.toNat → t.vu.mbit k j = s.vu.mbit k j) ∧
  t.vu.regs = s.vu.regs ∧ t.vu.marks = s.vu.marks ∧
  t.me.fcsr &&& 0x1FF = orFlags s.me.fcsr (flagsOf c e.mask s.vu c.w (e.flags c s.vu x)) &&& 0x1FF

/-- What a reduction leaves: element 0 of vd, the other elements as tail, every other register, and the flags (R157). -/
def RedWord.Leaves (e : RedWord) (i : Instr) (s t : State) : Prop :=
  let c := s.cap (encode i)
  let w := if e.wide then 32 else c.w
  let n := if e.wide then 2 * c.g else c.g
  let b := regBits s.vu.vcfg
  let l := ((List.range c.vl).filter (maskAdmits e.mask s.vu)).map (s.vu.elem e.src.toNat c.w)
  let r := e.value c (s.vu.elem e.first.toNat w 0) l
  (t.vu.elem e.dst.toNat w 0 = if c.vl = 0 then s.vu.elem e.dst.toNat w 0 else r.1 % 2 ^ w) ∧
  (∀ j, 1 ≤ j → j < b * n / w → t.vu.elem e.dst.toNat w j =
    if c.vl ≠ 0 ∧ c.tfill = true then fillValue (if e.wide then 0 else c.et) % 2 ^ w else s.vu.elem e.dst.toNat w j) ∧
  (∀ k, k < regCount s.vu.vcfg → (k < e.dst.toNat ∨ e.dst.toNat + n ≤ k) → t.vu.get (k * b) b = s.vu.get (k * b) b) ∧
  t.me.fcsr &&& 0x1FF = (if c.vl = 0 then s.me.fcsr else orFlags s.me.fcsr r.2) &&& 0x1FF

end Sys2Proof

/-! ## Sums in the fixed tree of R82 -/

namespace Sys2Proof

open Machine

/-- A node of two children: both are added, and one alone stands for itself. -/
def bothOf (add : Val → Val → Val) : Option Val → Option Val → Option Val
  | some x, some y => some (add x y)
  | some x, none => some x
  | none, y => y

/-- One level of a balanced binary tree. -/
def pairsOf (add : Val → Val → Val) : List (Option Val) → List (Option Val)
  | x :: y :: l => bothOf add x y :: pairsOf add l
  | l => l

/-- A balanced binary tree of `n` levels. -/
def balanced (add : Val → Val → Val) : Nat → List (Option Val) → Option Val
  | 0, l => l.head?.getD none
  | n + 1, l => balanced add n (pairsOf add l)

/-- The tree over the elements of a group, absent ones left out: within granules of `per` elements, across the 16 lanes of a beat,
across the beats of a register, and then register after register (R82). -/
def treeTotal (add : Val → Val → Val) (leaf : Nat → Option Val) (per beats regs : Nat) : Option Val :=
  let granule (k : Nat) : Option Val := balanced add 4 ((List.range per).map (fun e => leaf (k * per + e)))
  let beat (k : Nat) : Option Val := balanced add 4 ((List.range 16).map (fun l => granule (16 * k + l)))
  let register (r : Nat) : Option Val := balanced add 6 ((List.range beats).map (fun b => beat (r * beats + b)))
  (List.range regs).foldl (fun a r => bothOf add a (register r)) none

end Sys2Proof

/-! ## Vector memory words -/

namespace Sys2Proof

open Machine

/-- A vector load or store (R142): its register, its x registers, its index group, its mask, the fields of an element, whether
its elements are placed by bits, whether it is ordered, and the address of field `j` of element `i`. -/
structure MemWord where
  store : Bool
  reg : RegNo
  xs : List RegNo
  index : Option RegNo
  mask : Option (BitVec 2)
  fields : Nat
  strip : Bool
  ordered : Bool
  addr : Convoy → VecUnit → Word → Word → Nat → Nat → Word

/-- The address forms of R142: unit stride, a stride in a register, segments of `n` fields, indices of 32 bits, and strips of
sub-byte elements at a bit offset. -/
def unitAddr : Convoy → VecUnit → Word → Word → Nat → Nat → Word := fun c _ b _ i _ => b + BitVec.ofNat 64 (i * (c.w / 8))
def strideAddr : Convoy → VecUnit → Word → Word → Nat → Nat → Word := fun _ _ b y i _ => b + BitVec.ofNat 64 i * y
def segAddr (n : Nat) : Convoy → VecUnit → Word → Word → Nat → Nat → Word :=
  fun c _ b _ i j => b + BitVec.ofNat 64 ((i * n + j) * (c.w / 8))
def indexAddr (r : RegNo) : Convoy → VecUnit → Word → Word → Nat → Nat → Word :=
  fun c u b _ i _ => b + BitVec.ofNat 64 (u.elem r.toNat 32 i * (c.w / 8))
def stripAddr : Convoy → VecUnit → Word → Word → Nat → Nat → Word :=
  fun c _ b y i _ => b + BitVec.ofNat 64 ((y.toNat + c.w * i) / 8)

/-- A load and a store of one field. -/
def loadMem (d : RegNo) (xs : List RegNo) (m : Option (BitVec 2))
    (f : Convoy → VecUnit → Word → Word → Nat → Nat → Word) : MemWord :=
  { store := false, reg := d, xs := xs, index := none, mask := m, fields := 1, strip := false, ordered := false, addr := f }
def storeMem (v : RegNo) (xs : List RegNo) (m : Option (BitVec 2))
    (f : Convoy → VecUnit → Word → Word → Nat → Nat → Word) : MemWord :=
  { store := true, reg := v, xs := xs, index := none, mask := m, fields := 1, strip := false, ordered := false, addr := f }

/-- The words of VLD and VST that move elements (R142). -/
def memWord : Instr → Option MemWord
  | .vle _ d x m => some (loadMem d [x] m unitAddr)
  | .vlse _ d x y m => some (loadMem d [x, y] m strideAddr)
  | .vlseg _ d x f m => some { loadMem d [x] m (segAddr (f.toNat + 1)) with fields := f.toNat + 1 }
  | .vlx _ d x r m => some { loadMem d [x] m (indexAddr r) with index := some r }
  | .vlb _ d x y m => some { loadMem d [x, y] m stripAddr with strip := true }
  | .vse _ v x _ m => some (storeMem v [x] m unitAddr)
  | .vsse _ v x y _ m => some (storeMem v [x, y] m strideAddr)
  | .vsseg _ v x f _ m => some { storeMem v [x] m (segAddr (f.toNat + 1)) with fields := f.toNat + 1 }
  | .vsx _ v x r _ m => some { storeMem v [x] m (indexAddr r) with index := some r }
  | .vsxo _ v x r _ m => some { storeMem v [x] m (indexAddr r) with index := some r, ordered := true }
  | .vsb _ v x y _ m => some { storeMem v [x, y] m stripAddr with strip := true }
  | _ => none

/-- The elements that a word performs, in order (R103, R139). -/
def performed (c : Convoy) (m : Option (BitVec 2)) (u : VecUnit) : List Nat :=
  (List.range c.vl).filter (fun i => decide (c.vstart ≤ i) && maskAdmits m u i && decide (lgAt c.lgp (lgOf c.w i) ≤ i))

/-- The accesses of a word in element order: an element of whole bytes, or, in a strip, the bytes that its bits lie in (R76,
R142). -/
def MemWord.accesses (e : MemWord) (c : Convoy) (u : VecUnit) (x y : Word) : List Access :=
  (performed c e.mask u).flatMap (fun i => (List.range e.fields).map (fun j =>
    { i := i, va := e.addr c u x y i j
      n := if e.strip then ((y.toNat + c.w * i) % 8 + c.w + 7) / 8 else c.w / 8
      bit := if e.strip then (y.toNat + c.w * i) % 8 else 0
      w := c.w, pos := (e.reg.toNat + j * c.g) * regBits u.vcfg + c.w * i }))

/-- The state in which a word's accesses are examined: its ports have popped, and the reads of its indices are noted (R51). -/
def MemWord.start (e : MemWord) (i : Instr) (s : State) : State :=
  match e.index with
  | some r => (s.issued i e.xs).markedIndex (encode i) (s.cap (encode i)) r
  | none => s.issued i e.xs

/-- The examination of a list of accesses in order (R138, R139). -/
def Machine.State.examine (s : State) (align : Nat) (store : Bool) (l : List Access) : Scan :=
  scanAll align store l { s := s, good := [], bad := [], wait := none }

/-- The operations that join the V pipe for a list of accesses (R91). -/
def Machine.State.vectorOps (s : State) (kind : Access → VKind) (ordered : Bool) (l : List (Access × VPlace)) : List VOp :=
  l.zipIdx.map (fun p =>
    { id := s.me.vnext + p.2, ins := s.me.vins, pc := s.me.x.pc, kind := kind p.1.1, va := p.1.1.va, place := p.1.2.1, far := p.1.2.2,
      bit := p.1.1.bit, elem := p.1.1.i, ordered := ordered, hold := s.me.vhold, fence := s.me.vfence })

/-- The operations that join the V pipe for accesses of several kinds (R91). -/
def Machine.State.mixedOps (s : State) (l : List (VKind × Access × VPlace)) : List VOp :=
  l.zipIdx.map (fun p =>
    { id := s.me.vnext + p.2, ins := s.me.vins, pc := s.me.x.pc, kind := p.1.1, va := p.1.2.1.va, place := p.1.2.2.1,
      far := p.1.2.2.2, bit := p.1.2.1.bit, elem := p.1.2.1.i, ordered := false, hold := s.me.vhold, fence := s.me.vfence })

/-- The scales that a scale word moves: one byte for each block of 32 elements that it reaches (R143). -/
def scaleList (c : Convoy) (b : Word) : List Access :=
  ((List.range ((c.vl + 31) / 32)).filter (fun k => decide (c.vstart / 32 ≤ k))).map (fun k =>
    { i := max (32 * k) c.vstart, va := b + BitVec.ofNat 64 k, n := 1, bit := 0, w := 8, pos := k })

/-- A value of a lane's slice of the lane store (R144). -/
def Machine.State.laneValue (s : State) (lane off n : Nat) : Nat := readLE (cellGet s.me.lanes) (lane * 131072 + off) n

/-- The sum that `vlla` writes (R144). -/
def laneTotal (c : Convoy) (old v : Nat) : Nat :=
  match fmtOf c.et with
  | none => (old + v) % 2 ^ c.w
  | some f => (f.add c.fz (plainRm c.rm) old v).1

end Sys2Proof

/-! ## Engine and KV words -/

namespace Sys2Proof

open Machine

/-- The ENG words with a parameter block: rd, the block's register, the command's number, its scope and flags, and the checks of
its block, which answer the surfaces that it writes (R180-R198). -/
def engineWord (i : Instr) : Option (RegNo × RegNo × Nat × BitVec 2 × BitVec 3 × (State → Nat → Chk (List Surf))) :=
  let w := encode i
  match i with
  | .cpy d p sc tier keep =>
    let fl : BitVec 3 := 0#1 ++ BitVec.ofBool tier ++ BitVec.ofBool keep
    some (d, p, 0, sc, fl, fun s b => s.cpyCheck w fl b)
  | .cpyq d p sc => some (d, p, 1, sc, 0, fun s b => s.cpyqCheck w b)
  | .cpys d p sc => some (d, p, 2, sc, 0, fun s b => s.cpysCheck w b)
  | .gath d p sc qdst qidx =>
    let fl : BitVec 3 := 0#1 ++ BitVec.ofBool qdst ++ BitVec.ofBool qidx
    some (d, p, 3, sc, fl, fun s b => s.gathCheck w fl b)
  | .scad d p sc qval qidx =>
    let fl : BitVec 3 := 0#1 ++ BitVec.ofBool qval ++ BitVec.ofBool qidx
    some (d, p, 4, sc, fl, fun s b => s.scadCheck w fl b)
  | .coll d p sc => some (d, p, 5, sc, 0, fun s b => s.collCheck w b)
  | .mig d p => some (d, p, 9, 0, 0, fun s b => s.migCheck w b)
  | _ => none

/-- The SPAN words: ad, ap, an, and what the agent computes from the map, its pool and the operands (R220-R229). -/
def spanWord (i : Instr) :
    Option (RegNo × RegNo × RegNo × (State → Nat → KMap → KPool → Word → Word → Chk (Word × State))) :=
  let w := encode i
  match i with
  | .kvfork d p n _ => some (d, p, n, fun s g m q y _ => s.kvForkTo w g m q y)
  | .kvapp d p n _ => some (d, p, n, fun s g m q y _ => s.kvAppend w g m q y)
  | .kvtag d p n _ => some (d, p, n, fun s g m _ y _ =>
      if 16 ≤ y.toNat then .trap 0x01 6 (w.zeroExtend 64) else .ok (BitVec.ofNat 64 m.curtag, s.kvPut g (m.va + 29) 1 y.toNat))
  | .kvret d p n _ => some (d, p, n, fun s g m q y z => s.kvRetireSpan w g m q y z)
  | .kvres d p n _ => some (d, p, n, fun s g m q y _ =>
      if 2 ^ 20 ≤ y.toNat ∨ 4 < y.toNat / 2 ^ 16 then .trap 0x01 6 (w.zeroExtend 64)
      else (s.kvEnts g m q m.count).bind fun r => .ok (BitVec.ofNat 64 (kvCount m r.1 (y.extractLsb' 0 16) (y.toNat / 2 ^ 16)), r.2))
  | .kvpin d p n _ ev un pin => some (d, p, n, fun s g m q y _ => s.kvPin w g m q y ev un pin)
  | .kvlook d p n _ => some (d, p, n, fun s g m q y _ =>
      if 2 ^ 32 ≤ y.toNat then .trap 0x01 6 (w.zeroExtend 64)
      else (s.kvFind g m y.toNat m.count 0).bind fun r =>
        match r.1 with
        | none => .ok (0x300, r.2)
        | some e => (r.2.kvRefresh g q e).bind fun z =>
            .ok (if z.1.retired then BitVec.ofNat 64 (0x200 + (y.toNat - z.1.first))
                 else BitVec.ofNat 64 (z.1.page.toNat / 65536 * 65536 + (if z.1.tier = 0 ∧ z.1.inflight = false then 0 else 256) +
                   (y.toNat - z.1.first)), z.2))
  | _ => none

end Sys2Proof
end

