-- ==== Sys2Proof/Certificates/Slice0/Obligations.lean ====
section
/-!
DEFINITION. The statements for the provers, each with the sentences that say what it states.
-/

open Sys2Proof Sys2Proof.Machine

/-- A step without an input, of a placed strand whose thread is ready, fetches the word at the program counter and runs the
instruction it decodes to; a word that is no instruction raises illegal-instruction; a fetch that cannot be made raises its
exception (R100, R109, R110). The thread is not in the middle of entering a trap, and it has no read pending that is going to
trap or could still come to (R116; log entry 96). `thenHeld` puts the entries of the flight table after an instruction that a
return from a trap restarted, and is otherwise nothing (R274); `settled` releases the commands whose absent-fault entries a
performed write has answered (R287). The instruction count of a turn (`slice`) is the model's own (log entry 49). What a fetch
reads (R100, R116, R295, R298; the executable pages of R294): a PC that is no multiple of 4 raises misaligned, one in the
scratchpad window protection, one without a valid mapping a load page fault and one on a page that is not executable, or not for
U mode, protection; it waits while the page is moving, and a poisoned word raises poisoned data. Otherwise it reads the four
bytes at the frame's address, low byte first. (Stated of an address that no surface record and no copy of the capability list
holds, with no store to code since the strand was placed, with the counters of frames off, and without a cached translation.) -/
def Obligations.StepRunsDecoded : Prop :=
  (∀ (s : State), s.inputs = [] → s.stopped = false → s.me.status = .placed → s.me.stop = [] → s.cur.ready = true →
      s.slice < sliceLength → s.held = none → s.cur.pend = none → s.trapsAhead = false →
      let s0 := { s with slice := s.slice + 1 }
      (∀ w s1 i, s0.fetch = .word w s1 → decode w = .ok i → s.me.resumeAt = none → step s = settled (exec i s1)) ∧
      (∀ w s1 i, s0.fetch = .word w s1 → decode w = .ok i →
        step s = settled (match exec i s1 with | .next t => .next (t.thenHeld s0) | o => o)) ∧
      (∀ w s1 e, s0.fetch = .word w s1 → check w = .error e → s.me.resumeAt = none →
        step s = settled (exec (.illegalInstruction w) s1)) ∧
      (∀ c, s0.fetch = .trap c → step s = .next (s0.takeTrap (s0.trapAt c 0 s0.cur.pc)).released) ∧
      (∀ t : State, (∀ c ∈ t.cmds, c.absent = none) → settled (.next t) = .next t)) ∧
  (∀ (s : State), let pc := s.cur.pc
      (pc.toNat % 4 ≠ 0 → s.fetch = .trap 0x03) ∧
      (pc.toNat % 4 = 0 → inWindow pc = true → s.fetch = .trap 0x06) ∧
      (pc.toNat % 4 = 0 → inWindow pc = false → s.unsurfaced pc = true →
        s.tlbHit s.me.ctx s.me.die (some s.me.core) pc = none →
        (s.walk s.me.ctx pc = .invalid → s.fetch = .trap 0x04) ∧
        (canonical pc = true → ∀ e q k, s.walk s.me.ctx pc = .moving e q k → s.fetch = .moving) ∧
        (canonical pc = true → ∀ e q k, s.walk s.me.ctx pc = .leaf e q k →
          ((e.getLsbD 4 = false ∨ s.cur.priv = .u ∧ e.getLsbD 5 = true) → s.fetch = .trap 0x06) ∧
          (e.getLsbD 4 = true → (s.cur.priv = .u → e.getLsbD 5 = false) → e.getLsbD 6 = true → e.getLsbD 9 = false →
            let pa := s.normPa (leafPa e k pc)
            (s.poisonedAt (.mem pa) 4 = true → s.fetch = .trap 0x09) ∧
            (s.poisonedAt (.mem pa) 4 = false → s.codeOld = [] → s.fct = 0 →
              ∃ w u, s.fetch = .word w u ∧ u = { s with tlb := u.tlb } ∧
                ∀ j, j < 4 → w.toNat / 2 ^ (8 * j) % 256 = (s.byte (pa + j)).toNat)))))

/-- An input comes before anything else: an event of the table happens, the turn passes to the thread it names, or one of the
environment's choices is made; once the module has stopped, a step stops unless its input is a cold reset (R329). That the time
and the order in which such things happen come as inputs, the agents that a case has, the words in flight, the forwarding of a
page fault and the correctable errors among them, is the model's own choice (log entries 4, 49, 69, 72 and 106). -/
def Obligations.StepTakesInput : Prop :=
  ∀ (s : State) (l : List Input),
    (∀ i, s.inputs = .event i :: l → i.isEvent = true → (s.stopped = false ∨ (Input.event i).isColdReset = true) →
      step s = settled (exec i { s with inputs := l })) ∧
    (∀ u t, s.inputs = .turn u t :: l → s.stopped = false → step s = .next ({ s with inputs := l }.turnTo u t).released) ∧
    (∀ g, s.inputs = .agents g :: l → s.stopped = false → step s = .next { s with inputs := l, agents := g }.released) ∧
    (∀ u a, s.inputs = .flying u a :: l → s.stopped = false →
      step s = .next ({ s with inputs := l }.modStrand u (fun m => { m with ahead := a })).released) ∧
    (∀ u t, s.inputs = .forward u t :: l → s.stopped = false → step s = .next ({ s with inputs := l }.forward u t).released) ∧
    (∀ m, s.inputs = .corrected m :: l → s.stopped = false →
      step s = .next ({ s with inputs := l }.bumpCounter (if m then 1 else 0)).released) ∧
    (s.stopped = true → (∀ i ∈ s.inputs.head?, i.isColdReset = false) → step s = .fault .moduleStopped)

/-- Every constructor's meaning answers a next state, in every state: nothing an instruction or an event does stops the machine. A
step is never refused, and it faults only when the module has stopped. -/
def Obligations.NothingStops : Prop :=
  (∀ (i : Instr) (s : State), ∃ t, exec i s = .next t) ∧
  (∀ (s : State), s.stopped = false → ∃ t, step s = .next t)

/-- A word of every family of the opcode table decodes to the instruction beside it: the words are those that the manual prints but
for `immh`, VINT.VX and VMASK, of which it prints none and whose words stand as R101 and R103 lay them out. A word with a
reserved field that is not zero, and one whose function is none, decode to no instruction. The majors that R107 assigns to no
instruction hold none. -/
def Obligations.DecodingIsRight : Prop :=
  (decode 0x08A50010#32 = .ok (.addi 5 5 16#16) ∧ decode 0x30A7300D#32 = .ok (.amoAdd 5 7 6 1#2 2#2 true) ∧
    decode 0x38A6FFFD#32 = .ok (.beq 5 6 0xFFFD#16) ∧ decode 0x50200008#32 = .ok (.jal 1 8#21) ∧
    decode 0x5C060000#32 = .ok (.qpush 6 0) ∧ decode 0x60054004#32 = .ok (.csrw 0 5 4#12) ∧
    decode 0x64000004#32 = .ok (.fenceAv 2#2) ∧ decode 0x68000060#32 = .ok .halt ∧ decode 0x80C31C00#32 = .ok (.vcfg 12 6 7) ∧
    decode 0x84452C01#32 = .ok (.vlse false 4 10 11 none) ∧ decode 0x8832A0C3#32 = .ok (.vsx false 3 5 8 false (some 2#2)) ∧
    decode 0x90811000#32 = .ok (.vaddVV false 8 2 4 false false none) ∧
    decode 0x9C618807#32 = .ok (.vfmaccVV false 6 3 2 false false none) ∧
    decode 0xA4402001#32 = .ok (.vfcvtN false 4 0 8 false none) ∧
    decode 0xACA30805#32 = .ok (.vpush false 10 6 2 false false none) ∧
    decode 0xB4128CC6#32 = .ok (.vmfltVV false 1 5 3 false false (some 2#2)) ∧ decode 0xBC218004#32 = .ok (.vqpop false 2 3#3) ∧
    decode 0xC0022001#32 = .ok (.vupdAdamw false 0 4 8 false false none) ∧
    decode 0xC40430A0#32 = .ok (.tcross false 0 2 3 0 false false (some 1#2)) ∧ decode 0xC8000000#32 = .ok (.tzero false 0) ∧
    decode 0xCC4E0000#32 = .ok (.tcfg false 1 7) ∧ decode 0x6CE60010#32 = .ok (.cpy 7 6 2#2 false false) ∧
    decode 0x6D2700E0#32 = .ok (.tokw 9 7) ∧ decode 0x70A63810#32 = .ok (.kvfork 5 6 7 2#2) ∧
    decode 0x04F80000#32 = .ok (.add 7 24 0) ∧ decode 0x04A64421#32 = .ok (.srai 5 6 40) ∧ decode 0x20A00001#32 = .ok (.immh 5 1#21) ∧
    decode 0x28C5A000#32 = .ok (.ldwn 6 5 0) ∧ decode 0x2CF64000#32 = .ok (.stw 7 22 0) ∧ decode 0x34A638E0#32 = .ok (.fmac 5 6 7) ∧
    decode 0x5900FFF5#32 = .ok (.loopEnd 0 0xFFF5#16) ∧ decode 0x74060000#32 = .ok (.rvchain 6) ∧ decode 0x74A00040#32 = .ok (.rvq 5) ∧
    decode 0x84128000#32 = .ok (.vle false 1 5 none) ∧ decode 0x8C229A01#32 = .ok (.vlst false 2 5 6 true none) ∧
    decode 0x94238400#32 = .ok (.vaddVX false 2 7 1 false none) ∧ decode 0x981E8800#32 = .ok (.vaddVI false 1 0x1D#5 2 false none) ∧
    decode 0xA2238402#32 = .ok (.vfmulVX true 2 7 1 false none) ∧ decode 0xA8528D08#32 = .ok (.vfredosum false 5 5 3 false true none) ∧
    decode 0xB0110C00#32 = .ok (.mand false 1 2 3) ∧ decode 0xB8158C08#32 = .ok (.vmfgt false 1 11 3 false none) ∧
    decode 0x30C50145#32 = .error .reserved ∧ decode 0x6CA60140#32 = .error .undefined) ∧
  (∀ (w : IWord), (w.extractLsb' 26 6 = 0#6 ∨ w.extractLsb' 26 6 = 0x1E#6 ∨ w.extractLsb' 26 6 = 0x1F#6 ∨
      0x34 ≤ (w.extractLsb' 26 6).toNat) → decode w = .error .undefined)

/-- Decoding and encoding agree: every well-formed instruction that a word encodes is what its word decodes to, with every operand
at every value (R101, R102, R109). -/
def Obligations.DecodeOfEncode : Prop :=
  ∀ (i : Instr), i.wellFormed = true → i.isEvent = false → decode (encode i) = .ok i

/-- Every step keeps memory in its canonical form, whatever the input or the instruction. -/
def Obligations.StepKeepsMemoryCanonical : Prop :=
  ∀ (s t : State), s.Inv → step s = .next t → t.Inv

/-- A word that fails a check of R110 has no effect of its own: it takes the trap of the first check that fails, with that check's
sub-code and, in `tval`, the word that failed (a member's, where the check of a whole convoy fails). The history ring keeps the
trap of a vector word (R292): event 1, the `vl` and the count of active elements at its decode, 0 for a configuration word, and
the element range 0 (these values are the model's choice, log entry 57). A word that comes behind one that has stopped part way
or trapped is not among them (R273). Every instruction that a word encodes is meant, and every state. The checks 2 to 5 of R110
for a scalar word, in their order: the thread, the queue and its direction or the write of `x28`-`x31`, the privilege, the
vector unit that a vector CSR needs. A word that is no instruction raises illegal-instruction, with sub-code 0 where it is
undefined and 1 where a reserved field is not zero, and `tval` the word (R109). -/
def Obligations.FailedChecks : Prop :=
  (∀ (i : Instr) (s : State) (cause sub : Nat) (v : IWord), i.isEvent = false → checks (encode i) s = some (cause, sub, v) →
      let w := encode i
      let c := s.cap w
      (wMaj w < 0x20 → exec i s = .next (s.takeTrap (s.trapAt cause sub (v.zeroExtend 64)))) ∧
      (wMaj w = 0x20 → exec i s = .next ((s.history w c { event := 1, vl := c.vl, active := 0, first := 0, last := 0 }).takeTrap
        (s.trapAt cause sub (v.zeroExtend 64)))) ∧
      (0x21 ≤ wMaj w → s.me.stopping = false → exec i s = .next ((s.history w c
        { event := 1, vl := c.vl, active := (s.vu.active c (wMask w)).length, first := 0, last := 0 }).takeTrap
          (s.trapAt cause sub (v.zeroExtend 64))))) ∧
  (∀ (w : IWord) (s : State), wMaj w < 0x20 →
      checks w s =
        if (column w).admits s.thr = false then some (0x01, 2, w)
        else if dirOk w s.thr = false then some (0x01, 3, w)
        else if needsS w = true ∧ s.cur.priv = .u then some (0x11, 0, w)
        else if needsVec w = true ∧ s.me.xstate.getLsbD 0 = false then some (0x07, 0, w)
        else none) ∧
  (∀ (s : State) (w : IWord),
      (check w = .error .undefined → exec (.illegalInstruction w) s = .next (s.takeTrap (s.trapAt 0x01 0 (w.zeroExtend 64)))) ∧
      (check w = .error .reserved → exec (.illegalInstruction w) s = .next (s.takeTrap (s.trapAt 0x01 1 (w.zeroExtend 64)))))

/-- A scalar word waits, changing nothing but its thread's reason for waiting, while a pending load will write a register that it
names (A-thread), while a subnormal assist is owed, and while a queue it pops holds too little or the queue it pushes is full
(X-thread, R47, R77, R90). When the operands of a scalar word are at hand: in the A-thread, when no pending operation writes a
register (other than register 0) that the word names; in the X-thread without ports, when no subnormal assist is owed (R47,
R90). -/
def Obligations.OperandsAtHand : Prop :=
  (∀ (i : Instr) (s : State) (srcs : List RegNo) (dst : Option RegNo) (w : Wait), scalarForm i = some (srcs, dst) →
      s.passes i = true → s.gate srcs dst = .stall w → exec i s = .next (s.waitFor w)) ∧
  ((∀ (s : State) (srcs : List RegNo) (dst : Option RegNo), s.thr = .a →
      (s.atHand srcs dst = true ↔ ∀ r, (r ∈ srcs ∨ dst = some r) → r = 0 ∨ s.awaited r = false)) ∧
    (∀ (s : State) (srcs : List RegNo) (dst : Option RegNo), s.thr = .x →
      (∀ r, (r ∈ srcs ∨ dst = some r) → r.toNat < 24) → (s.atHand srcs dst = true ↔ s.me.assists = 0)) ∧
    (∀ (s : State) (r : RegNo) (e : Entry), s.thr = .x → 24 ≤ r.toNat → s.me.assists = 0 →
      (s.queue (r.toNat - 24)).items.head? = some e → e.poison = false → s.atHand [r] none = true))

/-- Register 0 reads as zero and a write of it is discarded; any other register of the thread at hand reads what was last written to
it and a write leaves the others; in the X-thread, reading `x24`-`x31` pops the head of `q0`-`q7` and gives its low 64 bits, and
writing `x24`-`x27` pushes the result, zero-extended, onto `sq0`-`sq3` (R46, R47). -/
def Obligations.RegisterFields : Prop :=
  ∀ (s : State) (r : RegNo) (v : Word),
    s.cur.reg 0 = 0 ∧ s.put 0 v = s ∧
    (s.isPort r = false → s.take r = (s.cur.reg r, s)) ∧
    (s.isPort r = false → r ≠ 0 → (s.put r v).cur.reg r = v ∧ ∀ k, k ≠ r → (s.put r v).cur.reg k = s.cur.reg k) ∧
    (s.isPort r = true → ∀ e l, (s.queue (r.toNat - 24)).items = e :: l → (s.take r).1 = e.val.extractLsb' 0 64 ∧
      ((s.take r).2.queue (r.toNat - 24)).items = l ∧ (s.take r).2.cur = s.cur) ∧
    (s.isPort r = true → r.toNat < 28 → (s.put r v).cur = s.cur ∧
      ∃ e, ((s.put r v).queue (r.toNat - 16)).items = (s.queue (r.toNat - 16)).items ++ [e] ∧
        e.val = v.zeroExtend 128 ∧ e.poison = false)

/-- The OPS words of two sources complete: rd takes the function of the two source values that R114 gives, and the thread goes on at
PC + 4. The OPS words of one source, the immediate shifts and the immediate words complete (R114, R115): rd takes the function
of the source value. -/
def Obligations.IntegerWords : Prop :=
  (∀ (i : Instr) (s : State) (d a b : RegNo) (f : Word → Word → Word), intTwo i = some (d, a, b, f) → s.mayWrite d = true →
      s.atHand [a, b] (some d) = true → exec i s = .next ((s.after2 a b).wrote1 d (f (s.val1 a) (s.val2 a b)))) ∧
  (∀ (i : Instr) (s : State) (d a : RegNo) (f : Word → Word), intOne i = some (d, a, f) → s.mayWrite d = true →
      s.atHand [a] (some d) = true → exec i s = .next ((s.after1 a).wrote1 d (f (s.val1 a))))

/-- The immediate and upper words complete (R115): with `i` the sign-extended immediate, rd takes a + i, a AND i, a OR i, a XOR i,
the signed or the unsigned comparison of a with i; `immh` gives SignExtend(imm21) << 16 and `apc` adds that to the PC; their
words have the layouts SI and SU, with majors 0x02 to 0x09. -/
def Obligations.ImmediateWords : Prop :=
  (∀ (s : State) (d a : RegNo) (k : BitVec 16), s.mayWrite d = true → s.atHand [a] (some d) = true →
    let x := s.val1 a
    let i : Word := k.signExtend 64
    let gives (w : Instr) (v : Word) : Prop := exec w s = .next ((s.after1 a).wrote1 d v)
    gives (.addi d a k) (x + i) ∧ gives (.andi d a k) (x &&& i) ∧ gives (.ori d a k) (x ||| i) ∧ gives (.xori d a k) (x ^^^ i) ∧
    gives (.slti d a k) (if x.slt i = true then 1 else 0) ∧ gives (.sltni d a k) (if x.ult i = true then 1 else 0)) ∧
  (∀ (s : State) (d : RegNo) (k : BitVec 21), s.mayWrite d = true → s.atHand [] (some d) = true →
    exec (.immh d k) s = .next (s.endConvoy.wrote1 d (k.signExtend 64 <<< 16)) ∧
    exec (.apc d k) s = .next (s.endConvoy.wrote1 d (s.pc + k.signExtend 64 <<< 16))) ∧
  (∀ (d a : RegNo) (k : BitVec 16) (h : BitVec 21),
    encode (.addi d a k) = 0x02#6 ++ d ++ a ++ k ∧ encode (.andi d a k) = 0x03#6 ++ d ++ a ++ k ∧
    encode (.ori d a k) = 0x04#6 ++ d ++ a ++ k ∧ encode (.xori d a k) = 0x05#6 ++ d ++ a ++ k ∧
    encode (.slti d a k) = 0x06#6 ++ d ++ a ++ k ∧ encode (.sltni d a k) = 0x07#6 ++ d ++ a ++ k ∧
    encode (.immh d h) = 0x08#6 ++ d ++ h ∧ encode (.apc d h) = 0x09#6 ++ d ++ h)

/-- The scalar floating-point words complete in the X-thread (R118): rd takes the value, zero-extended, under the rounding mode of
`fcsr` (NS acting as RNE), the flags join `fcsr`, and the thread goes on at PC + 4. -/
def Obligations.ScalarFloatWords : Prop :=
  ∀ (i : Instr) (s : State) (d : RegNo) (srcs : List RegNo) (f : Nat → Word → Word → Word → Nat × FF),
    fpWord i = some (d, srcs, f) → s.thr = .x → d.toNat < 28 → s.atHand srcs (some d) = true →
    let p := s.endConvoy.reads srcs
    let g := f (plainRm (rmOf s.me.fcsr)) (p.2.getD 0 0) (p.2.getD 1 0) (p.2.getD 2 0)
    exec i s = .next ({ p.1 with me := { p.1.me with fcsr := orFlags p.1.me.fcsr g.2 } }.wrote1 d (BitVec.ofNat 64 g.1))

/-- Branches and jumps complete (R100, R119): a branch taken goes to PC + 4 × SignExtend(off16), one not taken to PC + 4; `jal` and
`jalr` write PC + 4 to rd and go to their target, `jalr`'s formed before rd is written; a `jalr` target that is no multiple of 4
raises misaligned and leaves rd and the PC. -/
def Obligations.BranchesAndJumps : Prop :=
  (∀ (i : Instr) (s : State) (a b : RegNo) (o : BitVec 16) (f : Word → Word → Bool), branchWord i = some (a, b, o, f) →
    s.atHand [a, b] none = true →
    exec i s = .next ((s.after2 a b).setPc
      (if f (s.val1 a) (s.val2 a b) then s.pc + BitVec.ofInt 64 (4 * o.toInt) else s.pc + 4))) ∧
  (∀ (d : RegNo) (o : BitVec 21) (s : State), s.mayWrite d = true → s.atHand [] (some d) = true →
    exec (.jal d o) s = .next ((s.endConvoy.put d (s.pc + 4)).setPc (s.pc + BitVec.ofInt 64 (4 * o.toInt)))) ∧
  (∀ (d a : RegNo) (k : BitVec 16) (s : State), s.mayWrite d = true → s.atHand [a] (some d) = true →
    let t := s.val1 a + BitVec.ofInt 64 k.toInt
    exec (.jalr d a k) s = .next (if t.toNat % 4 = 0 then ((s.after1 a).put d (s.pc + 4)).setPc t
      else s.takeTrap (s.trapAt 0x03 0 t)))

/-- The loop words complete on a level of kind T, and act on the loop registers of the thread at hand alone (R120); on any other
level `loop.set`, `loop.end` and `loop.brk` raise illegal-instruction with sub-code 6. -/
def Obligations.LoopWords : Prop :=
  ∀ (l : BitVec 3) (d : RegNo) (o : BitVec 16) (s : State), l.toNat < 6 → s.atHand [] none = true →
    let lc := s.cur.lc.toList.getD l.toNat 0
    let lt := s.cur.lt.toList.getD l.toNat 0
    let far := s.pc + BitVec.ofInt 64 (4 * o.toInt)
    (s.levelKind l.toNat = 1 →
      exec (.loopSet l) s = .next ((s.endConvoy.setLc l.toNat 0).setPc (s.pc + 4)) ∧
      exec (.loopEnd l o) s = .next (if (lc + 1).toNat < lt.toNat then (s.endConvoy.setLc l.toNat (lc + 1)).setPc far
        else s.endConvoy.setPc (s.pc + 4)) ∧
      exec (.loopBrk l o) s = .next ((s.endConvoy.setLc l.toNat (lt - 1)).setPc far)) ∧
    (s.levelKind l.toNat ≠ 1 → ∀ i ∈ [Instr.loopSet l, .loopEnd l o, .loopBrk l o],
      exec i s = .next (s.takeTrap (s.trapAt 0x01 6 ((encode i).zeroExtend 64)))) ∧
    (s.mayWrite d = true → s.atHand [] (some d) = true →
      exec (.loopIdx l d) s = .next (s.endConvoy.wrote1 d lc))

/-- What a scalar word that completes leaves unchanged: the integer, immediate, floating-point and branch words change nothing but
their destination (a register, or a push of a queue), the PC, the queues whose ports they name with the tokens the entries
carry, the convoy in progress (which a scalar word ends) and, for the floating-point words, the flags of `fcsr`. No byte of
memory, no vector or tile state, no other strand and no other thread changes. -/
def Obligations.ScalarWordFrame : Prop :=
  ∀ (i : Instr) (s t : State) (srcs : List RegNo) (dst : Option RegNo), scalarForm i = some (srcs, dst) →
    s.passes i = true → s.atHand srcs dst = true → exec i s = .next t →
    t = { s with me := { s.me with a := t.me.a, x := t.me.x, queues := t.me.queues, avTok := t.me.avTok,
                                   ahold := t.me.ahold, vhold := t.me.vhold, conv := t.me.conv, fcsr := t.me.fcsr } } ∧
    (s.thr = .a → t.me.x = s.me.x ∧ t.me.queues = s.me.queues ∧ t.me.ahold = s.me.ahold ∧ t.me.vhold = s.me.vhold) ∧
    (s.thr = .x → t.me.a = s.me.a ∧ t.me.ahold = s.me.ahold) ∧
    t.cur = { s.cur with regs := t.cur.regs, pc := t.cur.pc, wait := .none } ∧
    (∀ r, dst ≠ some r → t.cur.reg r = s.cur.reg r) ∧
    (fpWord i = none → t.me.fcsr = s.me.fcsr) ∧
    (∀ l k, t.homeByte l k = s.homeByte l k)

/-- The load, store and read-modify-write words complete for every good address: an address that is a multiple of the width, in the
strand's own part of its reservation, or on a page that permits the access and that no surface record or capability copy holds
(R116, R117, R200, R209, R295). One operation joins the pending ones, with the kind, the address and the location that the rules
give; no register changes but the PC. The load words complete in the A-thread (R116, R117): with the base register at hand and
the address good, the load becomes pending with its destination, its width, its extension and its order, which is in force when
its scope contains the agents of the case (R97), and the thread goes on at PC + 4; an address that is not good traps or waits,
and leaves no load behind. The store words complete in the A-thread (R116, R117): the store joins the tail of the store buffer
with the low bytes of its source, and memory is not written yet. The read-modify-write words complete in the A-thread (R117):
the operation becomes pending with its operand and, for `amo.cas`, the value that rd holds. The issue of a memory word changes
no register but the PC and adds one operation at the end of the pending ones. Reaching its address changes nothing but memory
and the cached translations, and nothing at all in the scratchpad window. Of memory it changes at most the eight bytes of the
leaf entry by which it translated (the entry the walk found; of a twin surface that of either side), where a walk sets the
accessed bit; every other byte reads as before, and a cached translation that permits the access, with its accessed bit set,
changes nothing (R296, R298). The dirty bit is set when the store is performed. -/
def Obligations.MemoryWordsIssue : Prop :=
  (∀ (i : Instr) (s : State) (l : Loc), s.thr = .a →
      let joins (t : State) (k : AKind) (va : Word) : Prop :=
        (∃ o, t.me.aops = s.me.aops ++ [o] ∧ o.kind = k ∧ o.va = va ∧ o.place.loc = l ∧ o.place.twin = none) ∧
          t.pc = s.pc + 4 ∧ (∀ r, t.cur.reg r = s.cur.reg r) ∧ t.me.status = .placed ∧ t.cur.priv = s.cur.priv
      s.me.status = .placed →
      (∀ d a off n sgn acq, loadWord i = some (d, a, off, n, sgn, acq) → s.atHand [a] (some d) = true →
        s.goodAddress (s.cur.reg a + BitVec.ofInt 64 off) n .load l →
        ∃ t, exec i s = .next t ∧ joins t (.load d n sgn (acq.any s.inForce)) (s.cur.reg a + BitVec.ofInt 64 off)) ∧
      (∀ v a off n rel, storeWord i = some (v, a, off, n, rel) → s.atHand [a, v] none = true →
        s.goodAddress (s.cur.reg a + BitVec.ofInt 64 off) n .store l →
        ∃ t, exec i s = .next t ∧ joins t (.store n (BitVec.ofNat 64 ((s.cur.reg v).toNat % 2 ^ (8 * n))) (rel.any s.inForce))
          (s.cur.reg a + BitVec.ofInt 64 off)) ∧
      (∀ fn d a b n acq rel, amoWord i = some (fn, d, a, b, n, acq, rel) → s.atHand [a, b, d] (some d) = true →
        s.goodAddress (s.cur.reg a) n .amo l →
        ∃ t, exec i s = .next t ∧
          joins t (.amo d fn n (s.cur.reg b) (s.cur.reg d) (acq.any s.inForce) (rel.any s.inForce)) (s.cur.reg a))) ∧
  (∀ (i : Instr) (s : State) (d a : RegNo) (off : Int) (n : Nat) (sgn : Bool) (acq : Option (BitVec 2)),
      loadWord i = some (d, a, off, n, sgn, acq) → s.thr = .a → s.atHand [a] (some d) = true →
      let va := s.cur.reg a + BitVec.ofInt 64 off
      (∀ p u, s.scalarPlace va n .load = .ok (p, u) →
        exec i s = .next ((u.issueA (encode i) (.load d n sgn (acq.any s.inForce)) va p).setPc (u.pc + 4))) ∧
      (∀ c b v, s.scalarPlace va n .load = .trap c b v → exec i s = .next (s.takeTrap (s.trapAt c b v))) ∧
      (∀ w, s.scalarPlace va n .load = .stall w → exec i s = .next (s.waitFor w))) ∧
  (∀ (i : Instr) (s : State) (v a : RegNo) (off : Int) (n : Nat) (rel : Option (BitVec 2)),
      storeWord i = some (v, a, off, n, rel) → s.thr = .a → s.atHand [a, v] none = true →
      let va := s.cur.reg a + BitVec.ofInt 64 off
      (∀ p u, s.scalarPlace va n .store = .ok (p, u) →
        exec i s = .next ((u.issueA (encode i)
          (.store n (BitVec.ofNat 64 ((s.cur.reg v).toNat % 2 ^ (8 * n))) (rel.any s.inForce)) va p).setPc (u.pc + 4))) ∧
      (∀ c b x, s.scalarPlace va n .store = .trap c b x → exec i s = .next (s.takeTrap (s.trapAt c b x))) ∧
      (∀ w, s.scalarPlace va n .store = .stall w → exec i s = .next (s.waitFor w))) ∧
  (∀ (i : Instr) (s : State) (fn : Nat) (d a b : RegNo) (n : Nat) (acq rel : Option (BitVec 2)),
      amoWord i = some (fn, d, a, b, n, acq, rel) → s.thr = .a → s.atHand [a, b, d] (some d) = true →
      (∀ p u, s.scalarPlace (s.cur.reg a) n .amo = .ok (p, u) →
        exec i s = .next ((u.issueA (encode i) (.amo d fn n (s.cur.reg b) (s.cur.reg d) (acq.any s.inForce) (rel.any s.inForce))
          (s.cur.reg a) p).setPc (u.pc + 4))) ∧
      (∀ c e x, s.scalarPlace (s.cur.reg a) n .amo = .trap c e x → exec i s = .next (s.takeTrap (s.trapAt c e x))) ∧
      (∀ w, s.scalarPlace (s.cur.reg a) n .amo = .stall w → exec i s = .next (s.waitFor w))) ∧
  (∀ (s u : State) (va : Word) (n : Nat) (acc : Acc) (p : Place), s.scalarPlace va n acc = .ok (p, u) →
      u = { s with mem := u.mem, tlb := u.tlb } ∧
      (inWindow va = true → u = s) ∧
      (∀ a, (∀ q ∈ p.pte.toList ++ p.alt.toList, ∀ j, j < 8 → a ≠ s.normPa q + j) → cellGet u.mem a = cellGet s.mem a) ∧
      (s.Inv → acc.marks = true → inWindow va = false → s.unsurfaced va = true →
        (∀ e q k, s.tlbHit s.me.ctx s.me.die (some s.me.core) va = none → s.walk s.me.ctx va = .leaf e q k →
          p.pte = some q ∧ u.readPa q 8 = Nat.lor (s.readPa q 8) 64) ∧
        (∀ h, s.tlbHit s.me.ctx s.me.die (some s.me.core) va = some h → permits h.leaf acc s.cur.priv = true →
          h.leaf.getLsbD 6 = true → u = s)) ∧
      (∀ i k w, (u.issueA i k w p).me.aops = s.me.aops ++ [⟨s.me.anext, s.pc, i, k, w, p, s.me.ahold⟩] ∧
        (u.issueA i k w p).me.anext = s.me.anext + 1 ∧ (u.issueA i k w p).me.a = s.me.a ∧ (u.issueA i k w p).me.x = s.me.x ∧
        (u.issueA i k w p).mem = u.mem))

/-- The checks of an address, in the order of R116: one that is no multiple of the width raises misaligned; in the scratchpad
window, one outside the reservation, or with offset bits above 24, raises protection; outside it, one with no valid mapping
raises the page fault of a load or of a store, a write of a tier-1 page raises that of a store, and otherwise a page that does
not permit the access raises protection (R209, R273). Each trap records the address. (Stated of an address that no surface
record holds.) In the context's read-only copy of the capability list a load reaches the list's byte and a write raises
protection (R312, R317). An address that passes the checks reaches its location: in the strand's own part of the window, the
byte of its reservation; outside it, on a page that a cached translation or the walk permits, the frame's byte (R116, R295). -/
def Obligations.AddressChecks : Prop :=
  (∀ (s : State) (va : Word) (n : Nat) (acc : Acc), acc ≠ .fetch →
      (va.toNat % n ≠ 0 → s.scalarPlace va n acc = .trap 0x03 0 va) ∧
      (va.toNat % n = 0 → inWindow va = true → 2 ^ 25 ≤ va.toNat % 2 ^ 32 → s.scalarPlace va n acc = .trap 0x06 0 va) ∧
      (va.toNat % n = 0 → inWindow va = true → va.toNat % 2 ^ 32 / 2 ^ 23 = s.me.core % 4 →
        s.me.scratch < va.toNat % 2 ^ 23 + n → s.scalarPlace va n acc = .trap 0x06 0 va) ∧
      (va.toNat % n = 0 → inWindow va = false → s.unsurfaced va = true → canonical va = false →
        s.scalarPlace va n acc = .trap (if acc = .load ∨ acc = .vload then 0x04 else 0x05) 0 va) ∧
      (va.toNat % n = 0 → inWindow va = false → s.unsurfaced va = true →
        s.tlbHit s.me.ctx s.me.die (some s.me.core) va = none → s.walk s.me.ctx va = .invalid →
        s.scalarPlace va n acc = .trap (if acc = .load ∨ acc = .vload then 0x04 else 0x05) 0 va) ∧
      (∀ e q k, va.toNat % n = 0 → inWindow va = false → s.unsurfaced va = true → canonical va = true →
        s.tlbHit s.me.ctx s.me.die (some s.me.core) va = none → s.walk s.me.ctx va = .leaf e q k →
        permits e acc s.cur.priv = false →
        s.scalarPlace va n acc = .trap (if acc.writes = true ∧ s.tierOf (s.normPa (leafPa e k va)) = 1 then 0x05 else 0x06) 0 va) ∧
      (∀ pa e q u, va.toNat % n = 0 → inWindow va = false → s.unsurfaced va = true → s.translateMe va acc s.cur.priv = .ok pa e q u →
        acc.writes = true → s.tierOf pa = 1 → s.scalarPlace va n acc = .trap 0x05 0 va) ∧
      (∀ o, va.toNat % n = 0 → inWindow va = false → s.surfs s.me.ctx = [] → s.capOffset s.me.ctx va = some o →
        if acc.writes = true then s.scalarPlace va n acc = .trap 0x06 0 va
        else ∃ p, s.scalarPlace va n acc = .ok (p, s) ∧ p.loc = .caps o)) ∧
  (∀ (s : State) (va : Word) (n : Nat) (acc : Acc), acc ≠ .fetch → va.toNat % n = 0 →
      (∀ m, inWindow va = true → va.toNat % 2 ^ 32 < 2 ^ 25 → s.rankStrand s.me (va.toNat % 2 ^ 32 / 2 ^ 23) = some m →
        va.toNat % 2 ^ 23 + n ≤ m.scratch →
        s.scalarPlace va n acc = .ok (⟨.pad m.uid (va.toNat % 2 ^ 23), none, none, none, []⟩, s)) ∧
      (∀ pa e q u, inWindow va = false → s.unsurfaced va = true → s.translateMe va acc s.cur.priv = .ok pa e q u →
        e.getLsbD 9 = false → (acc.writes = true → s.tierOf pa ≠ 1) →
        s.scalarPlace va n acc = .ok (⟨.mem pa, none, some q, none, u.leafRange va⟩, u)))

/-- A pending load that R90 lets perform takes the value of the youngest earlier store that covers all its bytes, or else of the
home; its destination gets the extended value, the load is gone, and no other register changes. A home that is poisoned raises
0x09 at the load's own instruction (R116). That a side of a twin surface which does not translate raises its page fault when the
load is performed is the model's choice (log entry 88), and so is which loads reach the frame's counter (log entry 24). The
store that drains next, the head of the buffer while the core-scope order is in force (R97), drains when R90 lets it: the bytes
of its value stand at its physical address, low byte first, every other byte of memory reads as before but those of the leaf
entry whose dirty bit it sets, the store is gone, and no register changes. (The frame counters are off.) A pending read-modify-
write that R90 lets perform reads its location, gives rd the old value, sign-extended, and writes the new value of the function
table, unless it is an `amo.cas` that leaves the value as it is; a poisoned location raises 0x09 (R117). (The frame counters are
off.) -/
def Obligations.MemoryPerforms : Prop :=
  (∀ (s : State) (k : Nat) (o : AOp) (rd : RegNo) (n : Nat) (sgn acq : Bool), s.me.aops.find? (fun e => e.id == k) = some o →
      o.kind = .load rd n sgn acq → s.loadReady o = true →
      let l := s.placeNow s.me.ctx o.place
      let done (u : State) (v : Nat) : State :=
        { u with me := { u.me with aops := u.me.aops.filter (fun e => e.id != k),
                                   a := u.me.a.setReg rd (if sgn then (BitVec.ofNat (8 * n) v).signExtend 64 else BitVec.ofNat 64 v) } }
      (s.bufferHit k l n = none → s.poisonedAt l n = false → (∀ c, l ≠ .absent c) →
        exec (.loadPerform k) s = .next (done (s.countMaybe l o.va s.me.source) (s.readHome l n))) ∧
      (∀ e m v rel j, s.bufferHit k l n = some e → e.kind = .store m v rel → e.place.loc.covers m l n = some j →
        exec (.loadPerform k) s = .next (done s (v.toNat / 2 ^ (8 * j) % 2 ^ (8 * n)))) ∧
      (s.bufferHit k l n = none → s.poisonedAt l n = true → exec (.loadPerform k) s = .next (s.lateTrap o 0x09)) ∧
      (∀ c, s.bufferHit k l n = none → l = .absent c → exec (.loadPerform k) s = .next (s.lateTrap o c)) ∧
      (∀ e m v rel, s.bufferHit k l n = some e → e.kind = .store m v rel → e.place.loc.covers m l n = none →
        exec (.loadPerform k) s = .next s)) ∧
  (∀ (s : State) (o : AOp) (n pa : Nat) (v : Word) (rel : Bool), s.Inv → s.drainNext = some o → o.kind = .store n v rel →
      s.drainReady o = true → o.place.loc = .mem pa → n ∈ accessSizes → pa % n = 0 → s.fct = 0 →
      ∃ t, exec .storeDrain s = .next t ∧
        t.me = { s.me with aops := s.me.aops.filter (fun e => e.id != o.id) } ∧ t.vu = s.vu ∧ t.tiles = s.tiles ∧
        t.peers = s.peers ∧
        (∀ j, j < n → (t.byte (pa + j)).toNat = v.toNat / 2 ^ (8 * j) % 256) ∧
        (∀ a, (∀ j, j < n → a ≠ s.normPa (pa + j)) → (∀ q j, o.place.pte = some q → j < 8 → a ≠ s.normPa q + j) →
          cellGet t.mem a = cellGet s.mem a)) ∧
  (∀ (s : State) (k : Nat) (o : AOp) (rd : RegNo) (fn n pa : Nat) (v c : Word) (acq rel : Bool), s.Inv →
      s.me.aops.find? (fun e => e.id == k) = some o → o.kind = .amo rd fn n v c acq rel → s.amoReady o = true →
      o.place.loc = .mem pa → fn ≤ 9 → (n = 4 ∨ n = 8) → pa % n = 0 → s.fct = 0 →
      let old := BitVec.ofNat (8 * n) (s.readHome (.mem pa) n)
      let new := amoTable fn old (v.setWidth (8 * n)) (c.setWidth (8 * n))
      (s.poisonedAt (.mem pa) n = false → ∃ t, exec (.amoPerform k) s = .next t ∧
        t.me = { s.me with aops := s.me.aops.filter (fun e => e.id != k), a := s.me.a.setReg rd (old.signExtend 64) } ∧
        (∀ j, j < n → (t.byte (pa + j)).toNat = new.toNat / 2 ^ (8 * j) % 256) ∧
        (fn = 9 → new = old → t.mem = s.mem) ∧
        (∀ a, (∀ j, j < n → a ≠ s.normPa (pa + j)) → (∀ q j, o.place.pte = some q → j < 8 → a ≠ s.normPa q + j) →
          cellGet t.mem a = cellGet s.mem a)) ∧
      (s.poisonedAt (.mem pa) n = true → exec (.amoPerform k) s = .next (s.lateTrap o 0x09)))

/-- What a queue can take and give (R30, R121): a push onto a closed queue raises queue protocol, onto a full one waits, and
otherwise may go; a pop of an empty queue raises queue protocol when it is closed and nothing is bound to it, and otherwise
waits; a poisoned head raises poisoned data. The capacities are 1,024 for q0-q7, 512 for sq0-sq3 and 64 for bq. The queue words
complete (R121): `qpush` and `bpush` append one entry; `qpop` takes the head, lets its token take effect and gives rd its low 64
bits; `qpeek` leaves the head; `qbr` pops `bq` and branches on its bit; `qtest` gives 2 when the queue is closed plus 1 when it
is empty; `qdepth` gives the number of entries; `qclose` closes; `qflush` empties and opens. -/
def Obligations.QueueWords : Prop :=
  (∀ (s : State) (q : Nat),
      capacity q = (if q ≤ 7 then 1024 else if q ≤ 11 then 512 else 64) ∧
      s.pushReady q = (if (s.queue q).closed = true then .trap 0x0A 0 (BitVec.ofNat 64 q)
        else if (s.queue q).items.length < capacity q then .ok () else .stall .queue) ∧
      ((s.queue q).items = [] → s.headReady q =
        (if (s.queue q).closed = true ∧ s.boundTo q = false then .trap 0x0A 0 (BitVec.ofNat 64 q) else .stall .queue)) ∧
      (∀ e l, (s.queue q).items = e :: l → (s.afterStreams q).holds = true → s.headReady q =
        (if e.poison = true then .trap 0x09 1 (BitVec.ofNat 64 q) else .ok ()))) ∧
  (∀ (s : State) (d a q : RegNo) (o : BitVec 20),
      (s.passes (.qpush a q) = true → s.atHand [a] none = true → ((s.after1 a).pushReady q.toNat).holds = true →
        ((s.after1 a).afterStreams q.toNat).holds = true →
        exec (.qpush a q) s = .next (((s.after1 a).push q.toNat ((s.val1 a).zeroExtend 128) false).retire)) ∧
      (s.thr = .a → s.atHand [a] none = true → (s.pushReady 12).holds = true → (s.afterStreams 12).holds = true →
        exec (.bpush a) s = .next ((s.push 12 (BitVec.ofNat 128 ((s.cur.reg a).toNat % 2)) false).retire)) ∧
      (s.passes (.qpop d q) = true → s.atHand [] (some d) = true → (s.headReady q.toNat).holds = true →
        ∃ e l, (s.queue q.toNat).items = e :: l ∧
          exec (.qpop d q) s = .next (((s.endConvoy.setQueue q.toNat ⟨l, (s.queue q.toNat).closed⟩).tokenEffect q.toNat e.tok).wrote1 d
            (e.val.setWidth 64))) ∧
      (s.passes (.qpeek d q) = true → s.atHand [] (some d) = true → (s.headReady q.toNat).holds = true →
        ∃ e l, (s.queue q.toNat).items = e :: l ∧ exec (.qpeek d q) s = .next (s.endConvoy.wrote1 d (e.val.setWidth 64))) ∧
      (s.thr = .x → s.atHand [] none = true → (s.headReady 12).holds = true →
        ∃ e l, (s.queue 12).items = e :: l ∧ exec (.qbr o) s = .next (((s.endConvoy.setQueue 12 ⟨l, (s.queue 12).closed⟩).tokenEffect 12
          e.tok).setPc (if e.val.toNat % 2 = 1 then s.pc + BitVec.ofInt 64 (4 * o.toInt) else s.pc + 4))) ∧
      (s.passes (.qtest d q) = true → s.atHand [] (some d) = true →
        exec (.qtest d q) s = .next (s.endConvoy.wrote1 d (BitVec.ofNat 64 ((if (s.queue q.toNat).closed = true then 2 else 0) +
          (if (s.queue q.toNat).items = [] then 1 else 0))))) ∧
      (s.passes (.qdepth d q) = true → s.atHand [] (some d) = true →
        exec (.qdepth d q) s = .next (s.endConvoy.wrote1 d (BitVec.ofNat 64 (s.queue q.toNat).items.length))) ∧
      (s.passes (.qclose q) = true → s.atHand [] none = true →
        exec (.qclose q) s = .next ((s.endConvoy.setQueue q.toNat ⟨(s.queue q.toNat).items, true⟩).retire)) ∧
      (s.passes (.qflush q) = true → s.atHand [] none = true →
        exec (.qflush q) s = .next ((s.endConvoy.setQueue q.toNat ⟨[], false⟩).retire)))

/-- What a queue word that completes (without a wait or a trap) leaves unchanged: everything but its queue, the queues whose ports
it names, the holds that a popped token sets, its destination register, the PC and the convoy that it ends. -/
def Obligations.QueueWordFrame : Prop :=
  ∀ (s t : State) (i : Instr) (d a q : RegNo) (o : BitVec 20),
    i ∈ [Instr.qpush a q, .bpush a, .qpop d q, .qpeek d q, .qbr o, .qtest d q, .qdepth d q, .qclose q, .qflush q] →
    exec i s = .next t → s.passes i = true → s.me.status = .placed → t.me.status = .placed → t.cur.wait = .none →
    t.cur.priv = s.cur.priv →
    t = { s with me := { s.me with a := t.me.a, x := t.me.x, queues := t.me.queues, avTok := t.me.avTok,
                                   ahold := t.me.ahold, vhold := t.me.vhold, conv := t.me.conv } } ∧
    (∀ r, r ≠ d → t.cur.reg r = s.cur.reg r) ∧
    (∀ l k, t.homeByte l k = s.homeByte l k)

/-- The stream words complete (R122): `sprd` and `spwr` check their descriptor and every granule's place at issue and become
pending; a count of 0 moves nothing; a reserved bit, a G or R of 0 or a G above 4,096 raises illegal-instruction with sub-code
6; a base or stride that is no multiple of 16 raises misaligned; a base outside the window raises protection. That a descriptor
is checked even for a count of 0 is the model's choice (log entry 97). The next granule of a pending stream moves (R122): of a
`sprd`, from the address of granule `next` to the tail of its queue; of a `spwr` that drains next, from the head of its queue to
that address. The stream ends after its last granule. -/
def Obligations.Streams : Prop :=
  (∀ (s : State) (d a q : RegNo), s.thr = .a → s.atHand [] (some d) = true → s.atHand [a, a + 1, a + 2, a + 3] none = true →
      let c := s.cur.reg d
      let v : Vector Word 4 := #v[s.cur.reg a, s.cur.reg (a + 1), s.cur.reg (a + 2), s.cur.reg (a + 3)]
      let check (i : Instr) : Chk (Option Loc) := s.streamCheck (encode i) c v
      (∀ l, s.passes (.sprd d a q) = true → check (.sprd d a q) = .ok l → (s.queue q.toNat).closed = false →
        (c = 0 → exec (.sprd d a q) s = .next (s.setPc (s.pc + 4))) ∧
        (c ≠ 0 → s.flightRoom = true → exec (.sprd d a q) s =
          .next ((s.issueA (encode (.sprd d a q)) (.sprd q.toNat v 0 c.toNat) (s.cur.reg a)
            ⟨l.getD (.pad 0 0), none, none, none, []⟩).setPc (s.pc + 4)))) ∧
      (∀ l, s.passes (.spwr d a q) = true → check (.spwr d a q) = .ok l → s.poisonHead q.toNat c.toNat = false →
        (c = 0 → exec (.spwr d a q) s = .next (s.setPc (s.pc + 4))) ∧
        (c ≠ 0 → s.flightRoom = true → exec (.spwr d a q) s =
          .next ((s.issueA (encode (.spwr d a q)) (.spwr q.toNat v 0 c.toNat) (s.cur.reg a)
            ⟨l.getD (.pad 0 0), none, none, none, []⟩).setPc (s.pc + 4)))) ∧
      (∀ i ∈ [Instr.sprd d a q, .spwr d a q], s.passes i = true →
        let g := (s.cur.reg (a + 1)).toNat / 2 ^ 32
        let r := (s.cur.reg (a + 2)).toNat / 2 ^ 32
        ((2 ^ 32 ≤ c.toNat ∨ 2 ^ 16 ≤ g ∨ 2 ^ 16 ≤ r ∨ 8 ≤ (s.cur.reg (a + 3)).toNat ∨ g = 0 ∨ r = 0 ∨ 4096 < g) →
          exec i s = .next (s.takeTrap (s.trapAt 0x01 6 ((encode i).zeroExtend 64)))) ∧
        (c.toNat < 2 ^ 32 → 0 < g → g ≤ 4096 → 0 < r → r < 2 ^ 16 → (s.cur.reg (a + 3)).toNat < 8 →
          ((s.cur.reg a).toNat % 16 ≠ 0 ∨ (s.cur.reg (a + 1)).toNat % 16 ≠ 0 ∨ (s.cur.reg (a + 2)).toNat % 16 ≠ 0) →
          exec i s = .next (s.takeTrap (s.trapAt 0x03 0 (s.cur.reg a)))) ∧
        (c.toNat < 2 ^ 32 → 0 < g → g ≤ 4096 → 0 < r → r < 2 ^ 16 → (s.cur.reg (a + 3)).toNat < 8 →
          (s.cur.reg a).toNat % 16 = 0 → (s.cur.reg (a + 1)).toNat % 16 = 0 → (s.cur.reg (a + 2)).toNat % 16 = 0 →
          inWindow (s.cur.reg a) = false → exec i s = .next (s.takeTrap (s.trapAt 0x06 0 (s.cur.reg a)))))) ∧
  ((∀ (s : State) (k q next count : Nat) (o : AOp) (v : Vector Word 4), s.me.aops.find? (fun e => e.id == k) = some o →
      o.kind = .sprd q v next count → s.loadReady o = true → (s.queue q).items.length < capacity q → q < 13 →
      let l := granuleLoc o.place.loc v next
      s.bufferHit k l 16 = none →
      ∃ t, exec (.loadPerform k) s = .next t ∧
        (∃ e, (t.queue q).items = (s.queue q).items ++ [e] ∧ e.val = BitVec.ofNat 128 (s.readHome l 16) ∧
          e.poison = s.poisonedAt l 16) ∧
        t.mem = s.mem ∧ (next + 1 = count → t.me.aops = s.me.aops.filter (fun e => e.id != k)) ∧
        (next + 1 ≠ count → t.me.aops = s.me.aops.map
          (fun e => if e.id = k then { e with kind := .sprd q v (next + 1) count } else e))) ∧
    (∀ (s : State) (q next count : Nat) (o : AOp) (v : Vector Word 4) (e : Entry) (l : List Entry), s.Inv → s.drainNext = some o →
      o.kind = .spwr q v next count → s.drainReady o = true → s.mayReach (granuleLoc o.place.loc v next) s.me.source = true → q < 13 → (s.queue q).items = e :: l → e.poison = false →
      s.tokenDone e.tok = true →
      ∃ t, exec .storeDrain s = .next t ∧ (t.queue q).items = l ∧
        (∀ uid off, granuleLoc o.place.loc v next = .pad uid off → uid = s.me.uid → s.me.status = .placed →
          ∀ j, j < 16 → (t.homeByte (.pad uid off) j).toNat = e.val.toNat / 2 ^ (8 * j) % 256) ∧
        (next + 1 = count → t.me.aops = s.me.aops.filter (fun e => e.id != o.id))))

/-- The CSR words complete (R123): rd takes the old value; `csrw` writes the source, `csrs` sets and `csrc` clears its bits, and
with ra = 0 those two write nothing; `csrr` writes nothing. What each CSR number reads (R53, R56, R58-R62, R233, R292, R317):
the loop indices and counts of the thread at hand, the vector state of the slot, the dirty bits of the strand's tiles, its own
registers, its placement, the time, the trap registers of the thread at hand, the registers of the top chain frame (zero without
one) with what they say of the action, the ring's count of its core, and the capability address of its context. What a write of
each writable CSR leaves (R58, R61, R62): the written bits of the register, its reserved bits zero, `rm` unchanged by 5 to 7,
`tcols` clamped to 1-128, `tdirty` the dirty bits in the headers of the strand's tiles, and nothing else of the machine; the
read-only CSRs ignore a write. -/
def Obligations.CsrWords : Prop :=
  (∀ (d a : RegNo) (c : BitVec 12) (s : State),
      (s.passes (.csrr d c) = true → s.atHand [] (some d) = true →
        exec (.csrr d c) s = .next (s.endConvoy.wrote1 d (s.endConvoy.csr c.toNat))) ∧
      (s.passes (.csrw d a c) = true → s.atHand [a] (some d) = true →
        exec (.csrw d a c) s = .next (((s.after1 a).setCsr c.toNat (s.val1 a)).wrote1 d ((s.after1 a).csr c.toNat))) ∧
      (s.passes (.csrs d a c) = true → s.atHand [a] (some d) = true →
        exec (.csrs d a c) s = .next (((if a = 0 then s.after1 a
          else (s.after1 a).setCsr c.toNat ((s.after1 a).csr c.toNat ||| s.val1 a))).wrote1 d ((s.after1 a).csr c.toNat))) ∧
      (s.passes (.csrc d a c) = true → s.atHand [a] (some d) = true →
        exec (.csrc d a c) s = .next (((if a = 0 then s.after1 a
          else (s.after1 a).setCsr c.toNat ((s.after1 a).csr c.toNat &&& (s.val1 a ^^^ BitVec.allOnes 64)))).wrote1 d
            ((s.after1 a).csr c.toNat)))) ∧
  (∀ (s : State),
      s.csr 0x000 = BitVec.ofNat 64 s.vu.vl ∧ s.csr 0x001 = s.vu.vtype ∧ s.csr 0x002 = BitVec.ofNat 64 s.vu.vstart ∧
      s.csr 0x003 = BitVec.ofNat 64 s.vu.vcfg.toNat ∧ s.csr 0x004 = s.me.fcsr ∧
      s.csr 0x005 = (s.me.lscale.setWidth 8).signExtend 64 ∧ s.csr 0x006 = s.me.tcols ∧ s.csr 0x007 = s.me.kvpos ∧
      s.csr 0x008 = s.gts ∧ s.csr 0x009 = BitVec.ofNat 64 s.me.slot ∧
      s.csr 0x00A = BitVec.ofNat 64 (s.me.jidx % 2 ^ 16 + 2 ^ 16 * (s.me.eidx % 4)) ∧
      s.csr 0x00B = BitVec.ofNat 64 s.me.core ∧ s.csr 0x00C = BitVec.ofNat 64 s.me.die ∧ s.csr 0x00D = s.me.subn ∧
      (∀ l : Fin 6, s.csr (0x010 + l) = s.cur.lc[l] ∧ s.csr (0x016 + l) = s.cur.lt[l]) ∧
      s.csr 0x020 = s.vu.dirty ∧ s.csr 0x022 = s.me.xstate ∧ s.csr 0x030 = s.cur.tcause ∧ s.csr 0x031 = s.cur.tval ∧
      s.csr 0x032 = s.cur.tepc ∧ s.csr 0x033 = s.cur.trec ∧
      (∀ k : Fin 4, s.csr (0x040 + k) = BitVec.ofNat 64 s.vu.lgp[k]) ∧ s.csr 0x050 = BitVec.ofNat 64 s.me.cfd ∧
      s.csr 0x080 = BitVec.ofNat 64 s.me.budget ∧ s.csr 0x081 = s.me.ydl ∧
      (let top (j : Nat) : Word := if s.me.cfd = 0 then 0 else s.me.cf.toList.getD j 0
       (∀ j, 1 ≤ j → j ≤ 14 → s.csr (0x050 + j) = top j) ∧ s.csr 0x05F = (if s.thr = .a then top 0 else top 15) ∧
       s.csr 0x01C = BitVec.ofNat 64 ((top 5).toNat / 2 ^ 32) ∧
       s.csr 0x01D = (if s.me.cfd ≠ 0 ∧ (top 5).toNat % 16 = 11 ∧ top 13 = 0 then 1 else 0)) ∧
      (∀ j, j < 64 → (s.csr 0x021).getLsbD j = (decide (j < s.me.ntiles) && (s.myTile j).header.getLsbD 12)) ∧
      s.csr 0x060 = BitVec.ofNat 64 (s.ringCount s.me.die s.me.core % 1024) ∧ s.csr 0x070 = BitVec.ofNat 64 (s.ctxFld s.me.ctx 112 8)) ∧
  (∀ (s : State) (v : Word),
      s.setCsr 0x002 v = { s with vu := { s.vu with vstart := v.toNat % 2 ^ 18, dirty := s.vu.dirty ||| 0x100000000 } } ∧
      (∃ f, s.setCsr 0x004 v = { s with me := { s.me with fcsr := f } } ∧
        f.toNat / 8 = v.toNat / 8 % 2 ^ 7 ∧
        f.toNat % 8 = (if v.toNat % 8 < 5 then v.toNat % 8 else s.me.fcsr.toNat % 8)) ∧
      s.setCsr 0x005 v = { s with me := { s.me with lscale := BitVec.ofNat 64 (v.toNat % 256) } } ∧
      s.setCsr 0x006 v = { s with me := { s.me with tcols := BitVec.ofNat 64 (max 1 (min 128 v.toNat)) } } ∧
      (∃ k, s.setCsr 0x007 v = { s with me := { s.me with kvpos := k } } ∧ k.toNat % 2 ^ 40 = v.toNat % 2 ^ 40 ∧
        k.toNat / 2 ^ 40 = 2 ^ 23 * (v.toNat / 2 ^ 63)) ∧
      s.setCsr 0x00D v = { s with me := { s.me with subn := v } } ∧
      s.setCsr 0x020 v = { s with vu := { s.vu with dirty := BitVec.ofNat 64 (v.toNat % 2 ^ 33) } } ∧
      (∃ l, s.setCsr 0x021 v = { s with tiles := l }) ∧
      (s.me.bound.Nodup → s.me.ntiles ≤ s.me.bound.length → ∀ j, j < s.me.ntiles →
        let h := ((s.setCsr 0x021 v).myTile j).header
        h.getLsbD 12 = v.getLsbD j ∧ (∀ k, k < 32 → k ≠ 12 → h.getLsbD k = (s.myTile j).header.getLsbD k) ∧
        ((s.setCsr 0x021 v).myTile j).cells = (s.myTile j).cells) ∧
      s.setCsr 0x022 v = { s with me := { s.me with xstate := BitVec.ofNat 64 (v.toNat % 4) } } ∧
      s.setCsr 0x030 v = s.setCur { s.cur with tcause := v } ∧ s.setCsr 0x031 v = s.setCur { s.cur with tval := v } ∧
      s.setCsr 0x032 v = s.setCur { s.cur with tepc := v } ∧ s.setCsr 0x033 v = s.setCur { s.cur with trec := v } ∧
      (∀ k : Fin 4, s.setCsr (0x040 + k) v = { s with vu := { s.vu with lgp := s.vu.lgp.set k (v.toNat % 2 ^ 32) } }) ∧
      (∀ c ∈ [0x000, 0x001, 0x003, 0x008, 0x009, 0x00A, 0x00B, 0x00C, 0x010, 0x011, 0x012, 0x013, 0x014, 0x015, 0x016, 0x017,
          0x018, 0x019, 0x01A, 0x01B, 0x01C, 0x01D, 0x050, 0x051, 0x052, 0x053, 0x054, 0x055, 0x056, 0x057, 0x058, 0x059, 0x05A,
          0x05B, 0x05C, 0x05D, 0x05E, 0x05F, 0x060, 0x070, 0x080, 0x081], s.setCsr c v = s))

/-- The fences complete (R93): `fence.av` puts a token that covers the A-thread's operations on the next entry of every queue it
pushes, `fence.va` one that covers the V operations on the next entry of `sq0`-`sq3`, `fence.vv` holds the later V operations
behind the earlier ones; a fence whose scope does not contain the agents of the case orders nothing (R97). `fence.all` makes its
thread wait where its scope is in force, and once both threads wait at one (or have halted) and the strand has no operation
left, FENCE_ALL_COMPLETE takes both on; where the scope is not in force it retires at once, and the other thread's `fence.all`
counts it as reached (the model's choice, log entry 112). -/
def Obligations.Fences : Prop :=
  ∀ (s : State) (sc : BitVec 2),
    let own (l : List Nat) (n : Nat) : Vector (Option Nat) 13 :=
      s.me.avTok.mapIdx (fun q t => if q ∈ l ∧ s.inForce sc = true then some n else t)
    (s.thr = .a → exec (.fenceAv sc) s =
      .next ({ s with me := { s.me with avTok := own [0, 1, 2, 3, 4, 5, 6, 7, 12] s.me.anext } }.retire)) ∧
    (s.thr = .x → s.me.assists = 0 → exec (.fenceVa sc) s =
      .next ({ s.endConvoy with me := { s.endConvoy.me with avTok := own [8, 9, 10, 11] s.me.vnext } }.retire)) ∧
    (s.thr = .x → s.me.assists = 0 → exec (.fenceVV sc) s = .next ({ s.endConvoy with me := { s.endConvoy.me with
      vfence := if s.inForce sc = true then s.me.vnext else s.me.vfence } }.retire)) ∧
    (s.atHand [] none = true →
      let o := s.me.thread s.thr.other
      exec (.fenceAll sc) s = .next (if s.inForce sc = true then s.endConvoy.waitFor .fence
        else if 0 < o.early then (s.endConvoy.setOther { o with early := o.early - 1 }).retire
        else (s.endConvoy.setCur { s.cur with early := s.cur.early + 1 }).retire)) ∧
    (let at? (t : Thread) : Prop := t.halted = true ∨ t.wait = .fence
     let past (t : Thread) : Thread := { t with pc := t.pc + 4, wait := .none }
     let spend (t : Thread) : Thread := { t with early := t.early - 1 }
     let quiet : Prop := s.me.vops = [] ∧ ∀ o ∈ s.me.aops, ∃ n, o.kind = .cmd n
     let aOwed : Prop := s.me.a.wait = .fence ∧ 0 < s.me.x.early
     let xOwed : Prop := s.me.x.wait = .fence ∧ 0 < s.me.a.early
     (quiet → aOwed → exec .fenceAllComplete s = .next { s with me := { s.me with a := past s.me.a, x := spend s.me.x } }) ∧
     (quiet → ¬ aOwed → xOwed → exec .fenceAllComplete s = .next { s with me := { s.me with a := spend s.me.a, x := past s.me.x } }) ∧
     (quiet → ¬ aOwed → ¬ xOwed → at? s.me.a → at? s.me.x → (s.me.a.halted = false ∨ s.me.x.halted = false) →
      exec .fenceAllComplete s = .next { s with me := { s.me with
        a := if s.me.a.halted = true then s.me.a else past s.me.a, x := if s.me.x.halted = true then s.me.x else past s.me.x } }) ∧
     (¬ quiet ∨ ¬ aOwed ∧ ¬ xOwed ∧ (¬ at? s.me.a ∨ ¬ at? s.me.x) → exec .fenceAllComplete s = .next s))

/-- The barrier words complete (R96, R125), in a launch that does not mix scopes: `bar.arv` records an arrival that waits for the
thread's earlier operations, where its scope is in force (R97), and goes on, once the phase of the thread's latest arrival is
complete; `bar.wt` goes on when that phase is complete and waits otherwise, or goes on at once where its scope is not in force;
`bar.sync` arrives as `bar.arv` does and then waits as `bar.wt` does; BARRIER_ARRIVAL performs an arrival once the operations it
waits for are performed, and adds 1 to the count in the diversion table of the suspended member that keeps the counter (R283). -/
def Obligations.Barriers : Prop :=
  ∀ (s : State) (b : RegNo) (sc : BitVec 2), b.toNat < 8 → s.mixedScopes b.toNat = false → s.atHand [] none = true →
    let free : Prop := ((s.me.bar b.toNat).pend s.thr) = none
    let n := (s.me.bar b.toNat).done s.thr
    let complete : Prop := ∀ k, s.keptPhases b.toNat sc = some k → n ≤ k
    let passed := (s.endConvoy.setCur { s.cur with synced := none }).retire
    (free → complete → exec (.barArv b sc) s = .next ((s.endConvoy.arrive b.toNat sc).retire)) ∧
    ((free → ¬ complete) → exec (.barArv b sc) s = .next (s.endConvoy.waitFor .barrier)) ∧
    (s.inForce sc = false ∨ free ∧ complete → exec (.barWt b sc) s = .next passed) ∧
    (s.inForce sc = true → (free → ¬ complete) → exec (.barWt b sc) s = .next (s.endConvoy.waitFor .barrier)) ∧
    (s.cur.synced ≠ some s.pc → free → complete →
      ∃ t, exec (.barSync b sc) s = .next t ∧ ((t.me.bar b.toNat).pend s.thr) = some (if s.inForce sc = true then s.me.nextOp s.thr else 0) ∧
        (s.inForce sc = true → t.cur.synced = some s.pc ∧ t.cur.wait = .barrier ∧ t.pc = s.pc) ∧
        (s.inForce sc = false → t.cur.synced = none ∧ t.cur.wait = .none ∧ t.pc = s.pc + 4)) ∧
    (s.cur.synced ≠ some s.pc → (free → ¬ complete) → exec (.barSync b sc) s = .next (s.endConvoy.waitFor .barrier)) ∧
    (s.cur.synced = some s.pc → s.inForce sc = false ∨ free ∧ complete → exec (.barSync b sc) s = .next passed) ∧
    (s.cur.synced = some s.pc → s.inForce sc = true → (free → ¬ complete) →
      exec (.barSync b sc) s = .next (s.endConvoy.waitFor .barrier)) ∧
    (∀ x : Bool, ∀ m, (s.me.bar b.toNat).pend (if x then .x else .a) = some m →
      (s.me.openBelow (if x then .x else .a) m = false → s.mayDivert s.me.launch b.toNat = true →
        ∃ t, exec (.barrierArrival x (b.setWidth 3)) s = .next t ∧
          (t.me.bar b.toNat).done (if x then .x else .a) = (s.me.bar b.toNat).done (if x then .x else .a) + 1 ∧
          (t.me.bar b.toNat).pend (if x then .x else .a) = none ∧
          (t.me.bar b.toNat).done (if x then .a else .x) = (s.me.bar b.toNat).done (if x then .a else .x) ∧
          t.cur = s.cur ∧ (s.keeper s.me.launch b.toNat = none → t.mem = s.mem) ∧
          (∀ k, s.keeper s.me.launch b.toNat = some k → k.uid ≠ s.me.uid →
            let at' := s.diversionAt k (9 + b.toNat) + 24
            t = { s with me := t.me }.writeVa k.ctx at' 4 (s.readVa k.ctx at' 4 + 1))) ∧
      (s.me.openBelow (if x then .x else .a) m = true ∨ s.mayDivert s.me.launch b.toNat = false →
        exec (.barrierArrival x (b.setWidth 3)) s = .next s))

/-- `yield` retires and makes the strand yielded, with its grace window over: at once, but where X-thread words are in flight they
stop part way first, as the environment's choice has it (the model's reading, log entry 83); `wfe` goes on when the pending-
event bit is set and clears it, and waits otherwise; `wfi` goes on when the bit is set and leaves it; `sev` records its event
behind the thread's earlier operations, and raises illegal-instruction with sub-code 6 when a bit above 7 of its operand is set;
EVENT_DELIVERY sets the pending-event bit of the strand of the context that is resident in the named slot, once the earlier
operations are performed and no page of a suspended target's image is moving (R45, R126, R127, R133, R295). -/
def Obligations.YieldsAndEvents : Prop :=
  ∀ (s : State),
    (s.atHand [] none = true → (s.thr = .x ∨ s.me.ahead = []) →
      ∃ t, exec .yield s = .next t ∧ t.me.status = .yielded ∧ t.me.ydl = 0 ∧ t.pc = s.pc + 4) ∧
    (s.thr = .a → s.atHand [] none = true → s.me.ahead ≠ [] → exec .yield s =
      .next { s with me := { s.me with stop := s.me.ahead, stopping := false, ahead := [], ending := some .yield } }) ∧
    (s.thr = .a → s.me.event = true → exec .wfe s = .next ({ s with me := { s.me with event := false } }.retire)) ∧
    (s.thr = .a → s.me.event = false → exec .wfe s = .next (s.waitFor .event)) ∧
    (s.cur.priv = .s → s.atHand [] none = true → s.me.event = true → exec .wfi s = .next s.endConvoy.retire) ∧
    (s.cur.priv = .s → s.atHand [] none = true → s.me.event = false → exec .wfi s = .next (s.endConvoy.waitFor .interrupt)) ∧
    (∀ a sc, s.atHand [a] none = true → (s.val1 a).toNat < 256 → exec (.sev a sc) s =
      .next ({ s.after1 a with me := { (s.after1 a).me with sevs := s.me.sevs ++
        [(s.thr, (if s.inForce sc = true then s.me.nextOp s.thr else 0), s.val1 a)] } }.retire)) ∧
    (∀ a sc, s.atHand [a] none = true → 256 ≤ (s.val1 a).toNat →
      exec (.sev a sc) s = .next (s.takeTrap (s.trapAt 0x01 6 ((encode (.sev a sc)).zeroExtend 64)))) ∧
    (∀ t n x l, s.me.sevs = (t, n, x) :: l → s.me.openBelow t n = false →
      (∀ m ∈ s.eventTargets s.me.ctx x, s.imageAt m = true) → (s.strands.map (·.uid)).Nodup →
      ∃ u, exec (.eventDelivery 0) s = .next u ∧ u.me.sevs = l ∧
        (∀ m ∈ s.peers, m.resident = true → m.ctx = s.me.ctx → m.slot = x.toNat % 4 → m.core = x.toNat / 4 % 16 →
          m.die = x.toNat / 64 % 4 → { m with event := true } ∈ u.peers) ∧
        (s.me.resident = true → s.me.slot = x.toNat % 4 → s.me.core = x.toNat / 4 % 16 → s.me.die = x.toNat / 64 % 4 →
          u.me.event = true)) ∧
    (∀ t n x l, s.me.sevs = (t, n, x) :: l → (s.me.openBelow t n = true ∨ ∃ m ∈ s.eventTargets s.me.ctx x, s.imageAt m = false) →
      exec (.eventDelivery 0) s = .next s)

/-- A trap of a thread in U mode (R129, R271, R272), where `trec` is 64-byte aligned and a cached translation permits a write of its
page, generic memory outside every surface, above tier 1 and not poisoned: `tcause`, `tval` and `tepc` of the thread take what
the trap records, its privilege becomes S, its PC the handler that the context names for the thread, and the record stands at
`trec`; the thread has arrived at no chain rendezvous any more (R238). The other thread, the general registers, `fcsr`, the
queues and every byte of memory outside the record and its page's leaf entry stay. A trap in S mode, and a machine check in
either mode, enters no handler: the strand becomes faulted and its context's fault handler is told the cause and the address
(R38, R129, R291). The trap record of a trap (R272): the cause and the sub-code, the flags, the number of listed pages, `tval`,
`tepc`, the type state when the vector unit is the strand's, and the time. -/
def Obligations.TrapEntry : Prop :=
  (∀ (s : State) (t : Trap) (h : TlbEntry), s.Inv → s.cur.priv = .u → t.cause ≠ 0x13 → s.cur.trec.toNat % 64 = 0 →
      s.cur.trec.toNat % 65536 + 512 ≤ 65536 → canonical s.cur.trec = true → inWindow s.cur.trec = false →
      s.capOffset s.me.ctx s.cur.trec = none → surfAtIn (s.surfs s.me.ctx) s.cur.trec = none → side1In (s.surfs s.me.ctx) s.cur.trec = none →
      s.tlbHit s.me.ctx s.me.die (some s.me.core) s.cur.trec = some h → permits h.leaf .store .s = true → h.leaf.getLsbD 9 = false →
      h.leaf.getLsbD 6 = true →
      let pa := s.normPa (leafPa h.leaf h.size s.cur.trec)
      pa + 512 ≤ 2 ^ 51 → s.poisonedAt (.mem pa) 512 = false → s.tierOf pa ≠ 1 →
      let u := s.takeTrap t
      u.cur.tcause = BitVec.ofNat 64 t.cause ∧ u.cur.tval = t.tval ∧ u.cur.tepc = t.tepc ∧ u.cur.priv = .s ∧
      u.cur.pc = BitVec.ofNat 64 (s.ctxFld s.me.ctx (if s.thr = .a then 40 else 48) 8) ∧ u.cur.wait = .none ∧
      (s.me.resuming = false → ∀ j, j < 512 → (cellGet u.mem (pa + j)).toNat = s.trapRecord t / 2 ^ (8 * j) % 256) ∧
      u.cur.trec = s.cur.trec ∧ u.cur.regs = s.cur.regs ∧ u.cur.lc = s.cur.lc ∧ u.thr = s.thr ∧
      u.me.thread s.thr.other = s.me.thread s.thr.other ∧ u.me.status = s.me.status ∧ u.me.fcsr = s.me.fcsr ∧
      (if s.thr = .a then u.me.chA = none ∧ u.me.chX = s.me.chX else u.me.chX = none ∧ u.me.chA = s.me.chA) ∧
      u.me.queues = s.me.queues ∧ u.me.aops = s.me.aops ∧ u.vu.regs = s.vu.regs ∧ u.tiles = s.tiles ∧ u.peers = s.peers ∧
      (∀ a, (∀ j, j < 512 → a ≠ pa + j) → (∀ j, j < 8 → a ≠ s.normPa h.pte + j) → cellGet u.mem a = cellGet s.mem a)) ∧
  (∀ (s : State) (t : Trap), (s.cur.priv = .s ∨ t.cause = 0x13) → s.me.status = .placed →
      (s.takeTrap t).me = { s.me with status := .faulted, ydl := 0 } ∧ (s.takeTrap t).mem = s.mem ∧
      .faulted s.me.ctx s.me.source t.cause t.tval ∈ (s.takeTrap t).reports) ∧
  (∀ (s : State) (t : Trap), t.cause < 256 → t.sub < 256 → s.vu.vl < 2 ^ 32 → s.vu.vstart < 2 ^ 32 →
      let r := s.trapRecord t
      field r 0 1 = t.cause ∧ field r 1 1 = t.sub ∧ field r 4 4 = min t.pages.length 16 ∧
      field r 2 2 % 2 = (if s.me.xstate.getLsbD 0 = true then 1 else 0) ∧
      field r 2 2 / 2 % 2 = (if s.thr = .x then 1 else 0) ∧ field r 2 2 / 4 % 2 = (if t.more = true then 1 else 0) ∧
      field r 2 2 / 16 % 2 = (if t.resume = true then 1 else 0) ∧ (t.resume = true → s.thr = .x → field r 2 2 / 8 % 2 = 1) ∧
      field r 8 8 = t.tval.toNat ∧ field r 16 8 = t.tepc.toNat ∧
      (s.me.xstate.getLsbD 0 = true → field r 32 8 = s.vu.vtype.toNat ∧ field r 40 4 = s.vu.vl ∧ field r 44 4 = s.vu.vstart) ∧
      (s.me.xstate.getLsbD 0 = false → field r 32 32 = 0) ∧ field r 64 8 = s.gts.toNat)

/-- The trapping words of the SYS major (R128): `trap` and `svc` retire and then take their exception, 0x0B or 0x0C, with `tval` the
value of ra and `tepc` PC + 4; `dbrk` does not retire and takes 0x0D with `tval` 0 and `tepc` PC. Bits 4:0 of their words are 0. -/
def Obligations.SystemTraps : Prop :=
  ∀ (s : State) (a : RegNo),
    let raised (c : Nat) (v p : Word) : Trap := { cause := c, sub := 0, tval := v, tepc := p, pages := [], more := false, resume := false }
    (s.held = none → s.atHand [a] none = true →
      exec (.trap a) s = .next ((s.after1 a).retire.takeTrap (raised 0x0B (s.val1 a) (s.pc + 4))) ∧
      exec (.svc a) s = .next ((s.after1 a).retire.takeTrap (raised 0x0C (s.val1 a) (s.pc + 4)))) ∧
    (s.held = none → s.atHand [] none = true → exec .dbrk s = .next (s.endConvoy.takeTrap (raised 0x0D 0 s.pc))) ∧
    (∀ i ∈ [Instr.trap a, .svc a, .dbrk], (encode i).extractLsb' 0 5 = 0 ∧ (encode i).extractLsb' 26 6 = 0x1A#6)

/-- `tret` in S mode completes (R129): privilege U and PC := `tepc`; in the A-thread nothing else changes; in the X-thread a record
whose vvalid flag is clear leaves the type state, and one whose flag is set restores it, reserved bits of `vtype` reading as
zero (R4); a record whose page is moving makes the return wait (R295). In U mode it raises privileged instruction. -/
def Obligations.TrapReturn : Prop :=
  ∀ (s : State), s.atHand [] none = true →
    (s.cur.priv = .s → s.thr = .a → exec .tret s = .next (s.setCur { s.cur with priv := .u, pc := s.cur.tepc, wait := .none })) ∧
    (∀ r s0, s.cur.priv = .s → s.thr = .x → s.endConvoy.hwRead s.cur.trec 64 = .ok r s0 →
      ∃ t, exec .tret s = .next t ∧ t.me.x.priv = .u ∧ t.me.x.regs = s.me.x.regs ∧ t.mem = s0.mem ∧
      t.me.a = s.me.a ∧
      (field r 2 2 / 8 % 2 = 0 → t.me.x.pc = s.me.x.tepc) ∧
      (field r 2 2 / 8 % 2 = 1 → field r 2 2 / 16 % 2 = 0 → t.me.x.pc = s.me.x.tepc ∧ t.me.resumeAt = some (BitVec.ofNat 64 (field r 24 8))) ∧
      (field r 2 2 / 8 % 2 = 1 → field r 2 2 / 16 % 2 = 1 → t.me.x.pc = BitVec.ofNat 64 (field r 24 8) ∧ t.me.resuming = true) ∧
      (field r 2 2 % 2 = 0 → t.vu.vtype = s.vu.vtype ∧ t.vu.vl = s.vu.vl ∧ t.vu.vstart = s.vu.vstart ∧ t.vu.lgp = s.vu.lgp) ∧
      (field r 2 2 % 2 = 1 →
        t.vu.vtype.toNat = (if field r 32 8 / 2 ^ 63 % 2 = 1 then 2 ^ 63 else field r 32 8 % 2 ^ 12) ∧ t.vu.vl = field r 40 4 % 2 ^ 18 ∧
        t.vu.vstart = field r 44 4 % 2 ^ 18 ∧ t.vu.lgp.toList = [field r 48 4, field r 52 4, field r 56 4, field r 60 4])) ∧
    (s.cur.priv = .s → s.thr = .x → s.endConvoy.hwRead s.cur.trec 64 = .moving →
      exec .tret s = .next (s.endConvoy.waitFor .walk)) ∧
    (s.cur.priv = .u →
      exec .tret s = .next (s.endConvoy.takeTrap (s.endConvoy.trapAt 0x11 0 ((encode .tret).zeroExtend 64))))

/-- `halt` in U mode, with no chain frame and no stream left, halts its thread and closes the queues that the thread pushes; the
second halt retires the strand; in S mode it makes the strand faulted; with a chain frame live it raises illegal-instruction
with sub-code 6 (R130, R236). `tlbi` in S mode completes when no pending access used a matching translation (R131): every cached
translation that it names (one page of a context, a whole context, or all) is gone and the others stay; a bit above 17 of its
operand raises illegal-instruction with sub-code 6. `vsave` and `vrest` in S mode complete when nothing is pending, the selected
bits are allowed, the area is a multiple of 64 and its accesses succeed (R132): `vsave` leaves the registers and the masks and
clears the dirty bits of what it saves, and `vrest` leaves every bit of `vdirty`; an area that is no multiple of 64 raises
misaligned, before anything is read of it, and in an aligned one a bit that must be zero raises illegal-instruction with sub-
code 6 (that order is the model's choice, log entry 113). A `vsave` of the control block to an area whose first page is not
mapped raises the store page fault at the area's address (R309). -/
def Obligations.SystemWords : Prop :=
  (∀ (s : State), s.atHand [] none = true → s.me.status = .placed →
      (s.cur.priv = .u → s.me.cfd = 0 → s.me.lonely s.thr.other = none → (s.thr = .a → s.me.aops = []) →
        ∃ t, exec .halt s = .next t ∧ (t.me.thread s.thr).halted = true ∧ (t.me.thread s.thr).pc = s.pc + 4 ∧
          (s.thr = .a → ∀ q, (q ≤ 7 ∨ q = 12) → (t.queue q).closed = true ∧ (t.queue q).items = (s.queue q).items) ∧
          (s.thr = .x → ∀ q, 8 ≤ q → q ≤ 11 → (t.queue q).closed = true ∧ (t.queue q).items = (s.queue q).items) ∧
          ((s.me.thread s.thr.other).halted = true → t.me.status = .retired) ∧
          ((s.me.thread s.thr.other).halted = false → t.me.status = .placed) ∧ t.mem = s.mem) ∧
      (s.cur.priv = .s → ∃ t, exec .halt s = .next t ∧ t.me.status = .faulted) ∧
      (s.cur.priv = .u → s.me.cfd ≠ 0 →
        exec .halt s = .next (s.takeTrap (s.trapAt 0x01 6 ((encode .halt).zeroExtend 64))))) ∧
  (∀ (s : State) (a b : RegNo), s.thr = .a → s.cur.priv = .s → s.atHand [a, b] none = true →
      let va := s.cur.reg a
      let w := s.cur.reg b
      (w.toNat < 2 ^ 18 → s.usesPage va w = false → ∃ t, exec (.tlbi a b) s = .next t ∧
        t = { s with tlb := t.tlb, me := { s.me with a := t.me.a } } ∧ t.cur = { s.cur with pc := s.pc + 4, wait := .none } ∧
        (∀ e, e ∈ t.tlb ↔ e ∈ s.tlb ∧ ¬ (2 ^ 17 ≤ w.toNat ∨ (e.ctx = w.toNat % 2 ^ 16 ∧ (w.toNat / 2 ^ 16 % 2 = 1 ∨
          (e.va < va.toNat / 65536 * 65536 + 65536 ∧ va.toNat / 65536 * 65536 < e.va + e.size)))))) ∧
      (2 ^ 18 ≤ w.toNat → exec (.tlbi a b) s = .next (s.takeTrap (s.trapAt 0x01 6 ((encode (.tlbi a b)).zeroExtend 64))))) ∧
  (∀ (s : State) (a b : RegNo), s.thr = .x → s.cur.priv = .s → s.atHand [a, b] none = true → (s.after2 a b).vQuiet = true →
      let u := s.after2 a b
      let va := s.val1 a
      let w := s.val2 a b
      (∀ t, saveBitsOk w (regCount u.vu.vcfg) u.me.ntiles = true → va.toNat % 64 = 0 → u.vsave va w = .ok t →
        exec (.vsave a b) s = .next ((t.countArea va w).retire) ∧ t.vu.regs = s.vu.regs ∧ t.vu.masks = s.vu.masks ∧
        (∀ i : Fin 33, w.getLsbD i = true → t.vu.dirty.getLsbD i = false)) ∧
      (∀ n t, u.restCount va w = .ok n → saveBitsOk w n u.me.ntiles = true → va.toNat % 64 = 0 → u.vrest va w = .ok t →
        exec (.vrest a b) s = .next ((t.countArea va w).retire) ∧ t.vu.dirty = s.vu.dirty) ∧
      (∀ i ∈ [Instr.vsave a b, .vrest a b],
        (va.toNat % 64 ≠ 0 → exec i s = .next (s.takeTrap (s.trapAt 0x03 0 va))) ∧
        (va.toNat % 64 = 0 → w.toNat / 2 ^ 32 % 2 = 0 → saveBitsOk w (regCount u.vu.vcfg) u.me.ntiles = false →
          exec i s = .next (s.takeTrap (s.trapAt 0x01 6 ((encode i).zeroExtend 64))))) ∧
      (let page := BitVec.ofNat 64 (va.toNat / 65536 * 65536)
       saveBitsOk w (regCount u.vu.vcfg) u.me.ntiles = true → va.toNat % 64 = 0 → w.getLsbD 32 = true →
        va.toNat % 65536 + 0x1600 ≤ 65536 → inWindow page = false → u.surfs u.me.ctx = [] → u.capOffset u.me.ctx page = none →
        u.tlbHit u.me.ctx u.me.die (some u.me.core) page = none → u.walk u.me.ctx page = .invalid →
        exec (.vsave a b) s = .next (s.takeTrap (s.trapAt 0x05 0 va))))

/-- The configuration words complete (R49, R51, R59, R134, R135): `vcfg` and `vcfgi` set the type and `vl` := the least of the
request and VLMAX, and give rd that `vl`; a type that is none, or a group of more registers than there are, sets `vtype.ill` and
`vl` := 0; `vreconf` sets the register count, fills every vector register with ones, marks each invalid and leaves no type. All
of them leave `vstart` 0 and set bit 32 of `vdirty`. The sixteen vector geometries (R48, R49): the register file is 524,288 bits
whatever the register count, and VLMAX is the bits of a group divided by the element width. -/
def Obligations.VectorConfiguration : Prop :=
  ((∀ (s : State) (d a b : RegNo) (k : BitVec 10) (i : Instr) (req : Word) (srcs : List RegNo),
      (i = .vcfg d a b ∧ srcs = [a, b] ∧ req = s.val2 a b ∨ i = .vcfgi d a k ∧ srcs = [a] ∧ req = k.zeroExtend 64) →
      s.passes i = true → s.held = none → s.atHand srcs (some d) = true →
      let et := req.toNat % 32
      let g := 2 ^ (req.toNat / 32 % 4)
      let bad : Prop := 16 < et ∨ 2 ^ 10 ≤ req.toNat ∨ regCount s.vu.vcfg < g
      ∃ t, exec i s = .next t ∧ t.me.x.pc = s.me.x.pc + 4 ∧ t.vu.vstart = 0 ∧ t.vu.dirty.getLsbD 32 = true ∧
        t.vu.regs = s.vu.regs ∧ t.vu.vcfg = s.vu.vcfg ∧
        (bad → t.vu.vtype = 0x8000000000000000 ∧ t.vu.vl = 0) ∧
        (¬ bad → t.vu.vtype = req ∧
          t.vu.vl = min (s.val1 a).toNat (regBits s.vu.vcfg * g / etypeWidth et)) ∧
        (d ≠ 0 → d.toNat < 24 → t.me.x.reg d = BitVec.ofNat 64 t.vu.vl)) ∧
    (∀ (s : State) (n : BitVec 2), s.passes (.vreconf n) = true → s.held = none → s.atHand [] none = true → s.me.vops = [] →
      ∃ t, exec (.vreconf n) s = .next t ∧ t.me.x.pc = s.me.x.pc + 4 ∧ t.vu.vcfg = n ∧ t.vu.regs = BitVec.allOnes 524288 ∧
        t.vu.marks = BitVec.allOnes 32 ∧ t.vu.vl = 0 ∧ t.vu.vstart = 0 ∧ t.vu.vtype = 0x8000000000000000 ∧ t.vu.dirty.getLsbD 32 = true ∧
        t.vu.masks = s.vu.masks ∧ t.vu.scales = s.vu.scales ∧ t.vu.ns = s.vu.ns ∧ t.me.queues = s.me.queues)) ∧
  (∀ (n : BitVec 2) (w g : Nat), regCount n * regBits n = 524288 ∧ regCount n ∈ [32, 16, 8, 4] ∧
      vlmax n w g = regBits n * g / w ∧ (0 < w → vlmax n w g * w ≤ regBits n * g ∧ regBits n * g < (vlmax n w g + 1) * w))

/-- Every vector word that works element by element completes once it is ready (R61, R63, R102, R150): the X-thread goes on at PC +
4, `vstart` and the lane-group counters are 0, the type state stands, and nothing changes but the vector state, `fcsr`, the
assists that are owed, the history ring, the convoy in progress, the queue whose port the word pops and what the machine keeps
for a word that a return restarts, which a word in U mode ends. No byte of memory, no tile and no register of either thread
changes. -/
def Obligations.ElementWordsComplete : Prop :=
  ∀ (i : Instr) (s : State) (xs : List RegNo), planned i = some xs → s.vecReady i xs none = true →
    ∃ t, exec i s = .next t ∧
      t = { s.issued i xs with
        vu := { s.vu with regs := t.vu.regs, marks := t.vu.marks, masks := t.vu.masks, scales := t.vu.scales, ns := t.vu.ns,
                          dirty := t.vu.dirty, vstart := 0, lgp := Vector.replicate 4 0 }
        rings := t.rings, ringEntries := t.ringEntries
        me := { (s.issued i xs).me with
          x := { s.me.x with pc := s.me.x.pc + 4, wait := .none }, fcsr := t.me.fcsr, assists := t.me.assists
          restarts := if s.cur.priv = .u then none else s.me.restarts } } ∧
      s.me.assists ≤ t.me.assists

/-- The integer words of majors VINT write what R152 states into each active element, modulo the width; R150 says what becomes of
the other elements. The floating-point words of majors VFP write what R83 and R153 state into each active element, rounded once
under the captured mode with subnormals flushed under `fz`, and their flags join `fcsr`. The conversions write the converted
element (R70, R71, R74, R155), and `vdeq` the element scaled by its block's scale (R75, R156), in a rounding mode other than
noise shaping. The slides, `vpull`, `vmerge`, `vrank`, `vindex`, `vmv`, `vbcast` and `vjoin` move what R158, R165 and R179 state
into each active element, from the registers as they stood at decode; they raise no flag. -/
def Obligations.VectorResults : Prop :=
  (∀ (i : Instr) (e : ElemWord) (s t : State), intElem i = some e → s.vecReady i e.xs none = true →
      (s.cap (encode i)).vl ≤ holds (s.cap (encode i)) s.vu → exec i s = .next t → e.Leaves i s t) ∧
  (∀ (i : Instr) (e : ElemWord) (s t : State), fpElem i = some e → s.vecReady i e.xs none = true →
      (s.cap (encode i)).vl ≤ holds (s.cap (encode i)) s.vu → exec i s = .next t → e.Leaves i s t) ∧
  (∀ (i : Instr) (e : ElemWord) (s t : State), cvtElem i = some e → s.vecReady i e.xs none = true → (s.cap (encode i)).rm ≠ 4 →
      (s.cap (encode i)).vl ≤ holds (s.cap (encode i)) s.vu → exec i s = .next t → e.Leaves i s t) ∧
  (∀ (i : Instr) (e : ElemWord) (s t : State), moveElem i = some e → s.vecReady i e.xs none = true →
      (s.cap (encode i)).vl ≤ holds (s.cap (encode i)) s.vu → exec i s = .next t → e.Leaves i s t)

/-- The mask words and the comparisons write the bits that R163 and R164 state, and R150 says what becomes of the other bits of the
mask; no vector register changes. -/
def Obligations.MaskResults : Prop :=
  ∀ (i : Instr) (e : MaskWord) (s t : State), maskElem i = some e → s.vecReady i e.xs none = true →
    (s.cap (encode i)).vl ≤ holds (s.cap (encode i)) s.vu → (s.cap (encode i)).g ≤ regCount s.vu.vcfg →
    exec i s = .next t → e.Leaves i s t

/-- The reductions complete and leave in element 0 of vd the fold of element 0 of vs1 and the active elements (R81, R157); the tree
sums complete too, and leave there element 0 of vs1 plus the total of the tree of R82, or element 0 of vs1 where the tree is
empty. -/
def Obligations.ReductionResults : Prop :=
  (∀ (i : Instr) (e : RedWord) (s : State), redWord i = some e → s.vecReady i [] none = true →
    ∃ t, exec i s = .next t ∧ t.me.x.pc = s.me.x.pc + 4 ∧ t.mem = s.mem ∧ t.me.x.regs = s.me.x.regs ∧ e.Leaves i s t) ∧
  (∀ (s : State) (k a b : Bool) (d u t : RegNo) (m : Option (BitVec 2)) (i : Instr),
    (i = .vfredsum k d u t a b m ∨ i = .vfwredsum k d u t a b m) → s.vecReady i [] none = true →
    ∃ r, exec i s = .next r ∧ r.me.x.pc = s.me.x.pc + 4 ∧ r.mem = s.mem ∧ r.me.x.regs = s.me.x.regs ∧
      (let c := s.cap (encode i)
       let w := if i = .vfwredsum k d u t a b m then 32 else c.w
       let f := if i = .vfwredsum k d u t a b m then Fmt.f32 else c.fmt
       let sum (x y : Val) : Nat := (f.round c.fz c.prm (Val.add c.prm x y).1).1
       let leaf (j : Nat) : Option Val :=
         if j < c.vl ∧ maskAdmits m s.vu j = true then some (c.fmt.input c.fz (s.vu.elem t.toNat c.w j)) else none
       let total := treeTotal (fun x y => f.input c.fz (sum x y)) leaf (128 / c.w) (regBits s.vu.vcfg / 2048) c.g
       (c.vl ≠ 0 → r.vu.elem d.toNat w 0 = match total with
         | none => s.vu.elem u.toNat w 0
         | some v => sum (f.input c.fz (s.vu.elem u.toNat w 0)) v % 2 ^ w) ∧
       (c.vl = 0 → r.vu.elem d.toNat w 0 = s.vu.elem d.toNat w 0)))

/-- `vpush` and `vcomp` complete (R158, R159): `vpush` writes the element of the highest active source that names it and leaves an
element that none names; `vcomp` packs the active elements into vd in order. `vsplit` (R179) parts each active FP32 element into
its high and its low 16 bits, in two groups of 16-bit elements. `vupd.sgdm` and `vupd.adamw` complete, and give each active
element the values of R178, each `F` rounding once: the weight in its plane pair, and the moments narrowed to BF16, under noise
shaping by the residue of the element's lane, which takes the narrowings of the lane in element order, m before v (R73); the
groups do not overlap (R177). `vcvtq` completes (R75, R156): each block with an active element gets the scale of its largest
active magnitude, or 0xFF where one is NaN or infinite, and its active elements become the rounding of `x 2^(127 - S)`, or code
zero; under noise shaping by the residue of the element's lane. Every other scale stays. -/
def Obligations.PackingAndPlanes : Prop :=
  ((∀ (s : State) (k a b : Bool) (d u v : RegNo) (m : Option (BitVec 2)),
      let i : Instr := .vpush k d u v a b m
      let c := s.cap (encode i)
      s.vecReady i [] none = true → c.vl ≤ holds c s.vu → c.vstart < c.vl →
      ∃ t, exec i s = .next t ∧ t.me.x.pc = s.me.x.pc + 4 ∧ t.mem = s.mem ∧ t.me.x.regs = s.me.x.regs ∧
        (∀ j, j < c.vl → t.vu.elem d.toNat c.w j =
          match ((List.range c.vl).filter (fun n => decide (c.vstart ≤ n) && maskAdmits m s.vu n &&
            decide (s.vu.elem u.toNat c.w n = j))).getLast? with
          | some n => s.vu.elem v.toNat c.w n
          | none => s.vu.elem d.toNat c.w j)) ∧
    (∀ (s : State) (k b : Bool) (d v : RegNo) (m : Option (BitVec 2)),
      let i : Instr := .vcomp k d v b m
      let c := s.cap (encode i)
      let l := (List.range c.vl).filter (maskAdmits m s.vu)
      s.vecReady i [] none = true → c.vl ≤ holds c s.vu → 0 < c.vl →
      ∃ t, exec i s = .next t ∧ t.me.x.pc = s.me.x.pc + 4 ∧ t.mem = s.mem ∧ t.me.x.regs = s.me.x.regs ∧
        (∀ j n, l[j]? = some n → t.vu.elem d.toNat c.w j = s.vu.elem v.toNat c.w n) ∧
        (∀ j, l.length ≤ j → j < holds c s.vu → t.vu.elem d.toNat c.w j =
          if c.tfill then fillValue c.et % 2 ^ c.w else s.vu.elem d.toNat c.w j))) ∧
  (∀ (s t : State) (k b : Bool) (d v : RegNo) (m : Option (BitVec 2)) (j : Nat),
      let i : Instr := .vsplit k d v b m
      let c := s.cap (encode i)
      s.vecReady i [] none = true → exec i s = .next t → c.vl ≤ holds c s.vu → c.vstart ≤ j → j < c.vl →
      maskAdmits m s.vu j = true → lgAt c.lgp (lgOf 16 j) ≤ j →
      t.vu.elem d.toNat 16 j = s.vu.elem v.toNat 32 j / 2 ^ 16 ∧
      t.vu.elem (d.toNat + c.g) 16 j = s.vu.elem v.toNat 32 j % 2 ^ 16) ∧
  (∀ (s : State) (adam k a b : Bool) (d u v : RegNo) (m : Option (BitVec 2)),
      let i : Instr := if adam then .vupdAdamw k d u v a b m else .vupdSgdm k d u v a b m
      let c := s.cap (encode i)
      let rm := plainRm c.rm
      let hyp (r : RegNo) : Val := Fmt.f32.decode ((s.me.x.reg r).toNat % 2 ^ 32)
      let add (x y : Val) : Val := (Val.add rm x y).1
      let mul (x y : Val) : Val := (Val.mul x y).1
      let F (fz : Bool) (x : Val) : Nat := (Fmt.f32.round fz rm x).1
      let val (x : Nat) : Val := Fmt.f32.decode x
      let rest (x : Val) : Val := add (val 0x3F800000) x.negate
      let w (j : Nat) : Val := val (s.vu.elem d.toNat 16 j * 2 ^ 16 + s.vu.elem (d.toNat + c.g) 16 j)
      let g (j : Nat) : Val := val (F c.fz ((Fmt.f32.input c.fz (s.vu.elem v.toNat 32 j)).scale (-((c.lscale.extractLsb' 0 8).toInt))))
      let mom (r j : Nat) : Val := Fmt.bf16.input c.fz (s.vu.elem r 16 j)
      let m1 (j : Nat) : Nat := F c.fz (if adam then add (mul (hyp 17) (mom u.toNat j)) (mul (rest (hyp 17)) (g j))
        else add (add (mul (hyp 17) (mom u.toNat j)) (g j)) (mul (hyp 20) (w j)))
      let v1 (j : Nat) : Nat := F c.fz (add (mul (hyp 18) (mom (u.toNat + c.g) j)) (mul (mul (rest (hyp 18)) (g j)) (g j)))
      let up (j : Nat) : Val := val (F false (mul (val (m1 j)) (hyp 21)))
      let den (j : Nat) : Val := val (F false (add (val (F false (val (F false (mul (val (v1 j)) (hyp 22)))).sqrt.1)) (hyp 19)))
      let step (j : Nat) : Val := add (val (F false (Val.div (up j) (den j)).1)) (mul (hyp 20) (w j))
      let w1 (j : Nat) : Nat := F c.fz (add (w j) (mul (hyp 16) (if adam then step j else val (m1 j))).negate)
      let narrow (x r : Nat) : Nat × Nat :=
        if c.rm = 4 then ((Fmt.bf16.noiseShaped c.fz (val x) r).1, (Fmt.bf16.noiseShaped c.fz (val x) r).2.1)
        else ((Fmt.bf16.round c.fz c.rm (val x)).1, r)
      let after (r j : Nat) : Nat := if adam then (narrow (v1 j) (narrow (m1 j) r).2).2 else (narrow (m1 j) r).2
      let lane (l n : Nat) : List Nat := (List.range n).filter (fun j => decide (c.vstart ≤ j) && maskAdmits m s.vu j &&
        decide (lgAt c.lgp (lgOf 16 j) ≤ j) && decide (laneOf 16 j = l))
      let residue (l n : Nat) : Nat := (lane l n).foldl after (s.vu.residue l)
      s.vecReady i [] none = true → c.vl ≤ holds c s.vu → c.vstart < c.vl →
      (u.toNat + (if adam then 2 * c.g else c.g) ≤ d.toNat ∨ d.toNat + 2 * c.g ≤ u.toNat) →
      ∃ t, exec i s = .next t ∧ t.me.x.pc = s.me.x.pc + 4 ∧ t.mem = s.mem ∧ t.me.x.regs = s.me.x.regs ∧
        (∀ j, c.vstart ≤ j → j < c.vl → maskAdmits m s.vu j = true → lgAt c.lgp (lgOf 16 j) ≤ j →
          t.vu.elem d.toNat 16 j = w1 j / 2 ^ 16 % 2 ^ 16 ∧ t.vu.elem (d.toNat + c.g) 16 j = w1 j % 2 ^ 16 ∧
          t.vu.elem u.toNat 16 j = (narrow (m1 j) (residue (laneOf 16 j) j)).1 % 2 ^ 16 ∧
          (adam = true → t.vu.elem (u.toNat + c.g) 16 j =
            (narrow (v1 j) (narrow (m1 j) (residue (laneOf 16 j) j)).2).1 % 2 ^ 16)) ∧
        (∀ l, l < 16 → t.vu.residue l = residue l c.vl % 2 ^ 32)) ∧
  (∀ (s : State) (k b : Bool) (d y v : RegNo) (m : Option (BitVec 2)),
      let i : Instr := .vcvtq k d y v b m
      let c := s.cap (encode i)
      let q := cvtOf (encode i) c
      let sw := etypeWidth q.src
      let dw := etypeWidth q.dst
      let active (j : Nat) : Bool := decide (c.vstart ≤ j) && decide (j < c.vl) && maskAdmits m s.vu j
      let does (j : Nat) : Bool := active j && decide (lgAt c.lgp (lgOf dw j) ≤ j)
      let x (j : Nat) : Val := c.input q.src (s.vu.elem v.toNat sw j)
      let block (n : Nat) : List Val := (((List.range 32).map (fun e => 32 * n + e)).filter active).map x
      let bad (n : Nat) : Bool := (block n).any (fun z => z.isNan || z.isInf)
      let scale (n : Nat) : Nat := if bad n then 255 else
        blockScale q.dst (((block n).map (fun z => match z with | .fin _ f e _ => (f, e) | _ => (0, 0))).foldl magMax (0, 0))
      let out (r j : Nat) : CvtRes := c.narrow true q.dst r ((x j).scale (127 - (scale (j / 32) : Int)))
      let residue (l n : Nat) : Nat := ((List.range n).filter (fun j => does j && !bad (j / 32) && decide (laneOf dw j = l))).foldl
        (fun r j => ((out r j).ns.map (· % 2 ^ 32)).getD r) (s.vu.residue l)
      let reg := d.toNat * 4 / regCount s.vu.vcfg
      s.vecReady i [] none = true → c.vl ≤ holds c s.vu → c.vstart < c.vl →
      ∃ t, exec i s = .next t ∧ t.me.x.pc = s.me.x.pc + 4 ∧ t.mem = s.mem ∧ t.me.x.regs = s.me.x.regs ∧
        (∀ j, does j = true → t.vu.elem d.toNat dw j =
          (if bad (j / 32) then 0 else (out (residue (laneOf dw j) j) j).code) % 2 ^ dw) ∧
        (∀ n, n < 1024 → (∃ j, does j = true ∧ j / 32 = n) → t.vu.scaleAt reg n = scale n) ∧
        (∀ n, (∀ j, does j = true → j / 32 ≠ n) → t.vu.scaleAt reg n = s.vu.scaleAt reg n))

/-- The words that move one element or one number between the x registers and the vector state complete (R163, R165): `mcount` and
`mlow` give the number and the lowest of the active elements whose bit is set (all ones for none); `vmvxs` gives element 0,
sign-extended for a signed type; `vmvsx` writes element 0 when `vstart` is 0 and `vl` is not. `vqpop` and `vqpush` complete when
their queue holds, or has room for, every granule of `vl` elements (R166): the granules move in order between the queue and the
group; `vnsrd` and `vnswr` move the residues of the lanes from `vstart` on (R167). -/
def Obligations.VectorScalarMoves : Prop :=
  (∀ (s : State) (k b : Bool) (d x t : RegNo) (m : Option (BitVec 2)),
      (s.vecReady (.mcount k d t m) [] (some d) = true → d.toNat < 24 → d ≠ 0 →
        let c := s.cap (encode (.mcount k d t m))
        ∃ r, exec (.mcount k d t m) s = .next r ∧ r.me.x.pc = s.me.x.pc + 4 ∧ r.vu.regs = s.vu.regs ∧ r.vu.masks = s.vu.masks ∧
          r.me.x.reg d = BitVec.ofNat 64 ((List.range c.vl).countP (fun j => decide (c.vstart ≤ j) && maskAdmits m s.vu j &&
            s.vu.mbit t.toNat j))) ∧
      (s.vecReady (.mlow k d t m) [] (some d) = true → d.toNat < 24 → d ≠ 0 →
        let c := s.cap (encode (.mlow k d t m))
        ∃ r, exec (.mlow k d t m) s = .next r ∧ r.me.x.pc = s.me.x.pc + 4 ∧ r.vu.regs = s.vu.regs ∧ r.vu.masks = s.vu.masks ∧
          r.me.x.reg d = match (List.range c.vl).find? (fun j => decide (c.vstart ≤ j) && maskAdmits m s.vu j &&
            s.vu.mbit t.toNat j) with
            | some j => BitVec.ofNat 64 j
            | none => BitVec.allOnes 64) ∧
      (s.vecReady (.vmvxs k d t b) [] (some d) = true → d.toNat < 24 → d ≠ 0 →
        let c := s.cap (encode (.vmvxs k d t b))
        ∃ r, exec (.vmvxs k d t b) s = .next r ∧ r.me.x.pc = s.me.x.pc + 4 ∧ r.vu.regs = s.vu.regs ∧ r.vu.vstart = 0 ∧
          r.me.x.reg d = if 9 ≤ c.et ∧ c.et < 13 then (BitVec.ofNat c.w (s.vu.elem t.toNat c.w 0)).signExtend 64
            else BitVec.ofNat 64 (s.vu.elem t.toNat c.w 0)) ∧
      (s.vecReady (.vmvsx k d x) [x] none = true →
        let c := s.cap (encode (.vmvsx k d x))
        ∃ r, exec (.vmvsx k d x) s = .next r ∧ r.me.x.pc = s.me.x.pc + 4 ∧ r.vu.vstart = 0 ∧
          (c.vstart = 0 → 0 < c.vl → r.vu.elem d.toNat c.w 0 = (s.operand (.vmvsx k d x) [x]).toNat % 2 ^ c.w) ∧
          (c.vl ≤ c.vstart → r.vu.regs = s.vu.regs))) ∧
  (∀ (s : State) (k b : Bool) (d : RegNo) (q : BitVec 3) (p : BitVec 2),
      (let i : Instr := .vqpop k d q
       let c := s.cap (encode i)
       let n := (c.vl * c.w + 127) / 128
       s.vecReady i [] none = true → c.vl ≤ holds c s.vu → c.vstart = 0 → 0 < c.vl →
       n ≤ (s.queue q.toNat).items.length → (∀ e ∈ (s.queue q.toNat).items.take n, e.poison = false) →
       ∃ t, exec i s = .next t ∧ t.me.x.pc = s.me.x.pc + 4 ∧ t.mem = s.mem ∧
         (t.queue q.toNat).items = (s.queue q.toNat).items.drop n ∧
         (∀ j e, j < n → (s.queue q.toNat).items[j]? = some e → t.vu.elem d.toNat 128 j = e.val.toNat)) ∧
      (let i : Instr := .vqpush k p d b
       let c := s.cap (encode i)
       let n := (c.vl * c.w + 127) / 128
       s.vecReady i [] none = true → c.vl ≤ holds c s.vu → c.vstart = 0 → 0 < c.vl →
       (s.queue (p.toNat + 8)).closed = false → (s.queue (p.toNat + 8)).items.length + n ≤ 512 →
       ∃ t, exec i s = .next t ∧ t.me.x.pc = s.me.x.pc + 4 ∧ t.mem = s.mem ∧ t.vu.regs = s.vu.regs ∧
         (t.queue (p.toNat + 8)).items.map (·.val) = (s.queue (p.toNat + 8)).items.map (·.val) ++
           (List.range n).map (fun j => BitVec.ofNat 128 (s.vu.elem d.toNat 128 j))) ∧
      (s.vecReady (.vnsrd k d) [] none = true →
        ∃ t, exec (.vnsrd k d) s = .next t ∧ t.me.x.pc = s.me.x.pc + 4 ∧ t.vu.vstart = 0 ∧ t.vu.ns = s.vu.ns ∧
          ∀ l, (s.cap (encode (.vnsrd k d))).vstart ≤ l → l < 16 → t.vu.elem d.toNat 32 l = s.vu.residue l) ∧
      (s.vecReady (.vnswr k d b) [] none = true →
        ∃ t, exec (.vnswr k d b) s = .next t ∧ t.me.x.pc = s.me.x.pc + 4 ∧ t.vu.vstart = 0 ∧ t.vu.regs = s.vu.regs ∧
          ∀ l, l < 16 → t.vu.residue l =
            if (s.cap (encode (.vnswr k d b))).vstart ≤ l then s.vu.elem d.toNat 32 l else s.vu.residue l))

/-- The scale of a block (R75): where it is not clamped, the block's largest magnitude `m 2^e` is within the target's largest finite
value times `2^(scale - 127)`, and not within half of that; an all-zero block has the scale 127. Rounding a value that the
format represents gives its own code, with no flag, in every rounding mode (R69, R71). -/
def Obligations.RoundingAndScales : Prop :=
  (∀ (et m : Nat) (e : Int), et ∈ [3, 4, 5, 6, 7, 8, 11, 12] →
      blockScale et (0, e) = 127 ∧
      (0 < m → 0 < blockScale et (m, e) → blockScale et (m, e) < 254 →
        let s : Int := (blockScale et (m, e) : Int) - 127
        magLe m e (scaleMax et).1 ((scaleMax et).2 + s) = true ∧ magLe m e (scaleMax et).1 ((scaleMax et).2 + s - 1) = false)) ∧
  (∀ (f : Fmt) (rm code : Nat), code < 2 ^ f.width → (f.decode code).isNan = false → f.round false rm (f.decode code) = (code, 0))

/-- The VLD and VST words that move elements (R138, R139, R142), once ready. When every access may be made they complete: one
operation for each access joins the V pipe in element order, a store's with its data, and the X-thread goes on at PC + 4; a load
fills at once what its tail and its masked-off elements are filled with. A load that faults past its first element is trimmed
there and completes; one that faults at its first element traps there and has no effect; a store that faults traps at its lowest
faulting element, with every element below it on its way; where the entries that a trapping word popped go back to their queues,
that is the model's choice (log entry 100), and so is the page list of a load's trap, which is empty (log entry 59); two x ports
pop in the order of the fields xa and aux (log entry 99). A strip whose bit offset is above 7 raises illegal-instruction with
sub-code 6. -/
def Obligations.VectorMemoryWords : Prop :=
  ∀ (i : Instr) (e : MemWord) (s : State), memWord i = some e → s.vecReady i e.xs none = true →
    let c := s.cap (encode i)
    let v := (s.inConvoy c).reads e.xs
    let x := v.2.headD 0
    let y := v.2.getD 1 0
    let o := e.start i s
    let l := e.accesses c s.vu x y
    let r := o.examine (if e.strip then 1 else c.w / 8) e.store l
    let kind (a : Access) : VKind := if e.store then .store a.w (s.vu.get a.pos a.w) else .load a.pos a.w
    let b := regBits s.vu.vcfg
    let legal : Prop := e.strip = true → y.toNat < 8
    c.vstart < c.vl → c.vl ≤ holds c s.vu → r.wait = none →
    (legal → r.bad = [] → ∃ t, exec i s = .next t ∧ r.good.map (·.1) = l ∧
      t.me.vops = s.me.vops ++ o.vectorOps kind e.ordered r.good ∧ t.me.vnext = s.me.vnext + l.length ∧
      t.me.x = { s.me.x with pc := s.me.x.pc + 4, wait := .none } ∧ t.me.a = s.me.a ∧ t.vu.vstart = 0 ∧ t.vu.vl = s.vu.vl ∧
      t.vu.masks = s.vu.masks ∧ t.tiles = s.tiles ∧
      (e.store = true → t.vu.regs = s.vu.regs ∧ t.vu.marks = s.vu.marks) ∧
      (e.store = false → ∀ k < e.fields, ∀ j < b * c.g / c.w, t.vu.elem (e.reg.toNat + k * c.g) c.w j =
        leaves c e.mask s.vu c.w j (s.vu.elem (e.reg.toNat + k * c.g) c.w j) (s.vu.elem (e.reg.toNat + k * c.g) c.w j)
          (fillValue c.et % 2 ^ c.w)) ∧
      (∀ k < regCount s.vu.vcfg, (k < e.reg.toNat ∨ e.reg.toNat + e.fields * c.g ≤ k) →
        t.vu.get (k * b) b = s.vu.get (k * b) b)) ∧
    (∀ f ca tv, legal → e.store = false → r.bad = [(f, ca, tv)] → l.head?.map (·.i) ≠ some f.i →
      ∃ t, exec i s = .next t ∧ t.me.x.pc = s.me.x.pc + 4 ∧ t.vu.vl = f.i ∧ t.vu.vstart = 0 ∧
        t.me.vops = s.me.vops ++ o.vectorOps kind e.ordered (r.good.filter (fun g => decide (g.1.i < f.i)))) ∧
    (∀ f ca tv, legal → e.store = false → r.bad = [(f, ca, tv)] → l.head?.map (·.i) = some f.i →
      ∃ u : State, exec i s = .next (u.takeTrap (s.trapAt ca 0 f.va)) ∧ u.me.vops = s.me.vops ∧ u.vu.regs = s.vu.regs ∧
        u.vu.vl = s.vu.vl ∧ u.vu.vstart = f.i ∧ u.me.queues = s.me.queues ∧ u.me.x = s.me.x) ∧
    (∀ f ca tv q, legal → e.store = true → r.bad = (f, ca, tv) :: q →
      ∃ (u : State) (tr : Trap), exec i s = .next (u.takeTrap tr) ∧ tr.cause = ca ∧ tr.sub = 0 ∧ tr.tval = f.va ∧ tr.tepc = s.pc ∧
        u.vu.regs = s.vu.regs ∧ u.vu.vl = s.vu.vl ∧ u.vu.vstart = f.i ∧ u.me.queues = s.me.queues ∧ u.me.x = s.me.x ∧
        (∀ g ∈ r.good, g.1.i < f.i → ∃ z ∈ u.me.vops, s.me.vnext ≤ z.id ∧ z.va = g.1.va ∧ z.place = g.2.1 ∧
          z.kind = .store g.1.w (s.vu.get g.1.pos g.1.w))) ∧
    (¬ legal →
      ∃ u : State, exec i s = .next (u.takeTrap (s.trapAt 0x01 6 ((encode i).zeroExtend 64))) ∧ u.vu = s.vu ∧ u.me = s.me)

/-- `vlsc` and `vssc` complete when every scale may be reached: one operation for each scale joins the V pipe and the registers stay
(R143). `vlkv` does the passes of its loop (R145-R148), at least one of them in a step (the model's choice, log entry 60): when
the loop is over without a fault it completes: an operation for each element delivered, and for each write of the list, has
joined the V pipe, `vl` is the elements it delivered and `kvpos` where it ended; until then it goes on with the rest. A block
that is no multiple of 64, or a list that is no multiple of 8, raises misaligned, even where `vstart` is at or past `vl` (the
model's choice, log entry 98), and takes its popped entries back (log entry 100). The lane-store words complete when every
offset is a multiple of the element and lies in the reservation (R144): `vlld` loads each active element from its own lane's
slice; `vlst` stores it there; `vlla` adds it there and gives the old value. Each touches the slices of its own lanes alone. An
offset operand with a bit above 16 raises illegal-instruction with sub-code 6. -/
def Obligations.SpecialMemoryWords : Prop :=
  ((∀ (s : State) (k : Bool) (d x : RegNo),
      let c := s.cap (encode (.vlsc k d x))
      let o := s.issued (.vlsc k d x) [x]
      let l := scaleList c (s.operand (.vlsc k d x) [x])
      let r := o.examine 1 false l
      s.vecReady (.vlsc k d x) [x] none = true → c.vstart < c.vl → r.wait = none → r.bad = [] →
      ∃ t, exec (.vlsc k d x) s = .next t ∧ r.good.map (·.1) = l ∧
        t.me.vops = s.me.vops ++ o.vectorOps (fun a => .scale d.toNat a.pos) false r.good ∧
        t.me.x.pc = s.me.x.pc + 4 ∧ t.me.x.regs = s.me.x.regs ∧ t.vu.regs = s.vu.regs ∧ t.vu.scales = s.vu.scales ∧ t.vu.vstart = 0) ∧
    (∀ (s : State) (k : Bool) (d x : RegNo),
      let c := s.cap (encode (.vssc k d x))
      let o := s.issued (.vssc k d x) [x]
      let l := scaleList c (s.operand (.vssc k d x) [x])
      let r := o.examine 1 true l
      s.vecReady (.vssc k d x) [x] none = true → c.vstart < c.vl → r.wait = none → r.bad = [] →
      ∃ t, exec (.vssc k d x) s = .next t ∧ r.good.map (·.1) = l ∧
        t.me.vops = s.me.vops ++ o.vectorOps (fun a => .store 8 (s.vu.scaleAt d.toNat a.pos)) false r.good ∧
        t.me.x.pc = s.me.x.pc + 4 ∧ t.me.x.regs = s.me.x.regs ∧ t.vu.regs = s.vu.regs ∧ t.vu.scales = s.vu.scales ∧ t.vu.vstart = 0) ∧
    (∀ (s : State) (k : Bool) (d x p : RegNo),
      let i : Instr := .vlkv k d x p
      let c := s.cap (encode i)
      let v := (s.inConvoy c).reads [x, p]
      let list := v.2.getD 0 0
      let blk := v.2.getD 1 0
      s.vecReady i [x, p] none = true →
      (blk.toNat % 64 ≠ 0 →
        ∃ u : State, exec i s = .next (u.takeTrap (s.trapAt 0x03 0 blk)) ∧ u.vu = s.vu ∧ u.me = s.me) ∧
      (blk.toNat % 64 = 0 → list.toNat % 8 ≠ 0 →
        ∃ u : State, exec i s = .next (u.takeTrap (s.trapAt 0x03 0 list)) ∧ u.vu = s.vu ∧ u.me = s.me) ∧
      (let e0 := bits s.me.kvpos.toNat 31 0
       let k0 : KvRun := { s := v.1.drawFree.2, i := c.vstart, e := e0, t := bits s.me.kvpos.toNat 39 32, fault := none, wait := none
                           ops := [], toks := [], reads := [], writes := [] }
       let p := k0.load blk 64 true
       let kv := KvBlock.of p.1
       let past := s.me.kvpos.getLsbD 63
       let note : KvNote := { block := p.1, start := s.me.kvpos, entry := false, token := false, pages := [], span := none
                              active := (s.vu.active c none).length }
       let run (n : Nat) : KvRun := if past then p.2 else kvLoop c kv list d.toNat c.vl note n p.2
       blk.toNat % 64 = 0 → list.toNat % 8 = 0 → p.2.wait = none → p.2.fault = none → kv.ok c past = true →
       (∀ n, 0 < n → (run n).wait = none ∧ (run n).fault = none) →
       ∃ n t, 0 < n ∧ exec i s = .next t ∧
        t.me.vops = s.me.vops ++ v.1.mixedOps (run n).ops.reverse ∧
        t.me.x.regs = s.me.x.regs ∧ t.me.kvpos.toNat =
          (run n).e % 2 ^ 32 + 2 ^ 32 * ((run n).t % 2 ^ 8) + (if kv.ne ≤ (run n).e then 2 ^ 63 else 0) ∧
        (past = true ∨ (run n).more kv c.vl = false →
          t.vu.vl = (run n).i ∧ t.vu.vstart = 0 ∧ t.me.x.pc = s.me.x.pc + 4 ∧ t.me.resuming = s.me.resuming) ∧
        (past = false → (run n).more kv c.vl = true → t.me.resuming = true ∧ t.vu.vl = s.vu.vl ∧
          t.vu.flight[s.entryPlace]?.map (fun f => (f.pc, f.word, f.lgp)) = some (s.pc, encode i, Vector.replicate 4 (run n).i))))) ∧
  (∀ (s : State) (i : Instr) (k b : Bool) (d x n : RegNo) (m : Option (BitVec 2)),
      (i = .vlld k d x n m ∨ i = .vlst k d x n b m ∨ i = .vlla k d x n m) →
      s.vecReady i [x] none = true →
      let c := s.cap (encode i)
      let off (j : Nat) : Nat := (s.operand i [x]).toNat % 2 ^ 17 + s.vu.elem n.toNat 32 j * (c.w / 8)
      let act := performed c m s.vu
      let alone (j : Nat) : Prop := ∀ h ∈ act, h ≠ j → laneOf c.w h ≠ laneOf c.w j ∨ off h ≠ off j
      s.Inv → c.vstart < c.vl → c.vl ≤ holds c s.vu →
      (2 ^ 17 ≤ (s.operand i [x]).toNat →
        ∃ u : State, exec i s = .next (u.takeTrap (s.trapAt 0x01 6 ((encode i).zeroExtend 64))) ∧ u.vu = s.vu ∧ u.me = s.me) ∧
      ((s.operand i [x]).toNat < 2 ^ 17 → s.me.lanestore ≤ 131072 →
        (∀ j ∈ act, off j % (c.w / 8) = 0 ∧ off j + c.w / 8 ≤ s.me.lanestore) →
        ∃ t, exec i s = .next t ∧ t.me.x.pc = s.me.x.pc + 4 ∧ t.me.x.regs = s.me.x.regs ∧ t.mem = s.mem ∧ t.vu.vstart = 0 ∧
          (i = .vlld k d x n m → t.me.lanes = s.me.lanes ∧
            ∀ j ∈ act, t.vu.elem d.toNat c.w j = s.laneValue (laneOf c.w j) (off j) (c.w / 8)) ∧
          (i = .vlst k d x n b m → t.vu.regs = s.vu.regs ∧
            ∀ j ∈ act, alone j → t.laneValue (laneOf c.w j) (off j) (c.w / 8) = s.vu.elem d.toNat c.w j) ∧
          (i = .vlla k d x n m → ∀ j ∈ act, alone j →
            t.vu.elem d.toNat c.w j = s.laneValue (laneOf c.w j) (off j) (c.w / 8) ∧
            t.laneValue (laneOf c.w j) (off j) (c.w / 8) =
              laneTotal c (s.laneValue (laneOf c.w j) (off j) (c.w / 8)) (s.vu.elem d.toNat c.w j)) ∧
          (∀ l o, o < 131072 → (∀ j ∈ act, laneOf c.w j ≠ l ∨ o < off j ∨ off j + c.w / 8 ≤ o) →
            t.laneValue l o 1 = s.laneValue l o 1)))

/-- A pending V operation that R91 lets perform, on a location without a second side: a load puts its bits into the register file
and changes no other; a scale load sets its scale; a store of whole bytes leaves them at its address, low byte first, and every
other byte of memory reads as before. The operation is then gone. One that must wait changes nothing. SUBNORMAL_ASSIST does an
assist that is owed and counts it (R77). -/
def Obligations.VectorOperationsPerform : Prop :=
  (∀ (s : State) (k : Nat) (o : VOp), s.me.vops.find? (fun e => e.id == k) = some o →
    (s.vReady o = false → exec (.vOperationPerform k) s = .next s) ∧
    (s.vReady o = true → o.place.twin = none → o.far = none → (∀ c, o.place.loc ≠ .absent c) →
      let l := o.place.loc
      (∀ p w, o.kind = .load p w → s.poisonedAt l ((o.bit + w + 7) / 8) = false → s.vu.owner = some s.me.uid → p + w ≤ 524288 →
        ∃ t, exec (.vOperationPerform k) s = .next t ∧ t.me.vops = s.me.vops.filter (fun e => e.id != k) ∧ t.mem = s.mem ∧
          t.vu.get p w = s.readHome l ((o.bit + w + 7) / 8) / 2 ^ o.bit % 2 ^ w ∧
          (∀ q n, q + n ≤ 524288 → (q + n ≤ p ∨ p + w ≤ q) → t.vu.get q n = s.vu.get q n)) ∧
      (∀ r n, o.kind = .scale r n → s.poisonedAt l ((o.bit + 15) / 8) = false → s.vu.owner = some s.me.uid → o.bit = 0 → r < 4 →
        n < 1024 → ∃ t, exec (.vOperationPerform k) s = .next t ∧ t.me.vops = s.me.vops.filter (fun e => e.id != k) ∧
          t.mem = s.mem ∧ t.vu.scaleAt r n = s.readHome l 1 ∧ t.vu.regs = s.vu.regs) ∧
      (∀ n v pa, s.Inv → o.kind = .store (8 * n) v → l = .mem pa → o.bit = 0 → n ∈ accessSizes → pa % n = 0 →
        ∃ t, exec (.vOperationPerform k) s = .next t ∧ t.me.vops = s.me.vops.filter (fun e => e.id != k) ∧ t.vu = s.vu ∧
          t.me.x = s.me.x ∧ (∀ j, j < n → (t.byte (pa + j)).toNat = v / 2 ^ (8 * j) % 256) ∧
          (∀ a, (∀ j, j < n → a ≠ s.normPa (pa + j)) → cellGet t.mem a = cellGet s.mem a)))) ∧
  (∀ (s : State),
    (s.me.assists ≠ 0 → exec .subnormalAssist s =
      .next { s with me := { s.me with assists := s.me.assists - 1, subn := s.me.subn + 1 } }) ∧
    (s.me.assists = 0 → exec .subnormalAssist s = .next s))

/-- `vappend` starts when its header and its ring may be written (R161): it takes the number `k` of its active elements that the
ring has room for, adds `k` to the reserve count and puts one store for each into the V pipe and behind them the commit; with
`k` = 0 nothing joins the pipe and it completes at once, and otherwise it waits for the commit. VAPPEND_COMMIT adds the count to
the commit count once the stores before it are performed and every earlier reservation is committed, and waits otherwise; the
word then completes: it gives rd `k` and the X-thread goes on at PC + 4. -/
def Obligations.AppendWords : Prop :=
  (∀ (s : State) (k b : Bool) (d h v : RegNo) (m : Option (BitVec 2)),
    let i : Instr := .vappend k d h v b m
    let c := s.cap (encode i)
    let o := s.issued i [h]
    let xh := s.operand i [h]
    s.vecReady i [h] (some d) = true → d ≠ 0 → d.toNat < 24 → o.vQuiet = true → s.me.append = none →
    ∀ q p u w, o.workQueue (encode i) xh c.w = .ok (q, p, u) → u.ringPages (pageStarts q.base (q.cap * q.esize)) = .ok w →
      let act := (List.range c.vl).filter (fun j => decide (c.vstart ≤ j) && maskAdmits m s.vu j)
      let n := min act.length (q.cap - (q.resv + 2 ^ 64 - q.head) % 2 ^ 64)
      let l : List Access := (act.take n).zipIdx.map (fun e =>
        ⟨e.2, q.base + BitVec.ofNat 64 ((q.resv + e.2) % q.cap * q.esize), c.w / 8, 0, c.w, v.toNat * regBits s.vu.vcfg + c.w * e.1⟩)
      let r := w.examine q.esize true l
      r.wait = none → r.bad = [] → ∃ t, exec i s = .next t ∧ t.vu.regs = s.vu.regs ∧
        (∀ pa, s.Inv → p.loc = .mem pa → pa % 64 = 0 →
          ∀ j, j < 8 → (t.byte (pa + 16 + j)).toNat = (q.resv + n) % 2 ^ 64 / 2 ^ (8 * j) % 256) ∧
        (n = 0 → t.me.vops = s.me.vops ∧ t.me.x.reg d = 0 ∧ t.me.x.pc = s.me.x.pc + 4 ∧ t.me.append = none) ∧
        (n ≠ 0 → t.me.x.regs = s.me.x.regs ∧ t.me.x.pc = s.me.x.pc ∧
          (t.me.append.map (fun a => (a.pc, a.count, a.done))) = some (s.pc, n, false) ∧
          ∃ z, t.me.vops = s.me.vops ++ w.vectorOps (fun a => .store a.w (s.vu.get a.pos a.w)) false r.good ++ [z] ∧
          z.kind = .commit q.resv n q.wlen q.watcher (r.good.map (fun e => (e.2.1.loc, q.esize))))) ∧
  (∀ (s : State) (k b : Bool) (d h v : RegNo) (m : Option (BitVec 2)) (a : Append),
    let i : Instr := .vappend k d h v b m
    s.passes i = true → s.held = none → d ≠ 0 → d.toNat < 24 → s.me.append = some a → a.pc = s.pc →
    (a.done = true → ∃ t, exec i s = .next t ∧ t.me.x.reg d = BitVec.ofNat 64 a.count ∧ t.me.x.pc = s.me.x.pc + 4 ∧
      t.me.append = none ∧ t.me.vops = s.me.vops ∧ t.mem = s.mem ∧ t.vu.regs = s.vu.regs ∧ t.vu.vstart = 0) ∧
    (a.done = false → exec i s = .next (s.waitFor .operand))) ∧
  (∀ (s : State) (o : VOp) (r n wl wt : Nat) (sl : List (Loc × Nat)),
    s.me.vops.find? (fun e => match e.kind with | .commit _ _ _ _ _ => true | _ => false) = some o →
    o.kind = .commit r n wl wt sl →
    (s.commitReady o r = false → exec .vappendCommit s = .next s) ∧
    (∀ pa, s.Inv → s.commitReady o r = true → o.place.loc = .mem pa → pa % 64 = 16 →
      ∃ t, exec .vappendCommit s = .next t ∧ t.me.vops = s.me.vops.filter (fun e => e.id != o.id) ∧ t.vu = s.vu ∧
        t.me.append = s.me.append.map (fun a => { a with done := true }) ∧
        (wt / 2 ^ 15 % 2 = 0 →
          ∀ j, j < 8 → (t.byte (pa + 16 + j)).toNat = (r + n) % 2 ^ 64 / 2 ^ (8 * j) % 256)))

/-- The tile words complete once ready (R53, R79, R169-R176), with `vl` above 0 where they depend on it. An outer product on vector
operands, in a tile of its format and at the wanted exponent, adds to each cell of an active row and of a column below `tcols`
the products of that row's and that column's granules, and leaves every other cell; `tcross.i` adds them modulo 2^32. `tzero`
clears the cells; `tmvrow` and `tmvcol` move the active elements into cells, and `trdrow` and `trdcol` move cells into the
active elements, row by row or column by column from the one that the x register names; `tcfg` sets format and exponent, `tstat`
reads the header, and `tscale` multiplies the cells by the power of two that brings the tile to the new exponent. Moves beyond
cell 127 and bad operands raise illegal-instruction with sub-code 6, and the entry that an x port popped is back in its queue
(the model's choice, log entries 19 and 100). -/
def Obligations.TileWords : Prop :=
  ∀ (s : State) (k a b : Bool) (t : BitVec 3) (v u : RegNo) (sl : BitVec 2) (m : Option (BitVec 2)),
    let n := s.me.tileNo t.toNat
    (∀ i kind, (i = .tcross k t v u sl a b m ∧ kind = Cross.plus ∨ i = .tcrossm k t v u sl a b m ∧ kind = Cross.minus ∨
        i = .tcrossI k t v u sl a b m ∧ kind = Cross.int ∨ i = .tcrossS k t v u a b m ∧ kind = Cross.scaled) →
      (sl = 0 ∨ kind = .scaled) → s.vecReady i [] none = true →
      let c := s.cap (encode i)
      let e := 128 / c.w
      let p : CrossArgs := ⟨kind, c.et, c.fz, c.vl, fun g => BitVec.ofNat 128 (s.vu.elem v.toNat 128 g),
        fun j => BitVec.ofNat 128 (s.vu.elem u.toNat 128 j), s.vu.scaleAt (scaleOf v.toNat (regCount s.vu.vcfg)),
        s.vu.scaleAt (scaleOf u.toNat (regCount s.vu.vcfg))⟩
      c.vl ≠ 0 → (s.tile n).fmt = kind.fmt → (kind = .int ∨ (s.tile n).sexp = (c.lscale.extractLsb' 0 8).toInt) →
      ∃ z, exec i s = .next z ∧ z.me.x.pc = s.me.x.pc + 4 ∧ z.me.x.regs = s.me.x.regs ∧ z.mem = s.mem ∧ z.vu.regs = s.vu.regs ∧
        (∀ g < 128, ∀ j < 128, (z.tile n).cell g j =
          if g * e < c.vl ∧ j < c.tcols.toNat ∧ maskAdmits m s.vu g = true then (p.update g j ((s.tile n).cell g j)).1 % 2 ^ 32
          else (s.tile n).cell g j) ∧
        (∀ q, q ≠ n → z.tile q = s.tile q) ∧
        (kind = .int → ∀ g j, (p.update g j ((s.tile n).cell g j)).1 = ((s.tile n).cell g j + p.intSum g j) % 2 ^ 32)) ∧
    (s.vecReady (.tzero k t) [] none = true → (s.cap (encode (.tzero k t))).vl ≠ 0 →
      ∃ z, exec (.tzero k t) s = .next z ∧ z.me.x.pc = s.me.x.pc + 4 ∧ z.vu.regs = s.vu.regs ∧ (z.tile n).cells = 0 ∧
        (∀ q, q ≠ n → z.tile q = s.tile q) ∧
        (let c := s.cap (encode (.tzero k t))
         (z.tile n).header.toNat = if c.et = 0 then 4096 + c.lscale.toNat % 256 else 4096 + 256)) ∧
    (∀ i (col : Bool), (i = .tmvrow k t v u b m ∧ col = false ∨ i = .tmvcol k t v u b m ∧ col = true) → s.vecReady i [v] none = true →
      let c := s.cap (encode i)
      let x := (s.operand i [v]).toNat
      let at' (j : Nat) : Nat × Nat := if col then (j % 128, x + j / 128) else (x + j / 128, j % 128)
      c.vl ≠ 0 →
      (128 < x + (c.vl + 127) / 128 →
        ∃ z : State, exec i s = .next (z.takeTrap (s.trapAt 0x01 6 ((encode i).zeroExtend 64))) ∧ z.tiles = s.tiles ∧ z.me = s.me) ∧
      (x + (c.vl + 127) / 128 ≤ 128 → ∃ z, exec i s = .next z ∧ z.me.x.pc = s.me.x.pc + 4 ∧ z.vu.regs = s.vu.regs ∧
        (∀ q, q ≠ n → z.tile q = s.tile q) ∧
        (∀ j, j < c.vl → c.vstart ≤ j → maskAdmits m s.vu j = true → (z.tile n).cell (at' j).1 (at' j).2 = s.vu.elem u.toNat 32 j) ∧
        (∀ g < 128, ∀ h < 128, (∀ j, j < c.vl → c.vstart ≤ j → maskAdmits m s.vu j = true → at' j ≠ (g, h)) →
          (z.tile n).cell g h = (s.tile n).cell g h))) ∧
    (∀ i (col : Bool), (i = .trdrow k t v u m ∧ col = false ∨ i = .trdcol k t v u m ∧ col = true) → s.vecReady i [v] none = true →
      let c := s.cap (encode i)
      let x := (s.operand i [v]).toNat
      let at' (j : Nat) : Nat × Nat := if col then (j % 128, x + j / 128) else (x + j / 128, j % 128)
      c.vl ≠ 0 → c.vl ≤ holds c s.vu →
      (128 < x + (c.vl + 127) / 128 →
        ∃ z : State, exec i s = .next (z.takeTrap (s.trapAt 0x01 6 ((encode i).zeroExtend 64))) ∧ z.vu = s.vu ∧ z.me = s.me) ∧
      (x + (c.vl + 127) / 128 ≤ 128 → ∃ z, exec i s = .next z ∧ z.me.x.pc = s.me.x.pc + 4 ∧ z.tiles = s.tiles ∧
        (∀ j, j < c.vl → maskAdmits m s.vu j = true → lgAt c.lgp (lgOf 32 j) ≤ j →
          z.vu.elem u.toNat 32 j = (s.tile n).cell (at' j).1 (at' j).2))) ∧
    (s.vecReady (.tcfg k t v) [v] none = true →
      let x := (s.operand (.tcfg k t v) [v]).toNat
      ((4096 ≤ x ∨ 1 < x / 256 % 16) → ∃ z : State,
        exec (.tcfg k t v) s = .next (z.takeTrap (s.trapAt 0x01 6 ((encode (.tcfg k t v)).zeroExtend 64))) ∧ z.tiles = s.tiles) ∧
      (x < 4096 → x / 256 % 16 ≤ 1 → ∃ z, exec (.tcfg k t v) s = .next z ∧ z.me.x.pc = s.me.x.pc + 4 ∧
        (z.tile n).cells = (s.tile n).cells ∧ (z.tile n).header.toNat = 4096 + x ∧ (∀ q, q ≠ n → z.tile q = s.tile q))) ∧
    (s.vecReady (.tstat k t v) [] (some v) = true → v ≠ 0 → v.toNat < 24 → ∃ z, exec (.tstat k t v) s = .next z ∧
      z.me.x.pc = s.me.x.pc + 4 ∧ z.me.x.reg v = (s.tile n).header.zeroExtend 64 ∧ z.tiles = s.tiles) ∧
    (s.vecReady (.tscale k t v) [v] none = true →
      let x := s.operand (.tscale k t v) [v]
      (((x.setWidth 8).signExtend 64 ≠ x ∨ (s.tile n).fmt = 1) → ∃ z : State,
        exec (.tscale k t v) s = .next (z.takeTrap (s.trapAt 0x01 6 ((encode (.tscale k t v)).zeroExtend 64))) ∧ z.tiles = s.tiles) ∧
      ((x.setWidth 8).signExtend 64 = x → (s.tile n).fmt ≠ 1 → ∃ z, exec (.tscale k t v) s = .next z ∧
        z.me.x.pc = s.me.x.pc + 4 ∧ (z.tile n).sexp = x.toInt ∧ (∀ q, q ≠ n → z.tile q = s.tile q) ∧
        (∀ g < 128, ∀ h < 128, (z.tile n).cell g h =
          (rescaleCell (s.cap (encode (.tscale k t v))).fz (x.toInt - (s.tile n).sexp) ((s.tile n).cell g h)).1 % 2 ^ 32)))

/-- The ENG words with a parameter block complete in the A-thread (R94, R180-R198): once fewer than 256 commands are open and the
block reads and passes its checks, the command is accepted, rd takes its token and the thread goes on at PC + 4; a block that
fails a check, or cannot be read, raises its exception, and a full queue of commands, or a turn that is another's (R192), waits:
the turn is of the lower source number at one `gts` value, which the agent keeps as the model chooses (log entry 109). Accepting
a command makes a token of the strand's context with the next serial number of its engine, and puts the command, not yet
started, and its A-thread operation at the end of theirs. -/
def Obligations.EngineWordsIssue : Prop :=
  (∀ (i : Instr) (s : State) (d p : RegNo) (kind : Nat) (sc : BitVec 2) (fl : BitVec 3) (chk : State → Nat → Chk (List Surf)),
    engineWord i = some (d, p, kind, sc, fl, chk) → s.passes i = true → s.thr = .a → s.atHand [p] (some d) = true →
    let x := s.cur.reg p
    (s.commandsFull = true → exec i s = .next (s.waitFor .commands)) ∧
    (s.commandsFull = false →
      (∀ b u fs, s.readBlock x = .ok (b, u) → chk u b = .ok fs →
        let z := u.accept (encode i) kind s.me.die sc fl s.cur.priv b fs .cmd
        (u.mayTake s.me.source fs = true → exec i s = .next ((z.2.put d z.1).setPc (s.pc + 4))) ∧
        (u.mayTake s.me.source fs = false → exec i s = .next (s.waitFor .commands))) ∧
      (∀ b u ca sub v, s.readBlock x = .ok (b, u) → chk u b = .trap ca sub v → exec i s = .next (s.takeTrap (s.trapAt ca sub v))) ∧
      (∀ ca sub v, s.readBlock x = .trap ca sub v → exec i s = .next (s.takeTrap (s.trapAt ca sub v))))) ∧
  (∀ (s : State) (w : IWord) (kind die : Nat) (sc : BitVec 2) (fl : BitVec 3) (pr : Priv) (b : Nat) (fs : List Surf) (op : Word → AKind),
    s.me.ctx < 2 ^ 16 → die < 4 → s.lastSerial s.me.ctx (tokenSrc (s.accept w kind die sc fl pr b fs op).1) < 2 ^ 32 - 1 →
    let z := s.accept w kind die sc fl pr b fs op
    tokenCtx z.1 = s.me.ctx ∧ 0x800 + 0x40 * die ≤ tokenSrc z.1 ∧ tokenSrc z.1 < 0x800 + 0x40 * (die + 1) ∧
    tokenSerial z.1 = s.lastSerial s.me.ctx (tokenSrc z.1) + 1 ∧
    (kind ≠ 16 → (kind = 0 → fl.getLsbD 1 = false) →
      (∃ c, z.2.cmds = s.cmds ++ [c] ∧ c.token = z.1 ∧ c.kind = kind ∧ c.block = BitVec.ofNat 512 b ∧ c.flags = fl ∧
        c.scope = sc ∧ c.uid = s.me.uid ∧ c.started = false ∧ c.done = false) ∧
      (∃ o, z.2.me.aops = s.me.aops ++ [o] ∧ o.kind = op z.1 ∧ o.id = s.me.anext) ∧ z.2.me.anext = s.me.anext + 1 ∧
      z.2.me.a = s.me.a ∧ z.2.me.x = s.me.x ∧ z.2.vu = s.vu))

/-- `pub`, `tokw` and `toks` complete in the A-thread (R185, R197): `pub` on a twin surface is accepted as a command, on one that is
not twin raises sub-code 6 and outside every surface raises protection; `toks` gives rd the status of its token; `tokw` waits
while that is pending, and then gives rd the status, raising a recorded cause 0x03-0x06 or 0x09 after it has retired; a token of
another context raises sub-code 6; a `tokw` that waits longer than the watchdog limit raises engine overdue. -/
def Obligations.TokenWords : Prop :=
  ∀ (s : State) (d p : RegNo) (sc : BitVec 2), s.thr = .a → s.atHand [p] (some d) = true →
    let x := s.cur.reg p
    let st := s.tokenStatus x
    let six (i : Instr) : Trap := s.trapAt 0x01 6 ((encode i).zeroExtend 64)
    (s.commandsFull = false →
      (s.surfOf s.me.ctx x = none → exec (.pub d p sc) s = .next (s.takeTrap (s.trapAt 0x06 0 x))) ∧
      (∀ f, s.surfOf s.me.ctx x = some f → f.twin = false → exec (.pub d p sc) s = .next (s.takeTrap (six (.pub d p sc)))) ∧
      (∀ f, s.surfOf s.me.ctx x = some f → f.twin = true → s.mayTake s.me.source [f] = true →
        let z := s.accept (encode (.pub d p sc)) 6 s.me.die sc 0 s.cur.priv 0 [f] .pub
        exec (.pub d p sc) s = .next ((z.2.put d z.1).setPc (s.pc + 4)))) ∧
    (x ≠ 0 → tokenCtx x ≠ s.me.ctx → exec (.tokw d p) s = .next (s.takeTrap (six (.tokw d p))) ∧
      exec (.toks d p) s = .next (s.takeTrap (six (.toks d p)))) ∧
    ((x = 0 ∨ tokenCtx x = s.me.ctx) →
      exec (.toks d p) s = .next ((s.put d st.1).setPc (s.pc + 4)) ∧
      (statusState st.1 = 0 → ∃ t, exec (.tokw d p) s = .next t ∧ t.me.a = { s.me.a with wait := .token } ∧
        t.me.waitTok.map (·.1) = some x ∧ t.mem = s.mem) ∧
      (statusState st.1 ≠ 0 →
        let t := ({ s with me := { s.me with waitTok := none } }.put d st.1).setPc (s.pc + 4)
        ((statusState st.1 = 2 ∧ bits st.1.toNat 23 16 ∈ [0x03, 0x04, 0x05, 0x06, 0x09]) →
          exec (.tokw d p) s = .next (t.takeTrap (t.trapAt (bits st.1.toNat 23 16) 0 st.2))) ∧
        (¬ (statusState st.1 = 2 ∧ bits st.1.toNat 23 16 ∈ [0x03, 0x04, 0x05, 0x06, 0x09]) → exec (.tokw d p) s = .next t))) ∧
    (∀ tok since c limit, s.me.waitTok = some (tok, since) → s.context s.me.ctx = some c → c.watchdog = some limit →
      s.me.a.wait = .token →
      (1000 * limit < (s.gts - since).toNat → exec .tokwWatchdog s =
        .next ({ s with me := { s.me with waitTok := none } }.trapA ⟨0x12, 0, tok, s.me.a.pc, [], false, false⟩)) ∧
      ((s.gts - since).toNat ≤ 1000 * limit → exec .tokwWatchdog s = .next s))

/-- The transitions of a command (R94, R95, R184, R186, R291). ENGINE_START starts one whose earlier operations are performed;
ENGINE_UNIT performs a read unit, whose bytes are then held, or a whole 16-byte write unit, whose bytes then stand at its
destination; ENGINE_TOKEN_COMPLETE completes the token, with state 5 when a unit was poisoned and else 1; a handler's answer
releases a paused command or completes it with state 2, the cause and the address; ENGINE_INTERNAL_ERROR ends the commands of
the unit's context, and no strand changes its status; PUB_FLIP flips the surface's side bit and completes the token. (The units
are those of a command that is no collective and moves no pages; the write unit is of a surface that is not compressed. An entry
of an absent-fault queue is emptied once its page is not moving, R295. Which reads a flip waits for is the model's, log entry
96.) -/
def Obligations.EngineTransitions : Prop :=
  (∀ (s : State) (t : Word) (c : Cmd), s.cmd t = some c → c.kind < 5 → c.isTier = false → c.started = false →
    (s.startReady c = false → exec (.engineStart t) s = .next s) ∧
    (s.startReady c = true → ∃ r e, exec (.engineStart t) s = .next r ∧ e ∈ r.cmds ∧
      e = { c with started := true, destSides := c.writes.map (fun f => (f.n, s.sideNow f)) } ∧ r.mem = s.mem ∧
      r.statuses = s.statuses)) ∧
  (∀ (s : State) (t : Word) (c : Cmd) (n : Nat), s.cmd t = some c → c.kind < 5 → c.isTier = false → c.started = true →
    s.cmdHeld c = false → c.paused = none →
    (∀ bs u d, c.hasRead n = true → c.wasRead n = false → s.unitRead c n false = .ok bs u d →
      exec (.engineUnit t n false false) s =
        .next (u.putCmd { d with
          held := (if d.kind = 3 ∧ n < d.count then d.held.filter (fun h => h.1 != d.count + n) else d.held) ++ [(n, bs)]
          poisoned := d.poisoned || bs.any (·.2) })) ∧
    (∀ bs fl l pa pte f u d, s.Inv → c.kind ≠ 4 → c.toQueue = none → (c.kind = 0 → c.flags.getLsbD 0 = false) → n < c.streamLen →
      c.unitOf n = (n, 16, true) → c.written.contains n = false → s.rowsBefore c n 16 = true → s.unitBytes c n 16 = some (bs, fl) →
      bs.length = 16 → (s.putCmd { c with fpflags := c.fpflags ||| fl }).engPlace { c with fpflags := c.fpflags ||| fl }
        (c.destVa n) 16 .store false = .ok l pte f u d → d.token = t → (∀ g, f = some g → g.compressed = false) → l = .mem pa → pa % 16 = 0 → s.fct = 0 →
      (s.putCmd { c with fpflags := c.fpflags ||| fl }).mayStore { c with fpflags := c.fpflags ||| fl } l bs = true →
      ∃ r e, exec (.engineUnit t n true false) s = .next r ∧ e ∈ r.cmds ∧ e.token = t ∧ n ∈ e.written ∧
        (∀ j, j < 16 → r.byte (pa + j) = (bs.getD j (0, false)).1) ∧
        (∀ a, (∀ j, j < 16 → a ≠ s.normPa (pa + j)) → (∀ q j, pte = some q → j < 8 → a ≠ s.normPa q + j) →
          cellGet r.mem a = cellGet u.mem a))) ∧
  (∀ (s : State) (t : Word) (c : Cmd), s.cmd t = some c → c.kind ≠ 5 → t ≠ 0 →
    (c.started = true → s.unitsDone c = true → s.kvWritable c = true → s.absentStill c = true → ∃ r, exec (.engineTokenComplete t) s = .next r ∧ r.cmd t = none ∧
      statusState (r.tokenStatus t).1 = (if c.poisoned = true then 5 else 1)) ∧
    (∀ u ca va, c.paused = some (u, ca, va) → ca < 256 → s.absentEntry c = none →
      (∃ r e, exec (.engineFaultResolution t true) s = .next r ∧ e ∈ r.cmds ∧ e = { c with paused := none } ∧ r.mem = s.mem) ∧
      (c.kind ≠ 16 → ∃ r, exec (.engineFaultResolution t false) s = .next r ∧ r.cmd t = none ∧
        statusState (r.tokenStatus t).1 = 2 ∧ bits (r.tokenStatus t).1.toNat 23 16 = ca ∧ (r.tokenStatus t).2 = va)) ∧
    (c.kind = 6 → (s.flipReady c = false → exec (.pubFlip t) s = .next s) ∧
      (∀ f, s.Inv → c.writes = [f] → s.flipReady c = true → c.moved = [] → c.flashed = [] → c.absent = none → f.addr % 64 = 0 →
        ∃ r, exec (.pubFlip t) s = .next r ∧ r.cmd t = none ∧
        statusState (r.tokenStatus t).1 = 1 ∧ r.readPa (f.addr + 34) 1 = (if s.readPa (f.addr + 34) 1 % 2 = 1 then 0 else 1)))) ∧
  (∀ (s : State) (u n : Nat) (ok : Bool) (m : Strand), s.strand u = some m → n < 16 →
    (s.absentFlags m n % 8 ≠ 1 → exec (.absentFaultResolve u n ok) s = .next s) ∧
    (s.absentFlags m n % 8 = 1 → exec (.absentFaultResolve u n ok) s =
      .next (s.writeVa m.ctx (s.absentAt m n + 1) 1 (if ok = true then 3 else 5)).released)) ∧
  (∀ (s : State) (c : Cmd) (m : Strand) (k u ca : Nat) (va : Word), c ∈ s.cmds → s.cmd c.token = some c → c.kind < 5 →
    s.absentEntry c = some (m, k) → c.paused = some (u, ca, va) → c.token ≠ 0 → ca < 256 → s.imageAt m = true → s.absentStill c = true →
    (s.absentFlags m k % 4 = 3 → ∃ e, (s.releaseAbsent c).cmd c.token = some e ∧ e = { c with paused := none, absent := none }) ∧
    (s.absentFlags m k % 8 = 5 → (s.releaseAbsent c).cmd c.token = none ∧
      statusState ((s.releaseAbsent c).tokenStatus c.token).1 = 2 ∧ ((s.releaseAbsent c).tokenStatus c.token).2 = va)) ∧
  (∀ (s : State) (t : Word), ∃ r, exec (.engineInternalError t) s = .next r ∧ r.me.status = s.me.status ∧
    r.peers.map (·.status) = s.peers.map (·.status) ∧
    ∀ c ∈ s.cmds, c.open = true → c.ctx = tokenCtx t → tokenSrc c.token = tokenSrc t → c.kind ≠ 16 → c.absent = none →
      r.cmd c.token = none)

/-- The walks and the moves of pages (R295-R298, R302). PAGE_WALK sets the accessed bit of a valid leaf and caches it for the core
and its die, and caches nothing else; WALK_RETRY lets the threads that wait for a walk go on; PAGE_MOVE first sets the moving
bit of the page's leaf, then waits while an access through the old translation is unperformed, or a page of a replica moves, and
then moves it: the bytes of the old frame stand at the new one, the leaf holds the new frame with MV clear and every other bit,
A and D among them, as it was, and no TLB keeps the translation. (The value of a move is stated where no free list takes the old
frame, no surface record and no counter record takes part, and the new frame is not flash.) The copy of a frame leaves every
byte outside the new one. -/
def Obligations.PageTransitions : Prop :=
  (∀ (s : State) (ctx die core : Nat) (va : Word), s.Inv →
    (∀ e q k, s.walk ctx va = .leaf e q k → e.getLsbD 6 = true → ∃ t, exec (.pageWalk ctx die core va) s = .next t ∧
      t = { s with tlb := t.tlb } ∧ ⟨die, some core, ctx, va.toNat / k * k, k, e ||| 64, q⟩ ∈ t.tlb ∧
      ⟨die, none, ctx, va.toNat / k * k, k, e ||| 64, q⟩ ∈ t.tlb) ∧
    (∀ e q k, s.walk ctx va = .leaf e q k → e.getLsbD 6 = false → q % 8 = 0 → ∃ t, exec (.pageWalk ctx die core va) s = .next t ∧
      t.me = s.me ∧ t.readPa q 8 = Nat.lor (s.readPa q 8) 64 ∧ ⟨die, some core, ctx, va.toNat / k * k, k, e ||| 64, q⟩ ∈ t.tlb) ∧
    ((∃ e q k, s.walk ctx va = .moving e q k) ∨ s.walk ctx va = .invalid → exec (.pageWalk ctx die core va) s = .next s)) ∧
  (∀ (s : State), ∃ t, exec .walkRetry s = .next t ∧ t = { s with me := { s.me with a := t.me.a, x := t.me.x } } ∧
    t.me.a = (if s.me.a.wait = .walk then { s.me.a with wait := .none } else s.me.a) ∧
    t.me.x = (if s.me.x.wait = .walk then { s.me.x with wait := .none } else s.me.x)) ∧
  (∀ (s : State) (t : Word) (c : Cmd) (va : Word) (l : List Word), s.Inv → s.cmd t = some c → c.started = true →
    (c.kind = 9 ∨ c.isTier = true) → c.paused = none → c.table = va :: l →
    (∀ e q k, c.moving = none → s.walk c.ctx va = .leaf e q k → (c.kind = 9 ∨ s.tierOf (leafPa e k va) ≠ c.target) → q % 8 = 0 →
      ∃ r, exec (.pageMove t) s = .next r ∧ r.readPa q 8 = Nat.lor (s.readPa q 8) 256 ∧
        { c with moving := some (q, e, k), written := [0] } ∈ r.cmds) ∧
    (∀ q e k, c.moving = some (q, e, k) →
      (s.usesRange c.ctx (va.toNat / k * k) k = true → exec (.pageMove t) s = .next s) ∧
      (s.replicasStill c va k = false → exec (.pageMove t) s = .next s) ∧
      (∀ new u, s.usesRange c.ctx (va.toNat / k * k) k = false → s.replicasStill c va k = true →
        s.targetFrame c va k = some (new, u) →
        let old := leafPa (BitVec.ofNat 64 (u.readPa q 8)) k va / k * k
        ∃ r e, exec (.pageMove t) s = .next r ∧ e ∈ r.cmds ∧ e.token = t ∧ e.table = l ∧ e.moving = none ∧ r.me = s.me ∧
          (∀ h ∈ r.tlb, tlbiHits va (BitVec.ofNat 64 c.ctx) h.ctx h.va h.size = false) ∧
          (0 < k → s.fct = 0 → s.freeList c.ctx (s.tierOf old) = 0 → c.recs = [] → s.tierOf new ≠ 1 →
            (s.tierOf new = 0 → s.tierOf old = 0) →
            (s.normPa old + k ≤ s.normPa new ∨ s.normPa new + k ≤ s.normPa old) →
            (s.normPa q + 8 ≤ s.normPa new ∨ s.normPa new + k ≤ s.normPa q) →
            (∀ j, j < k → cellGet r.mem (s.normPa new + j) = cellGet u.mem (s.normPa old + j)) ∧
            bits (r.readPa q 8) 51 16 = bits new 51 16 ∧ (r.readPa q 8).testBit 8 = false ∧
            ∀ b, b < 16 ∨ 52 ≤ b → b ≠ 8 → (r.readPa q 8).testBit b = (u.readPa q 8).testBit b)))) ∧
  (∀ (s : State) (old new n : Nat), s.Inv → s.normPa old + n ≤ s.normPa new ∨ s.normPa new + n ≤ s.normPa old →
    (∀ j, j < n → cellGet (s.copyFrame old new n).mem (s.normPa new + j) = cellGet s.mem (s.normPa old + j)) ∧
    (∀ a, (a < s.normPa new ∨ s.normPa new + n ≤ a) → cellGet (s.copyFrame old new n).mem a = cellGet s.mem a))

/-- The SPAN words complete (R220-R229): once every operation of the A-thread is performed, it is the strand's turn at the agent,
and the map header that ap names and its pool header pass their checks, the agent does the word's work in one transition, ad
takes its result and the thread goes on at PC + 4; a record that breaks R219, or an operand that is not allowed, raises its
exception. Whose turn it is among arrivals of one `gts` value is by source number, which the agent keeps as the model chooses
(log entry 109). KV_PAGE_IN_COMPLETE and KVRET_FRAME_FREE complete the token of a transfer that has landed, once no page that
the agent writes is moving (R295). -/
def Obligations.SpanWords : Prop :=
  (∀ (i : Instr) (s : State) (d p n : RegNo) (f : State → Nat → KMap → KPool → Word → Word → Chk (Word × State)),
    spanWord i = some (d, p, n, f) → s.passes i = true → s.thr = .a → s.atHand [p, n, d] (some d) = true →
    let x := s.cur.reg p
    let g := s.kvDie x
    let turn : Prop := s.agentReady = true ∧ s.inTurn (kvKey g) s.me.source = true
    (¬ turn → exec i s = .next (s.waitFor .agent)) ∧
    (turn →
      (∀ ca sub v, s.kvMap g x = .trap ca sub v → exec i s = .next (s.takeTrap (s.trapAt ca sub v))) ∧
      (∀ m u, s.kvMap g x = .ok (m, u) →
        (∀ ca sub v, u.kvPool g m.pool = .trap ca sub v → exec i s = .next (s.takeTrap (s.trapAt ca sub v))) ∧
        (∀ q w, u.kvPool g m.pool = .ok (q, w) →
          (∀ v r, f w g m q (s.cur.reg n) (s.cur.reg d) = .ok (v, r) →
            exec i s = .next (((r.took (kvKey g) s.me.source).put d v).retire)) ∧
          (∀ ca sub v, f w g m q (s.cur.reg n) (s.cur.reg d) = .trap ca sub v →
            exec i s = .next (s.takeTrap (s.trapAt ca sub v))))))) ∧
  (∀ (s : State) (t : Word) (c : Cmd), s.cmd t = some c → t ≠ 0 →
    (s.kvLanded c = false ∨ s.kvWritable c = false →
      exec (.kvPageInComplete t) s = .next s ∧ exec (.kvretFrameFree t) s = .next s) ∧
    (s.kvLanded c = true → s.kvWritable c = true → c.fld 48 1 = 0 → ∃ r, exec (.kvPageInComplete t) s = .next r ∧ r.cmd t = none ∧
      statusState (r.tokenStatus t).1 = (if c.poisoned = true then 5 else 1) ∧
      (s.me.uid ∈ c.watchers → s.me.resident = true → r.me.event = true)) ∧
    (s.kvLanded c = true → s.kvWritable c = true → c.fld 48 1 = 1 → ∃ r, exec (.kvretFrameFree t) s = .next r ∧ r.cmd t = none ∧
      statusState (r.tokenStatus t).1 = (if c.poisoned = true then 5 else 1)))

/-- `rvq` completes in either thread at any `cfd` (R239): ad receives `cf.nstep` in bits 31:0, the action in 34:32, call in 35 and
`cfd` in 38:36, and 0 where `cfd` is 0. The ap, an, scope and flags fields of its word are zero. -/
def Obligations.FrameQueryWord : Prop :=
  ∀ (s : State) (d : RegNo),
    (s.mayWrite d = true → s.atHand [] (some d) = true →
      exec (.rvq d) s = .next (s.endConvoy.wrote1 d (if s.me.cfd = 0 then 0 else BitVec.ofNat 64 ((s.me.cfr 10).toNat % 2 ^ 32 +
        2 ^ 32 * actOf (s.me.cfr 5) + 2 ^ 35 * (if callOf (s.me.cfr 5) = true then 1 else 0) + 2 ^ 36 * s.me.cfd)))) ∧
    encode (.rvq d) = 0x1D#6 ++ d ++ 0#5 ++ 0#5 ++ 2#6 ++ 0#2 ++ 0#3

/-- The CHAIN words of a rendezvous (R232, R236, R240). A thread that executes `rvchain`, `rvret` or `rvabort` where it is legal,
arrives with its operand and waits for its partner, its PC unmoved; anywhere else the word raises illegal-instruction with sub-
code 6. A thread in U mode may execute its `rvchain` or `rvret` again while an action of the frame, which is no call, is
unfinished after a trap (R237, R243; which threads may do so is the model's reading, log entry 82). CHAIN_START,
RENDEZVOUS_MISMATCH and ABORT_UNWIND (R232, R240, R334). Once both threads wait at `rvchain`, the strand placed and both in U
mode, no page of the frames at hand is moving and the A-thread's stores are performed, a block that passes the checks becomes
the top frame, whose first action is SNAP of x₀ into slot 0, and one that fails them, or a frame image or status that cannot be
stored, raises its exception in the A-thread; threads that wait at different functions, or bring different counts to `rvabort`,
raise sub-code 6 in the A-thread, the frame as it was; a matching `rvabort` over the one live frame pops it and both threads
resume at their return addresses, once its block can be written. The sequencer's reads and writes are checked as A-loads and
A-stores, and are performed at once, as log entry 82 chooses. -/
def Obligations.ChainRendezvous : Prop :=
  (∀ (s : State) (p : RegNo),
      let redo : Prop := s.me.cfd ≠ 0 ∧ callOf (s.me.cfr 5) = false ∧ s.cur.priv = .u
      let inside : Prop := s.me.cfd ≠ 0 ∧ callOf (s.me.cfr 5) = true
      let arrives (i : Instr) (u : State) (x : Word) : Prop :=
        exec i s = .next ((u.setCh s.thr (some (encode i, x))).waitFor .chain)
      let six (i : Instr) : Prop := exec i s = .next (s.takeTrap (s.trapAt 0x01 6 ((encode i).zeroExtend 64)))
      (s.atHand [p] none = true → s.me.ch s.thr = none →
        let start : Prop := (s.me.cfd = 0 ∧ (s.me.thread s.thr.other).halted = false) ∨ (inside ∧ s.me.cfd ≤ 3)
        ((start ∨ redo) → arrives (.rvchain p) (s.after1 p) (s.val1 p)) ∧ (¬ (start ∨ redo) → six (.rvchain p)) ∧
        (inside ∧ (s.val1 p).toNat ≤ 4 → arrives (.rvabort p) (s.after1 p) (s.val1 p)) ∧
        (¬ (inside ∧ (s.val1 p).toNat ≤ 4) → six (.rvabort p))) ∧
      (s.atHand [] none = true → s.me.ch s.thr = none →
        ((inside ∨ redo) → arrives .rvret s.endConvoy 0) ∧ (¬ (inside ∨ redo) → six .rvret))) ∧
  ((∀ (s : State) (va vx : Word), s.me.rendezvous 0 = some (va, vx) → (∀ o ∈ s.me.aops, o.stores = false) → s.chainQuiet = true →
      (s.me.cfd = 0 ∨ (callOf (s.me.cfr 5) = true ∧ s.me.cfr 6 = 0)) →
      (va ≠ vx → exec .chainStart s = .next (s.chainTrap 0x01 6 s.me.wordA)) ∧
      (va = vx → va.toNat % 64 ≠ 0 → exec .chainStart s = .next (s.chainTrap 0x03 0 va)) ∧
      (va = vx → va.toNat % 64 = 0 → inWindow va = true → exec .chainStart s = .next (s.chainTrap 0x06 0 va)) ∧
      (∀ c b v, s.chainCheck va vx s.me.wordA = .trap c b v → exec .chainStart s = .next (s.chainTrap c b v)) ∧
      (∀ b u c k v, s.chainCheck va vx s.me.wordA = .ok (b, u) → u.loadFrame va b = .trap c k v →
        exec .chainStart s = .next (s.chainTrap c k v)) ∧
      (∀ b u t, s.chainCheck va vx s.me.wordA = .ok (b, u) → u.loadFrame va b = .ok t → exec .chainStart s = .next t ∧ t.me.cfd = u.me.cfd + 1 ∧
        t.me.cfr 0 = u.me.a.pc + 4 ∧ t.me.cfr 15 = u.me.x.pc + 4 ∧ t.me.cfr 1 = va ∧ (t.me.cfr 2).toNat = field b 56 8 ∧
        (t.me.cfr 3).toNat = field b 64 8 ∧ (t.me.cfr 4).toNat = field b 72 8 ∧ actOf (t.me.cfr 5) = 1 ∧
        callOf (t.me.cfr 5) = false ∧ slotOf (t.me.cfr 5) = 0 ∧ idxOf (t.me.cfr 5) = 0 ∧ t.me.segA = 0 ∧
        t.me.segB = field b 32 4 ∧ t.me.segC = field b 36 1 % 32 ∧ t.me.nstack = 0 ∧ t.me.cidx = 0 ∧
        (∀ j, 10 ≤ j → j ≤ 13 → t.me.cfr j = 0) ∧ t.me.cfr 14 = (if u.me.cfd = 0 then 0 else u.me.cfr 1))) ∧
    (∀ (s : State) (wa wx : IWord) (x y : Word), s.me.chA = some (wa, x) → s.me.chX = some (wx, y) →
      (s.me.status = .placed → s.me.a.priv = .u → s.me.x.priv = .u → (wFn6 wa ≠ wFn6 wx ∨ (wFn6 wa = 3 ∧ x ≠ y)) → exec .rendezvousMismatch s = .next (s.chainTrap 0x01 6 (wa.zeroExtend 64)) ∧
        (s.chainTrap 0x01 6 (wa.zeroExtend 64)).me.cfd = s.me.cfd ∧ (s.chainTrap 0x01 6 (wa.zeroExtend 64)).me.cf = s.me.cf ∧
        (s.chainTrap 0x01 6 (wa.zeroExtend 64)).me.chX = s.me.chX) ∧
      ((s.me.status ≠ .placed ∨ s.me.a.priv = .s ∨ (wFn6 wa = wFn6 wx ∧ (wFn6 wa = 3 → x = y))) → exec .rendezvousMismatch s = .next s)) ∧
    (∀ (s : State) (x : Word), s.me.rendezvous 3 = some (x, x) → s.me.cfd = 1 → x.toNat ≤ 4 →
      ((statusState (s.tokenStatus (s.me.cfr 6)).1 = 0 ∨ s.chainQuiet = false) → exec .abortUnwind s = .next s) ∧
      (statusState (s.tokenStatus (s.me.cfr 6)).1 ≠ 0 → s.chainQuiet = true → ∀ c b v, s.popFrame 2 = .trap c b v →
        exec .abortUnwind s = .next (s.chainTrap c b v)) ∧
      (statusState (s.tokenStatus (s.me.cfr 6)).1 ≠ 0 → s.chainQuiet = true → (s.popFrame 2).holds = true →
        ∃ t, exec .abortUnwind s = .next t ∧ t.me.cfd = 0 ∧
        t.me.a.pc = s.me.cfr 0 ∧ t.me.x.pc = s.me.cfr 15 ∧ t.me.a.regs = s.me.a.regs ∧ t.me.x.regs = s.me.x.regs ∧
        t.me.chA = none ∧ t.me.chX = none)))

/-- CALL_COMPLETE and CASK_COPY_COMPLETE (R235-R237, R243), while both threads wait and no page of the frames at hand is moving.
After both `rvret` of an ADVANCE, cur and next change places and the index and `cf.nstep` go up by one, and the next action is
the plan's: a further ADVANCE, the ADJOINT of the next step, or a SNAP into the lowest free slot; after an ADJOINT, `cf.nadj`
goes up, and a segment that goes on from another state than its first RESTOREs that from the slot `sa` of R235, and the last
segment's end resumes both threads at their return addresses. A copy that completes adds to its counter, a RESTORE sets the
index, the first SNAP leaves slot 0 filled and the whole chain as the segment, and every other SNAP splits the segment; one that
fails raises the recorded cause, or 0x0F for 0x13. A block or a stack entry that cannot be stored to raises its exception in the
A-thread (log entry 82). The plan's numbers (R235): `binom` is the binomial coefficient, and the steps to the next snapshot of a
segment of m steps with c slots are max(1, m − C(c − 1 + k, c − 1)) for the least k of at least 1 with C(c + k, c) at least m. -/
def Obligations.ChainActions : Prop :=
  ((∀ (s : State) (z : Word × Word), s.me.rendezvous 1 = some z →
      ((s.fenceQuiet = false ∨ s.chainQuiet = false) → exec .callComplete s = .next s) ∧
      (s.fenceQuiet = true → s.chainQuiet = true → s.me.cfr 6 = 0 → callOf (s.me.cfr 5) = true → actOf (s.me.cfr 5) = 0 → s.me.cidx + 1 < 2 ^ 32 →
        ∃ t, exec .callComplete s = .next t ∧ t.me.cfr 2 = s.me.cfr 3 ∧ t.me.cfr 3 = s.me.cfr 2 ∧ t.me.cidx = s.me.cidx + 1 ∧
          t.me.cfr 10 = s.me.cfr 10 + 1 ∧ t.me.cfr 13 = s.me.cfr 13 ∧ t.me.a.regs = s.me.a.regs ∧ t.me.x.regs = s.me.x.regs ∧
          let leaf : Prop := s.me.segB - s.me.segA = 1 ∨ s.me.segC = 1
          (leaf → s.me.adjIdx < 2 ^ 32 → (s.me.cidx + 1 < s.me.adjIdx →
              actOf (t.me.cfr 5) = 0 ∧ callOf (t.me.cfr 5) = true ∧ idxOf (t.me.cfr 5) = s.me.cidx + 1 ∧
              t.me.a.pc = BitVec.ofNat 64 (s.blkFld 0 8) ∧ t.me.x.pc = BitVec.ofNat 64 (s.blkFld 8 8)) ∧
            (s.me.adjIdx ≤ s.me.cidx + 1 → actOf (t.me.cfr 5) = 3 ∧ callOf (t.me.cfr 5) = true ∧
              idxOf (t.me.cfr 5) = s.me.adjIdx ∧
              t.me.a.pc = BitVec.ofNat 64 (s.blkFld 16 8) ∧ t.me.x.pc = BitVec.ofNat 64 (s.blkFld 24 8))) ∧
          (¬ leaf → (s.me.cidx + 1 < s.me.segA + advanceBy s.me.segC (s.me.segB - s.me.segA) →
              actOf (t.me.cfr 5) = 0 ∧ callOf (t.me.cfr 5) = true ∧ idxOf (t.me.cfr 5) = s.me.cidx + 1) ∧
            (s.me.segA + advanceBy s.me.segC (s.me.segB - s.me.segA) ≤ s.me.cidx + 1 →
              actOf (t.me.cfr 5) = 1 ∧ callOf (t.me.cfr 5) = false ∧ idxOf (t.me.cfr 5) = s.me.cidx + 1 ∧
              (∀ j, j < 16 → s.me.occ.testBit j = false → (∀ k, k < j → s.me.occ.testBit k = true) → slotOf (t.me.cfr 5) = j)))) ∧
      (s.fenceQuiet = true → s.chainQuiet = true → s.me.cfr 6 = 0 → callOf (s.me.cfr 5) = true → actOf (s.me.cfr 5) = 3 →
        (s.me.segA < s.me.adjIdx → s.me.sa < 16 → s.me.cidx ≠ s.me.segA → ∃ t, exec .callComplete s = .next t ∧
          t.me.cfr 13 = s.me.cfr 13 + 1 ∧ t.me.cfr 2 = s.me.cfr 2 ∧ t.me.cfr 10 = s.me.cfr 10 ∧ t.me.cidx = s.me.cidx ∧
          actOf (t.me.cfr 5) = 2 ∧ callOf (t.me.cfr 5) = false ∧ idxOf (t.me.cfr 5) = s.me.segA ∧
          slotOf (t.me.cfr 5) = s.me.sa ∧ t.me.adjIdx + 1 = s.me.adjIdx ∧ t.me.sa = s.me.sa) ∧
        (s.me.adjIdx ≤ s.me.segA → s.me.nstack = 0 → s.me.cfd = 1 →
          let z := (s.setCf 5 (actWord 3 false (slotOf (s.me.cfr 5)) (idxOf (s.me.cfr 5)))).bumpCf 13
          (∀ c b v, z.popFrame 1 = .trap c b v →
            exec .callComplete s = .next ((z.setCf 5 (actWord 4 false 0 0)).chainTrap c b v)) ∧
          ((z.popFrame 1).holds = true → ∃ t, exec .callComplete s = .next t ∧
          t.me.cfd = 0 ∧ t.me.a.pc = s.me.cfr 0 ∧ t.me.x.pc = s.me.cfr 15 ∧ t.me.chA = none ∧ t.me.chX = none)))) ∧
    (∀ (s : State), s.me.cfr 6 ≠ 0 → s.me.bothWait = true → s.fenceQuiet = true → s.chainQuiet = true →
      let st := s.tokenStatus (s.me.cfr 6)
      (statusState st.1 = 0 → exec .caskCopyComplete s = .next s) ∧
      (statusState st.1 = 2 → exec .caskCopyComplete s = .next (if bits st.1.toNat 23 16 = 0x13
        then (s.setCf 6 0).chainTrap 0x0F 0 (s.slotAt (slotOf (s.me.cfr 5)))
        else (s.setCf 6 0).chainTrap (bits st.1.toNat 23 16) 0 st.2)) ∧
      ((statusState st.1 = 1 ∨ statusState st.1 = 5) → actOf (s.me.cfr 5) = 2 → ∃ t, exec .caskCopyComplete s = .next t ∧
        t.me.cfr 12 = s.me.cfr 12 + 1 ∧ t.me.cfr 11 = s.me.cfr 11 ∧ t.me.cidx = idxOf (s.me.cfr 5) ∧ t.me.cfr 7 = s.me.cfr 7) ∧
      ((statusState st.1 = 1 ∨ statusState st.1 = 5) → actOf (s.me.cfr 5) = 1 → s.me.cfr 11 = 0 →
        ∃ t, exec .caskCopyComplete s = .next t ∧ t.me.cfr 11 = 1 ∧ t.me.cidx = s.me.cidx ∧ t.me.segA = s.me.segA ∧
        t.me.segB = s.me.segB ∧ t.me.segC = s.me.segC ∧ t.me.nstack = s.me.nstack ∧ t.me.occ = 1 ∧ t.me.sa = 0 ∧
        t.me.adjIdx = s.me.segB - 1) ∧
      ((statusState st.1 = 1 ∨ statusState st.1 = 5) → actOf (s.me.cfr 5) = 1 → s.me.cfr 11 ≠ 0 → 1 ≤ s.me.segC → s.me.nstack < 15 →
        s.me.occ.testBit (slotOf (s.me.cfr 5)) = false →
        let z := (s.setCf 6 0).bumpCf 11
        (∀ c b v, z.afterSnap (slotOf (s.me.cfr 5)) = .trap c b v → exec .caskCopyComplete s = .next ((s.setCf 6 0).chainTrap c b v)) ∧
        ((z.afterSnap (slotOf (s.me.cfr 5))).holds = true → ∃ t, exec .caskCopyComplete s = .next t ∧
        t.me.cfr 11 = s.me.cfr 11 + 1 ∧ t.me.cfr 12 = s.me.cfr 12 ∧ t.me.cidx = s.me.cidx ∧ t.me.segA = s.me.cidx ∧
        t.me.segB = s.me.segB ∧ t.me.segC + 1 = s.me.segC ∧ t.me.nstack = s.me.nstack + 1 ∧
        t.me.occ = s.me.occ + 2 ^ slotOf (s.me.cfr 5) ∧ t.me.sa = slotOf (s.me.cfr 5) ∧ t.me.adjIdx = s.me.segB - 1)))) ∧
  ((∀ c k, binom c k = Nat.choose (c + k) c) ∧
    ∀ c m, 2 ≤ c → c ≤ 16 → 2 ≤ m → m < 2 ^ 31 → ∃ k, 1 ≤ k ∧ m ≤ Nat.choose (c + k) c ∧
      (∀ j, 1 ≤ j → j < k → Nat.choose (c + j) c < m) ∧ advanceBy c m = max 1 (m - Nat.choose (c - 1 + k) (c - 1)))

/-- The dispatcher's transitions (R44, R258, R260, R261, R270). DISPATCHER_WAKE wakes a queue. LAUNCH_RECORD takes the record that
follows the head: it writes the signal and the reason of R260 into the record and the head, one higher, into the descriptor, and
an accepted record without waits becomes a launch with its unborn strands; a tail that has moved backward since it was last
read, or that is further ahead than the capacity, stops the queue; a queue whose head is its tail sleeps. LAUNCH_ELIGIBLE
expands a launch whose waited tokens are complete, and leaves one with a pending token; RERUN raises the generation of the
launch. LAUNCH_TOKEN_COMPLETE and LAUNCH_RECORD's expansion, by what they leave (R35, R262): a launch's token completes, with
state 1, or 2 when a strand was lost, once every strand of it has retired or was discarded with its operations, events and
arrivals performed and its commands complete, and not before; the strand that expansion makes for the indices e and j has core j
mod 16, slot j div 16, the entries and sizes of its record, D levels set from e and C levels from j, and registers at zero. -/
def Obligations.LaunchTransitions : Prop :=
  ((∀ (s : State) (q : Nat), exec (.dispatcherWake q) s =
      .next { s with queues := s.queues.map (fun k => if k.num = q then { k with awake := true } else k) }) ∧
    (∀ (s : State) (q : Nat) (k : LaunchQueue), s.launchQueue q = some k →
      ((k.awake = false ∨ k.stopped = true ∨ s.firmware.loaded = false) → exec (.launchRecord q) s = .next s) ∧
      (k.awake = true → k.stopped = false → s.firmware.loaded = true →
        let tail := s.queueFld k 0 8
        let cap := s.queueFld k 72 4
        let ahead := (tail + 2 ^ 64 - k.head.toNat) % 2 ^ 64
        let bad : Prop := cap < ahead ∨ ahead < (k.tail.toNat + 2 ^ 64 - k.head.toNat) % 2 ^ 64
        let s0 := s.modQueue q (fun e => { e with tail := BitVec.ofNat 64 tail })
        (bad → exec (.launchRecord q) s = .next ((s.modQueue q (fun e => { e with stopped := true })).report (.queueStopped q))) ∧
        (¬ bad → tail = k.head.toNat → exec (.launchRecord q) s = .next (s.modQueue q (fun e => { e with awake := false }))) ∧
        (¬ bad → tail ≠ k.head.toNat →
          let pa := s.queueFld k 64 8 + 128 * (k.head.toNat % cap)
          let r := s.readPa pa 128
          let ctx := s.queueFld k 76 2
          recRerun r = false →
          let k2 := s0.newToken ctx 2
          (s.rejectCode ctx r ≠ 0 → exec (.launchRecord q) s = .next ((k2.2.completeToken k2.1 3 0 0 0).ackRecord k pa
            (if s.rejectCode ctx r ≤ 4 then k2.1 else 0) (s.rejectCode ctx r))) ∧
          (s.rejectCode ctx r = 0 → (∀ w, w < 4 → s.waitEntry ctx r w = some []) → s.launch k2.1 = none →
            ∃ t l, exec (.launchRecord q) s = .next t ∧ l ∈ t.launches ∧ l.token = k2.1 ∧ l.ctx = ctx ∧
              l.queue = q ∧ l.record.toNat = r ∧ l.expanded = true ∧ l.eligible = some s.gts ∧
              l.uids = List.range' s.nextUid (recProd r (recLevels r 3) * recProd r (recLevels r 2)) ∧
              t.me = s.me ∧ t.mem = (k2.2.ackRecord k pa k2.1 0).mem ∧ (∃ new, t.peers = s.peers ++ new ∧ new.map (·.uid) = l.uids ∧
                ∀ m ∈ new, m.status = .unborn ∧ m.launch = l.token ∧ m.core = m.jidx % 16 ∧ m.slot = m.jidx / 16) ∧
              (∃ e ∈ t.queues, e.num = q ∧ e.head = k.head + 1))))) ∧
    (∀ (s : State) (k : LaunchQueue) (pa n : Nat) (g : Word), s.Inv → pa % 128 = 0 → k.desc % 128 = 0 → n < 256 →
      (s.normPa (pa + 104) + 9 ≤ s.normPa (k.desc + 80) ∨ s.normPa (k.desc + 80) + 8 ≤ s.normPa (pa + 104)) →
      let t := s.ackRecord k pa g n
      t.readPa (pa + 104) 8 = g.toNat ∧ t.readPa (pa + 112) 1 = n ∧ t.readPa (k.desc + 80) 8 = (k.head.toNat + 1) % 2 ^ 64 ∧
      (∀ e ∈ s.queues, e.num = k.num → ∃ f ∈ t.queues, f.num = k.num ∧ f.head = e.head + 1)) ∧
    (∀ (s : State) (t : Word) (l : Launch), s.launch t = some l → l.expanded = false →
      let sts := l.waits.map (fun w => statusState (s.tokenStatus w).1)
      (0 ∈ sts → exec (.launchEligible t) s = .next s) ∧
      (0 ∉ sts → (∀ x ∈ sts, x ≠ 2 ∧ x ≠ 3 ∧ x ≠ 4) → ∃ u new, exec (.launchEligible t) s = .next u ∧ u.peers = s.peers ++ new ∧
        new.length = recProd l.record.toNat (recLevels l.record.toNat 3) * recProd l.record.toNat (recLevels l.record.toNat 2) ∧
        (∀ m ∈ new, m.status = .unborn ∧ m.launch = t ∧ m.ctx = l.ctx) ∧ u.me = s.me ∧ u.mem = s.mem)) ∧
    (∀ (s : State) (k : LaunchQueue) (pa r : Nat) (t : Word) (l : Launch), s.queues = [k] → s.nextRecord k = some (pa, r) →
      s.tailBad k = false → recRerun r = true → recEntry r 72 = t → s.rejectCode (s.queueFld k 76 2) r = 0 → s.launch t = some l →
      ∃ u, exec (.rerun t) s = .next u ∧ u.genOf t = s.genOf t + 1 ∧ (∀ e ∈ u.queues, e.head = k.head + 1))) ∧
  ((∀ (s : State) (t : Word) (l : Launch), s.launch t = some l → t ≠ 0 →
      let mine (m : Strand) : Prop := m ∈ s.me :: s.peers ∧ m.status ≠ .void ∧ m.uid ∈ l.uids
      let ended (m : Strand) : Prop := (m.status = .retired ∨ m.status = .discarded) ∧ m.aops = [] ∧ m.vops = [] ∧ m.sevs = [] ∧
        ∀ b ∈ m.bars.toList, b.aPend = none ∧ b.xPend = none
      (l.expanded = true → (∀ m, mine m → ended m) →
        (∀ c ∈ s.cmds, c.open = true → c.uid ∉ l.uids) → ∃ u, exec (.launchTokenComplete t) s = .next u ∧
          statusState (u.tokenStatus t).1 = (if l.lost = true then 2 else 1) ∧ u.mem = s.mem) ∧
      ((l.expanded = false ∨ (∃ m, mine m ∧ ¬ ended m) ∨ (∃ c ∈ s.cmds, c.open = true ∧ c.uid ∈ l.uids)) →
        exec (.launchTokenComplete t) s = .next s)) ∧
    (∀ (r ctx uid die e j : Nat) (token : Word),
      let m := freshStrand r token ctx uid die e j
      m.status = .unborn ∧ m.launch = token ∧ m.ctx = ctx ∧ m.die = die ∧ m.core = j % 16 ∧ m.slot = j / 16 ∧
      m.eidx = e ∧ m.jidx = j ∧ m.a.pc.toNat = field r 0 8 ∧ m.x.pc.toNat = field r 8 8 ∧ m.cls = field r 56 1 ∧
      m.ntiles = field r 43 1 ∧ m.scratch = field r 44 4 ∧ m.lanestore = field r 48 4 ∧ m.budget0 = field r 52 4 ∧
      m.a.priv = .u ∧ m.x.priv = .u ∧ (∀ k, m.a.reg k = 0 ∧ m.x.reg k = 0) ∧ m.tcols = 128 ∧ m.fcsr = 0 ∧ m.cfd = 0 ∧
      (∀ l : Fin 6, m.a.lt[l] = BitVec.ofNat 64 (field r (16 + 4 * l) 4) ∧ m.x.lt[l] = m.a.lt[l] ∧ m.x.lc[l] = m.a.lc[l] ∧
        (recKind r l = 3 → m.a.lc[l] = BitVec.ofNat 64 (recIndex r 3 e l)) ∧
        (recKind r l = 2 → m.a.lc[l] = BitVec.ofNat 64 (recIndex r 2 j l)) ∧
        (recKind r l ≠ 3 → recKind r l ≠ 2 → m.a.lc[l] = 0))))

/-- Time and budgets (R41, R264, R322): BUDGET_TICK and GTS_SLEWING never move `gts` backward, nor past the end of a grace window,
be it open or one that opens on the way; short of those, they reach the next multiple of 1,000 ns, or the value given; a placed
strand whose budget reaches 0 gets a `ydl` of 2,000 ns after that moment, and one that is not placed keeps its budget;
GRACE_WINDOW_END pre-empts the strand at its `ydl` and counts an overrun of its context; AGING, and every advance of `gts`,
raise a launch with unborn strands by one class for each 2 ms, up to 7. (Which events move `gts`, and that none passes an open
grace window, is the model's reading, log entry 31.) -/
def Obligations.TimePasses : Prop :=
  let spent (s : State) (m : Strand) : Nat := (s.gts.toNat / 1000 + m.budget) * 1000 + 2000
  let raised (s t : State) (g : Word) : Prop := t.launches.map (·.token) = s.launches.map (·.token) ∧
    ∀ l ∈ s.launches, ∀ e, l.eligible = some e → (∃ m ∈ s.me :: s.peers, m.launch = l.token ∧ m.status = .unborn) →
      { l with aging := min 7 ((g.toNat - e.toNat) / 2000000) } ∈ t.launches
  (∀ (s : State) (g : Word), (∀ m ∈ s.me :: s.peers, m.status = .placed → m.ydl = 0) →
    ((∀ m ∈ s.me :: s.peers, m.status = .placed → m.budget ≠ 0 → g.toNat ≤ spent s m) → s.gts.toNat ≤ g.toNat →
      ∃ t, exec (.gtsSlewing g) s = .next t ∧ t.gts = g ∧ t.mem = s.mem ∧ raised s t g) ∧
    (g.toNat < s.gts.toNat → ∃ t, exec (.gtsSlewing g) s = .next t ∧ t.gts = s.gts) ∧
    (s.gts.toNat + 1000 < 2 ^ 64 → ∃ t, exec .budgetTick s = .next t ∧ t.gts.toNat = (s.gts.toNat / 1000 + 1) * 1000 ∧
      t.mem = s.mem ∧ raised s t t.gts ∧
      (s.me.status ≠ .placed → t.me = s.me) ∧
      (s.me.status = .placed → 1 < s.me.budget → t.me = { s.me with budget := s.me.budget - 1 }) ∧
      (s.me.status = .placed → s.me.budget = 1 → t.me = { s.me with budget := 0, ydl := t.gts + 2000 }))) ∧
  (∀ (s : State) (g : Word), ∃ t, exec (.gtsSlewing g) s = .next t ∧ s.gts.toNat ≤ t.gts.toNat ∧
    (∀ m ∈ s.me :: s.peers, m.status = .placed → m.ydl ≠ 0 → t.gts.toNat ≤ max m.ydl.toNat s.gts.toNat) ∧
    (∀ m ∈ s.me :: s.peers, m.status = .placed → m.ydl = 0 → m.budget ≠ 0 → t.gts.toNat ≤ spent s m)) ∧
  (∀ (s : State), s.me.status = .placed → s.me.budget = 0 → s.me.aops = [] → s.me.vops = [] → s.me.append = none →
    s.me.ending = none → (∀ c ∈ s.cmds, c.uid = s.me.uid → c.started = true ∨ c.open = false) →
    s.areaStill s.me = true → s.me.ydl ≠ 0 → s.gts.toNat ≤ s.me.ydl.toNat →
    (∀ m ∈ s.peers, m.status = .placed → (m.ydl ≠ 0 → s.me.ydl.toNat ≤ m.ydl.toNat) ∧
      (m.ydl = 0 → m.budget ≠ 0 → s.me.ydl.toNat ≤ spent s m)) →
    ∃ t, exec .graceWindowEnd s = .next t ∧ t.gts = s.me.ydl ∧ t.me.status = .suspended ∧ t.me.ydl = 0 ∧
      (assoc t.overruns s.me.ctx).getD 0 = min ((assoc s.overruns s.me.ctx).getD 0 + 1) (2 ^ 64 - 1)) ∧
  (∀ (s : State), ∃ t, exec .aging s = .next t ∧ t = { s with launches := t.launches } ∧ raised s t s.gts)

/-- PLACEMENT, PRELOAD and MERGE_ON_RESUME (R39, R65, R263, R267, R285). A free slot takes the first of its candidates that fits: an
unborn one is placed with its budget started, its own trap-record addresses and a reservation of zeros where its record has no
image, and its registers as expansion left them; a suspended one resumes. A taken slot, or one without a candidate that fits,
takes none, and one whose strand's save area or image lies in a page that is moving waits. A preload is made only for a taken
slot and for entries that can be fetched, holds the lines of both (the least that R267 lets it fetch, the model's reading, log
entry 36), and takes a half where one is free (which half is the model's choice, log entry 105); it reads the image only then. -/
def Obligations.PlacementTransitions : Prop :=
  (∀ (s : State) (d : BitVec 2) (c : BitVec 4) (k : BitVec 2),
    let slots := s.candidates d.toNat c.toNat k.toNat
    (s.slotTaken d.toNat c.toNat k.toNat = true → exec (.placement d c k) s = .next s) ∧
    (slots.filter s.roomFor = [] → exec (.placement d c k) s = .next s) ∧
    (∀ m, slots.filter s.roomFor = [m] → s.mayPlace m = false → exec (.placement d c k) s = .next s) ∧
    (∀ m, s.slotTaken d.toNat c.toNat k.toNat = false → slots.filter s.roomFor = [m] → s.mayPlace m = true → m.status = .unborn →
      ((s.me :: s.peers).map (·.uid)).Nodup → s.preloads = [] → (∀ l, s.launch m.launch = some l → field l.record.toNat 60 4 = 0) →
      ∃ t p, exec (.placement d c k) s = .next t ∧ t.strand m.uid = some p ∧ p.status = .placed ∧ p.ctx = m.ctx ∧
        p.budget = m.budget0 ∧ p.ydl = 0 ∧ p.pad = [] ∧ p.a.regs = m.a.regs ∧ p.x.regs = m.x.regs ∧ p.a.pc = m.a.pc ∧
        p.x.pc = m.x.pc ∧ p.a.lc = m.a.lc ∧ p.a.lt = m.a.lt ∧ p.x.trec = p.a.trec + 0x200 ∧ t.thr = s.thr) ∧
    (∀ m, s.slotTaken d.toNat c.toNat k.toNat = false → slots.filter s.roomFor = [m] → s.mayPlace m = true → m.status = .suspended →
      exec (.placement d c k) s = .next (s.returnStrand m))) ∧
  (∀ (s : State) (u : Nat) (m : Strand), s.strand u = some m →
    ((m.status ≠ .suspended ∨ s.slotTaken m.die m.core m.slot = true ∨ s.mayPlace m = false) →
      exec (.mergeOnResume u) s = .next s) ∧
    (m.status = .suspended → s.slotTaken m.die m.core m.slot = false → s.mayPlace m = true →
      (s.candidates m.die m.core m.slot).filter s.roomFor = [m] → (s.focus u .a).me = m →
      ∃ t, exec (.mergeOnResume u) s = .next t ∧ t = s.returnStrand m ∧ t.me.uid = u ∧ t.me.budget = m.budget0 ∧ t.me.ydl = 0)) ∧
  (∀ (s : State) (d : BitVec 2) (c : BitVec 4) (k : BitVec 2) (h : Bool),
    (s.slotTaken d.toNat c.toNat k.toNat = false → exec (.preload d c k h) s = .next s) ∧
    (∀ l pa px, s.slotTaken d.toNat c.toNat k.toNat = true → s.nextLaunch d.toNat c.toNat k.toNat = some l →
      s.codeLine l.ctx (recEntry l.record.toNat 0) = some pa → s.codeLine l.ctx (recEntry l.record.toNat 8) = some px →
      ∃ p t, exec (.preload d c k h) s = .next t ∧ t.me = s.me ∧ t.preloads = p :: s.preloads.filter (fun e =>
          !(e.die == d.toNat && e.core == c.toNat && e.slot == k.toNat)) ∧
        (s.halfFree l d.toNat c.toNat h = false → t = { s with preloads := t.preloads } ∧ p.image = []) ∧
        (s.halfFree l d.toNat c.toNat h = true → (p.image, p.poison) = s.readImageOf l) ∧
        p.die = d.toNat ∧ p.core = c.toNat ∧ p.slot = k.toNat ∧
        p.half = (if s.halfFree l d.toNat c.toNat h = true then some h else none) ∧
        p.launch = l.token ∧ p.lines = [pa, px] ∧ p.stale = false ∧ p.gens = l.waits.map (fun t => (t, s.genOf t))))

/-- A strand leaves its slot and what reaches it while away (R264, R266, R276, R277, R283, R284). PRE_EMPTION suspends a placed or
yielded strand for which a candidate of a higher class waits, or whose grace window is over, which counts an overrun, once
nothing of it is pending, or asks the X-thread's next instruction to stop part way, and otherwise changes nothing; YIELD_RESOLVE
gives a yielded strand its slot back with a new budget where no candidate of its class or above waits, and else suspends it and
fills the slot; an arrival for a suspended strand's reservation, queue or barrier counter goes to its shadow image or diversion
table, with its source number and its poison, in its turn. (How the event names what arrives is log entry 108; that the home
keeps the last arrival, and takes one with a lower number at the same `gts` only later, log entry 109: both are the model's
choice. A strand that is stopping words for a trap or a `yield`, and a drain in which a command of the strand starts, are not
stated here.) -/
def Obligations.StrandsLeave : Prop :=
  (∀ (s : State) (a b c d : Nat),
    let others : Prop := ∃ k ∈ s.me :: s.peers, (k.status = .unborn ∨ k.status = .suspended) ∧ k.die = s.me.die ∧ k.core = s.me.core ∧
      s.me.cls < s.effClass k ∧ (k.slot = s.me.slot ∨ (s.slotTaken k.die k.core k.slot = false ∧ s.roomFor k = false))
    let spent : Prop := s.me.status = .placed ∧ s.me.ydl ≠ 0 ∧ s.me.ydl.toNat ≤ s.gts.toNat
    let quiet : Prop := s.me.aops = [] ∧ s.me.vops = [] ∧ s.me.append = none ∧ s.areaStill s.me = true ∧ s.me.ending = none ∧
      ∀ c ∈ s.cmds, c.uid = s.me.uid → c.started = true ∨ c.open = false
    let may : Prop := ((s.me.status = .placed ∨ s.me.status = .yielded) ∧ others) ∨ spent
    let overruns (t : State) : Prop := (¬ spent → t.overruns = s.overruns) ∧
      (spent → (assoc t.overruns s.me.ctx).getD 0 = min ((assoc s.overruns s.me.ctx).getD 0 + 1) (2 ^ 64 - 1))
    (¬ may → exec (.preEmption a b c d) s = .next s) ∧
    (may → s.me.status = .placed → s.me.ending = none → (a ≠ 0 ∨ b ≠ 0 ∨ c ≠ 0 ∨ d ≠ 0) → ∃ t, exec (.preEmption a b c d) s = .next t ∧ t.thr = .x ∧ t.mem = s.mem ∧
      (∃ y, t.me = { s.me with ydl := y, stop := #v[a, b, c, d] :: s.me.ahead, stopping := false, ahead := [] } ∧
        (spent → y = 0) ∧ (¬ spent → y = s.me.ydl)) ∧ overruns t) ∧
    (may → quiet → ∃ t, exec (.preEmption 0 0 0 0) s = .next t ∧ t.me.status = .suspended ∧ overruns t ∧
      t.me.ydl = 0 ∧ t.me.since = s.gts ∧ t.me.a.regs = s.me.a.regs ∧ t.me.x.regs = s.me.x.regs ∧ t.me.queues = s.me.queues ∧
      t.vu.regs = s.vu.regs ∧ t.me.a.pc = (if s.me.a.wait = .interrupt ∨ s.me.a.wait = .interruptAgain then s.me.a.pc + 4 else s.me.a.pc))) ∧
  (∀ (s : State),
    let first : Prop := ∃ k ∈ s.candidates s.me.die s.me.core s.me.slot, s.me.cls ≤ s.effClass k
    (s.me.status ≠ .yielded → exec .yieldResolve s = .next s) ∧
    (s.me.status = .yielded → ¬ first →
      let m := { s.me with status := .placed, budget := s.me.budget0, ydl := 0, readyAt := s.gts }
      (s.me.x.wait ≠ .stopped → exec .yieldResolve s = .next { s with me := m }) ∧
      (s.me.x.wait = .stopped → exec .yieldResolve s = .next ({ s with me := { m with x := { m.x with wait := .none } } }).resumeHeld)) ∧
    (s.me.status = .yielded → first → s.me.aops = [] → s.me.vops = [] → s.me.append = none → s.areaStill s.me = true →
      s.me.ending = none → (∀ c ∈ s.cmds, c.uid = s.me.uid → c.started = true ∨ c.open = false) →
      s.preempt.me.status = .suspended ∧
      exec .yieldResolve s = .next (s.preempt.fillSlot s.me.die s.me.core s.me.slot))) ∧
  (∀ (s : State) (u i src mo : Nat) (bad : Bool) (v : BitVec 128) (m : Strand), s.strand u = some m → i < 2 ^ 32 → src < 2 ^ 16 →
    mo < 2 ^ 10 →
    let o := i + 2 ^ 32 * src + 2 ^ 48 * (if bad = true then 1 else 0) + 2 ^ 49 * mo
    let rank := sourceRank mo src
    let takes : Prop := m.status = .suspended ∧ s.rankInTurn (shadowKey u) rank = true ∧
      s.vaMoving m.ctx (s.diversionAt m 0) 2048 = false
    (¬ takes → ∀ k, exec (.divertedArrival u k o v) s = .next s) ∧
    (takes → i % 16 = 0 → i + 16 ≤ m.scratch → (bad = false ∨ s.readPending (.pad u i) 16 = false) →
      exec (.divertedArrival u 0 o v) s =
        .next (((s.performWrite (.pad u i) none 16 v.toNat).setPoisonAt (.pad u i) bad).tookRank (shadowKey u) rank)) ∧
    (takes → i < 8 →
      let d := s.diversionAt m (1 + i)
      let n := s.readVa m.ctx (d + 24) 4
      n < s.readVa m.ctx (d + 4) 4 → exec (.divertedArrival u 1 o v) s = .next (((s.writePa (s.shadow m + s.readVa m.ctx (d + 16) 8 +
        32 * n) 32 (v.toNat + 2 ^ 128 * s.gts.toNat + 2 ^ 192 * src + (if bad = true then 2 ^ 208 else 0))).writeVa m.ctx (d + 24) 4
          (n + 1)).tookRank (shadowKey u) rank)) ∧
    (takes → ∀ t, (assoc m.kept (i % 8)).isSome = true → s.nextArrival m.launch (i % 8) = some t →
      exec (.divertedArrival u 2 o v) s = .next ((s.modStrand t.uid (fun _ => t)).divertArrival m.launch (i % 8))) ∧
    (takes → i % 8 = 0 → i + 8 ≤ m.scratch → exec (.divertedArrival u 3 o v) s =
      .next ((s.performWrite (.pad u i) none 8 ((s.readHome (.pad u i) 8 + v.toNat) % 2 ^ 64)).tookRank (shadowKey u) rank)))

/-- The commands of the host (R316, R317, R325), each as its event performs it: create context, destroy context, register and
unregister launch queue, invalidate, map window, load firmware and strand disposition. An argument that R316 does not allow
leaves everything as it is, and so does, without firmware, every command but load firmware (R325). That the ring's record at the
head is performed whenever tail and head differ, with no check of the tail, is the model's reading (log entry 9). CELLARER_WAKE
(R315, R316, R325): the Cellarer performs the command at the head of its ring, and then writes its status and the head; a ring
whose head is its tail, and a command that waits, leave everything as it is. A command code that is none, or a non-zero unused
byte, has status 2; without firmware only load firmware is performed. -/
def Obligations.HostCommands : Prop :=
  ((∀ (s : State) (a b c d e : Nat) (v w : Word), s.firmware.loaded = false →
      ∀ i ∈ [Instr.createContext a, .destroyContext a, .registerLaunchQueue a b, .unregisterLaunchQueue a, .invalidate v w, .mapWindow a b c,
        .strandDisposition a b c d e], exec i s = .next s) ∧
    (∀ (s : State) (pa : Nat), s.firmware.loaded = true →
      let d := s.readPa pa 128
      let n := field d 20 2
      let bad : Prop := pa % 128 ≠ 0 ∨ n = 0 ∨ (s.context n).isSome = true ∨ field d 124 4 ≠ 0
      (bad → exec (.createContext pa) s = .next s) ∧
      (¬ bad → ∃ t, exec (.createContext pa) s = .next t ∧ t.me = s.me ∧ t.peers = s.peers ∧
        t.contexts = s.contexts ++ [{ num := n, descPa := pa, desc := BitVec.ofNat 1024 d, watchdog := none }])) ∧
    (∀ (s : State) (ctx : Nat), s.firmware.loaded = true →
      (s.context ctx = none → exec (.destroyContext ctx) s = .next s) ∧
      (s.context ctx ≠ none → ∃ t, exec (.destroyContext ctx) s = .next t ∧ (∀ c ∈ t.contexts, c.num ≠ ctx) ∧
        (∀ c ∈ t.cmds, c.ctx ≠ ctx) ∧ (∀ e ∈ t.tlb, e.ctx ≠ ctx) ∧ (∀ p ∈ t.preloads, tokenCtx p.launch ≠ ctx) ∧
        (∀ l ∈ t.launches, l.ctx ≠ ctx) ∧ (s.peers = [] → s.me.ctx = ctx → t.me.status = .void))) ∧
    (∀ (s : State) (q pa : Nat), s.firmware.loaded = true →
      let good : Prop := q < 1024 ∧ s.launchQueue q = none ∧ pa % 128 = 0 ∧ (∃ k, k ≤ 16 ∧ s.readPa (pa + 72) 4 = 2 ^ k) ∧
        s.readPa (pa + 64) 8 % 128 = 0 ∧ s.context (s.readPa (pa + 76) 2) ≠ none
      (good → exec (.registerLaunchQueue q pa) s = .next { s with queues := s.queues ++
        [{ num := q, desc := pa, head := BitVec.ofNat 64 (s.readPa (pa + 80) 8),
           tail := BitVec.ofNat 64 (s.readPa (pa + 80) 8), awake := true, stopped := false }] }) ∧
      (¬ good → exec (.registerLaunchQueue q pa) s = .next s) ∧
      exec (.unregisterLaunchQueue q) s = .next { s with queues := s.queues.filter (fun k => k.num != q) }) ∧
    (∀ (s : State) (va w : Word), s.firmware.loaded = true →
      let bad : Prop := 2 ^ 18 ≤ w.toNat ∨ (w.getLsbD 17 = false ∧ s.context (w.toNat % 65536) = none)
      ((bad ∨ s.usesPage va w = true) → exec (.invalidate va w) s = .next s) ∧
      (¬ bad → s.usesPage va w = false → ∃ t, exec (.invalidate va w) s = .next t ∧ t.me = s.me ∧
        ∀ e, e ∈ t.tlb ↔ e ∈ s.tlb ∧ tlbiHits va w e.ctx e.va e.size = false)) ∧
    (∀ (s : State) (o n b : Nat), s.firmware.loaded = true →
      let size := s.regions[0].2.1
      let good : Prop := o % 65536 = 0 ∧ n % 65536 = 0 ∧ b % 65536 = 0 ∧ 0 < n ∧ o + n ≤ size ∧ b + n ≤ size
      let t := { s with platform := { s.platform with windows := (o, n, b) :: s.platform.windows } }
      (good → exec (.mapWindow o n b) s = .next t ∧
        ∀ x, t.windowAt x = if b ≤ x ∧ x < b + n then some (o + (x - b)) else s.windowAt x) ∧
      (¬ good → exec (.mapWindow o n b) s = .next s)) ∧
    (∀ (s : State) (pa n : Nat),
      let sound : Bool := s.imageSound pa n
      (sound = true ↔ s.readPa pa 4 = 0x51444E47 ∧ s.readPa (pa + 448) 64 = 0 ∧ s.readPa (pa + 16736) 160 = 0 ∧
        s.readPa (pa + 8) 8 = n - 16896 ∧
        s.imageBytes (pa + 16) 48 = sha384 (s.imageBytes pa 16 ++ s.imageBytes (pa + 16896) (n - 16896)) ∧
        Config.signaturesVerify (s.imageBytes (pa + 16) 48) (s.imageBytes (pa + 64) 384) (s.imageBytes (pa + 512) 16224) = true) ∧
      ((s.contexts ≠ [] ∨ n < 16896) → exec (.loadFirmware pa n) s = .next s) ∧
      (s.contexts = [] → 16896 ≤ n → sound = true → exec (.loadFirmware pa n) s = .next { s with firmware := { s.firmware with
        loaded := true, lastFailed := false, version := BitVec.ofNat 32 (s.readPa (pa + 4) 4),
        digest := BitVec.ofNat 384 (s.readPa (pa + 16) 48) } }) ∧
      (s.contexts = [] → 16896 ≤ n → sound = false → ∃ t, exec (.loadFirmware pa n) s = .next t ∧ t.firmware.loaded = false ∧
        t.firmware.lastFailed = true ∧ t = { s with firmware := t.firmware })) ∧
    (∀ (s : State) (ctx die core slot d : Nat), s.firmware.loaded = true →
      ((s.context ctx = none ∨ (d ≠ 1 ∧ d ≠ 2) ∨ s.faultedIn ctx die core slot = none) →
        exec (.strandDisposition ctx die core slot d) s = .next s) ∧
      (∀ m, s.context ctx ≠ none → s.faultedIn ctx die core slot = some m → s.strand m.uid = some m →
        (∃ t, exec (.strandDisposition ctx die core slot 1) s = .next t ∧ ∀ l ∈ t.launches, l.token = m.launch → l.lost = true) ∧
        (∀ l, s.launch m.launch = some l → ∃ t p, exec (.strandDisposition ctx die core slot 2) s = .next t ∧
          t.strand m.uid = some p ∧ p.status = .unborn ∧ p.save = m.save ∧ p.a.pc = recEntry l.record.toNat 0 ∧
          p.x.pc = recEntry l.record.toNat 8 ∧ ∀ k, p.a.reg k = 0 ∧ p.x.reg k = 0)))) ∧
  ((∀ (s : State), s.cmdring ≠ 0 →
      let d := s.cmdring.toNat
      let cap := s.readPa (d + 72) 4
      let pa := s.readPa (d + 64) 8 + 64 * (s.cmdHead.toNat % cap)
      (s.readPa d 8 = s.cmdHead.toNat → exec .cellarerWake s = .next s) ∧
      (cap ≠ 0 → s.readPa d 8 ≠ s.cmdHead.toNat →
        (s.command (s.readPa pa 64) = none → exec .cellarerWake s = .next s) ∧
        (∀ st u, s.command (s.readPa pa 64) = some (st, u) → ∃ t, exec .cellarerWake s = .next t ∧
          t.mem = ((u.writePa (pa + 2) 2 st).writePa (d + 80) 8 (u.cmdHead.toNat + 1)).mem ∧ t.cmdHead = u.cmdHead + 1 ∧
          t.me = u.me ∧ t.contexts = u.contexts ∧ t.tlb = u.tlb ∧ t.firmware = u.firmware))) ∧
    (∀ (s : State) (r : Nat),
      let op := field r 0 2
      let a (o n : Nat) : Nat := field r (8 + o) n
      ((op = 0 ∨ 8 < op ∨ commandZeros r op = false) → s.command r = some (2, s)) ∧
      (op ≠ 7 → s.firmware.loaded = false → ∀ st u, s.command r = some (st, u) → u.contexts = s.contexts ∧ u.queues = s.queues ∧
        u.tlb = s.tlb ∧ u.mem = s.mem) ∧
      (commandZeros r op = true → (s.firmware.loaded = true ∨ op = 7) →
        (op = 1 → s.command r = some (s.createContext (a 0 8))) ∧ (op = 2 → s.command r = some (s.destroyContext (a 0 2))) ∧
        (op = 3 → s.command r = some (s.registerQueue (a 0 2) (a 8 8))) ∧
        (op = 4 → s.command r = some (s.unregisterQueue (a 0 2))) ∧
        (op = 5 → s.command r = s.invalidateOp (BitVec.ofNat 64 (a 0 8)) (BitVec.ofNat 64 (a 8 8))) ∧
        (op = 6 → s.command r = some (s.mapWin (a 0 8) (a 8 8) (a 16 8))) ∧
        (op = 7 → s.command r = some (s.loadImage (a 0 8) (a 8 8))) ∧
        (op = 8 → s.command r = some (s.disposition (a 0 2) (a 2 1) (a 3 1) (a 4 1) (a 5 1))))))

/-- The registers and the policy of the module (R264, R290, R311, R314, R318, R321, R326): MODULE_CONTROL_WRITE writes a register of
the control block, and leaves the regions of tiers 0 to 2; FIRMWARE_POLICY_CHANGE sets what its kind names (of a launch, one
whose context has counted an overrun, which is the model's reading, log entry 15); SPDM_REQUEST gives a measurement with its
signature, of the running image or the SHA-384 of the policy, or the certificate chain; PLDM_REQUEST gives a sensor's reading or
the inventory; FABRIC_LINK_CHANGE and HOST_LINK_TRAINING set the state of the links. -/
def Obligations.ModuleControls : Prop :=
  (∀ (s : State) (v : Word),
    exec (.moduleControlWrite 0 8 v) s =
      .next { s with cmdring := v, cmdHead := BitVec.ofNat 64 (s.readPa (v.toNat + 80) 8) } ∧
    exec (.moduleControlWrite 8 8 v) s = .next { s with fct := v } ∧
    exec (.moduleControlWrite 16 4 v) s = .next { s with holdoff := v.setWidth 32 } ∧
    (∀ k, k < 9 → exec (.moduleControlWrite (64 + 8 * k) 8 v) s = .next s) ∧
    (∀ j, 3 ≤ j → j < 16 → ∀ r, s.regions.toList.getD j (0, 0, 0) = r → r.1 < 2 ^ 64 → r.2.1 < 2 ^ 64 → r.2.2 < 2 ^ 64 →
      exec (.moduleControlWrite (64 + 24 * j) 8 v) s =
        .next { s with regions := s.regions.setIfInBounds j (v.toNat, r.2.1, r.2.2) } ∧
      exec (.moduleControlWrite (64 + 24 * j + 8) 8 v) s =
        .next { s with regions := s.regions.setIfInBounds j (r.1, v.toNat, r.2.2) } ∧
      exec (.moduleControlWrite (64 + 24 * j + 16) 8 v) s =
        .next { s with regions := s.regions.setIfInBounds j (r.1, r.2.1, v.toNat) })) ∧
  (∀ (s : State) (a : Word) (v : Nat),
    (s.firmware.loaded = false → ∀ k n, exec (.firmwarePolicyChange k n v) s = .next s) ∧
    (s.firmware.loaded = true →
      (∀ n, v ≤ 2 ^ 32 → exec (.firmwarePolicyChange 0 n v) s = .next { s with contexts := s.contexts.map (fun c =>
        if c.num = n then { c with watchdog := if v = 0 then none else some v } else c) }) ∧
      (∀ n, exec (.firmwarePolicyChange 1 n v) s = .next { s with firmware := { s.firmware with fabricTimeout := v } }) ∧
      (∀ n, exec (.firmwarePolicyChange 4 n v) s = .next { s with firmware := { s.firmware with policy := BitVec.ofNat 384 v } }) ∧
      (∀ n, exec (.firmwarePolicyChange 5 n v) s = .next { s with firmware := { s.firmware with migration := BitVec.ofNat 64 v } }) ∧
      (∀ n, exec (.firmwarePolicyChange 6 n v) s = .next { s with firmware := { s.firmware with replicaRetry := v } }) ∧
      (∀ n c, c < 65536 → n < s.ctxFld c 32 4 → v % 65536 = 0 →
        let at' := BitVec.ofNat 64 (s.ctxFld c 24 8 + 0xB00000 * n + 0xFF8)
        s.vaMoving c at' 8 = false → exec (.firmwarePolicyChange 7 (c + 65536 * n) v) s = .next (s.writeVa c at' 8 v)) ∧
      (s.overran a = true → v < 8 → ∃ t, exec (.firmwarePolicyChange 2 a.toNat v) s = .next t ∧ t.mem = s.mem ∧
        (∀ m ∈ t.me :: t.peers, m.launch = a → m.cls = v) ∧
        (∀ l ∈ t.launches, l.token = a → field l.record.toNat 56 1 = v)) ∧
      (s.overran a = true → 1 ≤ v → v < 2 ^ 20 → ∃ t, exec (.firmwarePolicyChange 3 a.toNat v) s = .next t ∧ t.mem = s.mem ∧
        (∀ m ∈ t.me :: t.peers, m.launch = a → m.budget0 = v) ∧
        (∀ l ∈ t.launches, l.token = a → field l.record.toNat 52 4 = v)) ∧
      (s.overran a = false → exec (.firmwarePolicyChange 2 a.toNat v) s = .next s ∧
        exec (.firmwarePolicyChange 3 a.toNat v) s = .next s))) ∧
  (∀ (s : State),
    (s.firmware.loaded = true → exec (.spdmRequest 1) s = .next (s.report (.spdm 1 s.firmware.digest
      (Config.identitySign ((List.range 48).map (fun i => s.firmware.digest.extractLsb' (8 * i) 8)))))) ∧
    (s.firmware.loaded = false → exec (.spdmRequest 1) s = .next s) ∧
    exec (.spdmRequest 2) s = .next (s.report (.spdm 2 (BitVec.ofNat 384 (packList 1 ((sha384 s.policyBytes).map (·.toNat))))
      (Config.identitySign (sha384 s.policyBytes)))) ∧
    exec (.spdmRequest 0) s = .next (s.report (.certificates Config.identityChain)) ∧
    exec (.pldmRequest 22) s = .next (s.report (.pldm 22 s.platform.clock)) ∧
    (∀ id v, 1 ≤ id → id ≤ 21 → assoc s.platform.sensors id = some v →
      exec (.pldmRequest id) s = .next (s.report (.pldm id v))) ∧
    exec (.pldmRequest 0) s = .next (s.report (.inventory s.platform.partNo s.platform.stepping s.firmware.version)) ∧
    (∀ up, ∃ t, exec (.fabricLinkChange up) s = .next t ∧ t.platform = { s.platform with fabricUp := up } ∧ t.me = s.me ∧
      t.peers = s.peers) ∧
    (∀ w r, exec (.hostLinkTraining w r) s = .next (if w ∈ [16, 8, 4] ∧ r ∈ [128, 64, 32]
      then { s with platform := { s.platform with linkWidth := w, linkSpeed := r } } else s)))

/-- Power, heat, sensors and flash (R211, R329-R332): the clamp closes above 3,000 W and opens below 2,800 W; each 10 ms the clock
falls by 100 MHz, down to 1,250, while a die sensor is past its critical value, rises by 100, up to 2,500, once every sensor is
below its warning value, and else stays (a period is named by whether it is hot, and one that the sensors do not bear out is
none), and a period below 2,500 MHz counts as throttled; a shutdown makes every strand faulted and stops the module; a sensor's
event is raised when it crosses a threshold in either direction (what a crossing is, is the model's reading, log entry 16); an
erase counts, and at 9,500 erases a spare, with a count of its own, replaces the block, which leaves the pool where no spare is
left. -/
def Obligations.PowerAndHeat : Prop :=
  (∀ (s : State) (p : Nat), exec (.powerClamp p) s = .next { s with platform := { s.platform with
    clamped := if 3000 < p then true else if p < 2800 then false else s.platform.clamped } }) ∧
  (∀ (s : State) (hot : Bool),
    let past (z lo hi : Nat) : Prop := ∃ id v, lo ≤ id ∧ id ≤ hi ∧ assoc s.platform.sensors id = some v ∧ z ≤ sensorZone id v
    (¬ (hot = true ↔ past 2 5 9) → exec (.thermalThrottle hot) s = .next s) ∧
    ((hot = true ↔ past 2 5 9) → ∃ t, exec (.thermalThrottle hot) s = .next t ∧
      t = { s with platform := t.platform, counters := t.counters } ∧
      t.platform = { s.platform with hot := hot, clock := t.platform.clock } ∧
      (past 2 5 9 → t.platform.clock = max 1250 (s.platform.clock - 100)) ∧
      (¬ past 2 5 9 → past 1 1 21 → t.platform.clock = s.platform.clock) ∧
      (¬ past 1 1 21 → t.platform.clock = min 2500 (s.platform.clock + 100)) ∧
      t.counters.toList.getD 6 0 = (if s.platform.clock < 2500 then min (s.counters.toList.getD 6 0 + 10) (2 ^ 64 - 1)
        else s.counters.toList.getD 6 0))) ∧
  (∀ (s : State) (die : Nat), die ≤ 4 → ((s.me :: s.peers).map (·.uid)).Nodup →
    ∃ t, exec (.thermalShutdown die) s = .next t ∧ t.stopped = true ∧ t.mem = s.mem ∧
      (s.me.status ≠ .void → s.me.status ≠ .retired → s.me.status ≠ .discarded →
        t.me = { s.me with status := .faulted, ydl := 0 }) ∧
      (∀ m ∈ s.peers, m.status ≠ .void → m.status ≠ .retired → m.status ≠ .discarded →
        { m with status := .faulted, ydl := 0 } ∈ t.peers)) ∧
  (∀ (s : State) (id v : Nat), 1 ≤ id → id ≤ 21 →
    let old := ((assoc s.platform.sensors id).map (sensorZone id)).getD 0
    let u := { s with platform := { s.platform with sensors := assocSet s.platform.sensors id v } }
    exec (.sensorEvent id v) s = .next (if old = sensorZone id v then u else u.report (.pldmEvent id))) ∧
  (∀ v, sensorZone 1 v = (if 3000 < v then 2 else if 2800 < v then 1 else 0) ∧
    sensorZone 2 v = (if v < 48 then 4 else if v < 50 then 3 else if 60 < v then 2 else if 58 < v then 1 else 0) ∧
    sensorZone 3 v = (if 45 < v then 2 else if 40 < v then 1 else 0) ∧
    sensorZone 4 v = (if v < 30 then 2 else if v < 40 then 1 else 0) ∧
    (∀ id, 5 ≤ id → id ≤ 8 → sensorZone id v = (if 110 < v then 2 else if 100 < v then 1 else 0)) ∧
    sensorZone 9 v = (if 105 < v then 2 else if 95 < v then 1 else 0) ∧
    (∀ id, 10 ≤ id → id ≤ 17 → sensorZone id v = (if 100 < v then 2 else if 90 < v then 1 else 0)) ∧
    (∀ id, 18 ≤ id → id ≤ 21 → sensorZone id v = (if 85 < v then 2 else if 75 < v then 1 else 0))) ∧
  (∀ (s : State) (k b : Nat), k < 4 → b < 262144 →
    ((k, b) ∈ s.platform.flashGone → exec (.flashErase k b) s = .next s) ∧
    ((k, b) ∉ s.platform.flashGone → ∃ t, exec (.flashErase k b) s = .next t ∧ t.mem = s.mem ∧ t.me = s.me ∧
      (let n := min (s.eraseCount (k, b) + 1) (2 ^ 32 - 1)
       let left := s.spares.toList.getD k 0
       (n < 9500 → t.eraseCount (k, b) = n ∧ t.spares = s.spares) ∧
       (9500 ≤ n → left ≠ 0 → t.eraseCount (k, b) = 0 ∧ t.spares.toList.getD k 0 = left - 1 ∧
         ∀ j, j ≠ k → t.spares.toList.getD j 0 = s.spares.toList.getD j 0) ∧
       (9500 ≤ n → left = 0 → t.spares = s.spares ∧ t.platform.flashGone = (k, b) :: s.platform.flashGone))))

/-- Accesses from outside and their failures (R38, R99, R291, R311, R320, R321), with the frame counters off: an access of up to 64
bytes of one line, a host's to host memory or through BAR 2 to the HBM that a mapped window shows, or one of another module over
the fabric, is one transition at its home: a write stands in memory there, and a read answers the value that stands there and
its poison; an atomic of another module writes its new value and answers the old one. BAR 0 begins with the capability list, BAR
4 holds the erase counters and the error counters, and a write of BAR 4 does nothing (how the access names the BAR is the
model's, log entry 108). A fabric timeout traps the A-thread at the waiting load with cause 0x09, where it has issued nothing
past it (log entry 96), makes the strand of an undelivered store faulted, and ends a command with state 2 and cause 0x09; a
machine check makes its strand faulted; firmware restarts or discards a faulted strand. -/
def Obligations.OutsideEvents : Prop :=
  (∀ (s : State) (pa n : Nat) (v : BitVec 512), 1 ≤ n → pa % 64 + n ≤ 64 → pa < 2 ^ 52 → s.fct = 0 →
    let bar (k : Nat) : Nat := 2 ^ 52 * k + pa
    let writes (a : Nat) := s.performWrite (.mem a) none n v.toNat
    let reads (a : Nat) := s.report (.readValue a n (s.readHome (.mem a) n) (s.poisonedAt (.mem a) n))
    (s.remote pa = false → s.tierOf pa = 3 →
      exec (.hostAccess true pa n v) s = .next (writes pa) ∧ exec (.hostAccess false pa n v) s = .next (reads pa)) ∧
    ((s.remote pa = true ∨ s.tierOf pa ≠ 3) → ∀ w, exec (.hostAccess w pa n v) s = .next s) ∧
    (∀ o, s.windowAt pa = some o → exec (.hostAccess true (bar 2) n v) s = .next (writes (s.regions[0].1 + o)) ∧
      exec (.hostAccess false (bar 2) n v) s = .next (reads (s.regions[0].1 + o))) ∧
    (s.windowAt pa = none → ∀ w, exec (.hostAccess w (bar 2) n v) s = .next s) ∧
    exec (.hostAccess false (bar 1) n v) s = .next (s.report (.barValue 0 pa n (readLE s.bar0Byte pa n))) ∧
    exec (.hostAccess false (bar 3) n v) s = .next (s.report (.barValue 4 pa n (readLE s.bar4Byte pa n))) ∧
    exec (.hostAccess true (bar 3) n v) s = .next s ∧
    (∀ i, i < 80 → s.bar0Byte i = s.capByte i) ∧
    (∀ k b j, k < 4 → b < 262144 → j < 4 → (s.bar4Byte (2 ^ 20 * k + 4 * b + j)).toNat = s.eraseCount (k, b) / 2 ^ (8 * j) % 256) ∧
    (∀ k j, k < 9 → j < 8 → (s.bar4Byte (0x400000 + 8 * k + j)).toNat = s.counters.toList.getD k 0 / 2 ^ (8 * j) % 256) ∧
    (∀ m, m ≠ s.platform.moduleNo → pa / 2 ^ 51 % 2 = 1 → s.platform.fabricUp = true →
      exec (.remoteAccess 1 m pa n v) s = .next (writes pa) ∧ exec (.remoteAccess 0 m pa n v) s = .next (reads pa) ∧
      (∀ fn : BitVec 4, fn.toNat < 10 → (n = 4 ∨ n = 8) → pa % n = 0 → s.poisonedAt (.mem pa) n = false →
        let old := s.readHome (.mem pa) n
        let new := amoTable fn.toNat (BitVec.ofNat (8 * n) old) (BitVec.ofNat (8 * n) v.toNat) (BitVec.ofNat (8 * n) (v.toNat / 2 ^ 64))
        ∃ t, exec (.remoteAccess (fn + 2) m pa n v) s = .next t ∧ .readValue pa n old false ∈ t.reports ∧
          (new.toNat ≠ old → t.mem = (s.performWrite (.mem pa) none n new.toNat).mem))) ∧
    (∀ m w, (m = s.platform.moduleNo ∨ pa / 2 ^ 51 % 2 = 0 ∨ s.platform.fabricUp = false) →
      exec (.remoteAccess w m pa n v) s = .next s)) ∧
  (∀ (s : State),
    (∀ k o, s.me.aops.find? (fun o => o.id == k) = some o → o.own = true →
      (s.away (s.placeNow s.me.ctx o.place) = false → exec (.fabricTimeout (3 * k)) s = .next s) ∧
      (s.away (s.placeNow s.me.ctx o.place) = true → o.stores = false →
        exec (.fabricTimeout (3 * k)) s = .next (if s.me.passedA o then s else (s.bumpCounter 5).lateTrap o 0x09)) ∧
      (s.away (s.placeNow s.me.ctx o.place) = true → o.stores = true → s.me.status = .placed → s.me.vops = [] →
        ∃ t, exec (.fabricTimeout (3 * k)) s = .next t ∧ t.me.status = .faulted ∧ t.mem = s.mem ∧
          t.me.aops = s.me.aops.filter (fun e => e.id != o.id) ∧ .faulted s.me.ctx s.me.source 0x13 o.va ∈ t.reports)) ∧
    (∀ k c, s.cmds[k]? = some c → c.kind ≠ 5 → c.token ≠ 0 → c.started = true → c.open = true → s.cmdAway c = true →
      s.kvWritable c = true → s.absentStill c = true → ∃ t, exec (.fabricTimeout (3 * k + 2)) s = .next t ∧ t.cmd c.token = none ∧
        statusState (t.tokenStatus c.token).1 = 2 ∧ bits (t.tokenStatus c.token).1.toNat 23 16 = 0x09) ∧
    (∀ a, s.me.status ≠ .void → s.me.status ≠ .retired → s.me.status ≠ .discarded →
      ∃ t, exec (.machineCheck a) s = .next t ∧ t.me.status = .faulted ∧
      .faulted s.me.ctx s.me.source 0x13 a ∈ t.reports ∧ (s.me.vops = [] → t.mem = s.mem)) ∧
    (∀ u d m, s.strand u = some m → exec (.firmwareDisposition u d) s = .next (if m.status = .faulted ∧ s.firmware.loaded = true ∧
      s.ctxFld m.ctx 22 2 % 2 = 1 ∧ (d = 1 ∨ d = 2) then s.dispose u d else s)))

/-- The two resets (R327): a cold reset clears all state, firmware included, and a byte of tier 0 or 2 of this module reads as
memory that nothing has written; a function-level reset leaves no context, no launch queue and no command ring, and keeps the
firmware and `gts`. (That a cold reset keeps host memory and flash is log entry 46; no clause here says so.) The machine right
after a cold reset, and a strand right after expansion (R65, R327): no strand, context, queue, launch, command or firmware is
there, and nothing is listed in memory; a vector unit that a placement claims holds ones with every register marked invalid, no
type, `vl` 0, zero masks, every scale 0x7F and residues of +0.0; a queue is empty and open. -/
def Obligations.Resets : Prop :=
  ((∀ (s : State) (g : Word), ∃ t, exec (.coldReset g) s = .next t ∧ t.gts = g ∧ t.me.status = .void ∧ t.peers = [] ∧ t.contexts = [] ∧
      t.queues = [] ∧ t.launches = [] ∧ t.cmds = [] ∧ t.statuses = [] ∧ t.tlb = [] ∧ t.preloads = [] ∧ t.cmdring = 0 ∧ t.fct = 0 ∧
      t.holdoff = 0 ∧ t.firmware.loaded = false ∧ t.stopped = false ∧ t.vus = [] ∧ t.tiles = [] ∧
      (∀ a, s.remote a = false → (s.tierOf a = 0 ∨ s.tierOf a = 2) → cellGet t.mem a = cellGet [] a)) ∧
    (∀ (s : State), ∃ t, exec .functionLevelReset s = .next t ∧ t.contexts = [] ∧ t.queues = [] ∧ t.cmdring = 0 ∧
      t.firmware = s.firmware ∧ t.gts = s.gts)) ∧
  (State.reset.Inv ∧ State.reset.me.status = .void ∧ State.reset.peers = [] ∧ State.reset.contexts = [] ∧ State.reset.queues = [] ∧
    State.reset.launches = [] ∧ State.reset.cmds = [] ∧ State.reset.firmware.loaded = false ∧ State.reset.stopped = false ∧
    State.reset.mem = [] ∧
    VecUnit.reset.regs = BitVec.allOnes 524288 ∧ VecUnit.reset.marks = BitVec.allOnes 32 ∧ VecUnit.reset.vl = 0 ∧
    VecUnit.reset.vtype.getLsbD 63 = true ∧ (∀ k : Fin 4, VecUnit.reset.masks[k] = 0) ∧ (∀ k : Fin 16, VecUnit.reset.ns[k] = 0) ∧
    (∀ (k : Fin 4) (j : Nat), j < 1024 → VecUnit.reset.scales[k].extractLsb' (8 * j) 8 = 0x7F#8) ∧
    (∀ q, (State.reset.queue q).items = [] ∧ (State.reset.queue q).closed = false) ∧ Tile.reset.cells = 0 ∧ Tile.reset.header = 0)

/-- Events and words that complete, each under conditions on the state and its operands alone: a page walk caches its leaf (R295), a
walk is retried (R295), a page begins to move (R302); the Cellarer performs the command at its ring's head (R315; that it looks
at nothing but whether tail and head differ is the model's reading, log entry 9) and the eight commands of the host have their
effect where the module holds firmware (R316, R325); the module's registers, policy, measurements, sensors and links take what
they are given (R264, R290, R314, R318, R321, R326, R330); power, heat and flash act (R211, R329); the resets leave their state
(R327); a fault's release and a faulted strand's disposition act (R186, R291); each of the seven SPAN words writes ad and
retires when the agent's records are sound (R220-R229); the CHAIN words arrive (R232, R236, R240). -/
def Obligations.EventsComplete : Prop :=
  (∀ (s : State) (ctx die core : Nat) (va e : Word) (q k : Nat), s.walk ctx va = .leaf e q k →
    ∃ t, exec (.pageWalk ctx die core va) s = .next t ∧ t.me = s.me ∧ ∃ h ∈ t.tlb, h.ctx = ctx ∧ h.die = die ∧ h.core = some core ∧
      h.leaf = e ||| 64 ∧ h.size = k) ∧
  (∀ (s : State), s.me.a.wait = .walk → s.me.x.wait ≠ .walk →
    exec .walkRetry s = .next { s with me := { s.me with a := { s.me.a with wait := .none } } }) ∧
  (∀ (s : State) (t va e : Word) (c : Cmd) (l : List Word) (q k : Nat), s.cmd t = some c → c.started = true → c.kind = 9 →
    c.paused = none → c.table = va :: l → c.moving = none → s.walk c.ctx va = .leaf e q k →
    ∃ r, exec (.pageMove t) s = .next r ∧ { c with moving := some (q, e, k), written := [0] } ∈ r.cmds) ∧
  (∀ (s : State), s.cmdring ≠ 0 → s.readPa (s.cmdring.toNat + 72) 4 ≠ 0 → s.readPa s.cmdring.toNat 8 ≠ s.cmdHead.toNat →
    let pa := s.readPa (s.cmdring.toNat + 64) 8 + 64 * (s.cmdHead.toNat % s.readPa (s.cmdring.toNat + 72) 4)
    field (s.readPa pa 64) 0 2 ≠ 5 → ∃ t, exec .cellarerWake s = .next t ∧ t.cmdHead = s.cmdHead + 1) ∧
  (∀ (s : State) (pa : Nat), s.firmware.loaded = true → pa % 128 = 0 → field (s.readPa pa 128) 20 2 ≠ 0 → s.context (field (s.readPa pa 128) 20 2) = none →
    field (s.readPa pa 128) 124 4 = 0 → ∃ t, exec (.createContext pa) s = .next t ∧
      (t.context (field (s.readPa pa 128) 20 2)).isSome = true) ∧
  (∀ (s : State) (ctx : Nat), s.firmware.loaded = true → s.context ctx ≠ none → ∃ t, exec (.destroyContext ctx) s = .next t ∧ t.context ctx = none) ∧
  (∀ (s : State) (q pa k : Nat), s.firmware.loaded = true → q < 1024 → s.launchQueue q = none → pa % 128 = 0 → k ≤ 16 → s.readPa (pa + 72) 4 = 2 ^ k →
    s.readPa (pa + 64) 8 % 128 = 0 → s.context (s.readPa (pa + 76) 2) ≠ none →
    ∃ t e, exec (.registerLaunchQueue q pa) s = .next t ∧ t.launchQueue q = some e ∧ e.desc = pa ∧ e.awake = true ∧
      e.head.toNat = s.readPa (pa + 80) 8) ∧
  (∀ (s : State) (q : Nat), s.firmware.loaded = true → s.launchQueue q ≠ none →
    ∃ t, exec (.unregisterLaunchQueue q) s = .next t ∧ t.launchQueue q = none ∧ t.me = s.me) ∧
  (∀ (s : State) (va w : Word), s.firmware.loaded = true → w.toNat < 2 ^ 18 → s.context (w.toNat % 65536) ≠ none → s.usesPage va w = false →
    ∃ t, exec (.invalidate va w) s = .next t ∧ ∀ e ∈ t.tlb, tlbiHits va w e.ctx e.va e.size = false) ∧
  (∀ (s : State) (o n b : Nat), s.firmware.loaded = true → o % 65536 = 0 → n % 65536 = 0 → b % 65536 = 0 → 0 < n →
    o + n ≤ s.regions[0].2.1 → b + n ≤ s.regions[0].2.1 →
    ∃ t, exec (.mapWindow o n b) s = .next t ∧ (o, n, b) ∈ t.platform.windows ∧ t.me = s.me) ∧
  (∀ (s : State) (pa n : Nat), s.contexts = [] → 16896 ≤ n → s.imageFields pa n = true →
    let signed := Config.signaturesVerify (s.imageBytes (pa + 16) 48) (s.imageBytes (pa + 64) 384) (s.imageBytes (pa + 512) 16224)
    ∃ t, exec (.loadFirmware pa n) s = .next t ∧ t.me = s.me ∧ t.firmware.loaded = signed ∧ t.firmware.lastFailed = !signed) ∧
  (∀ (s : State) (ctx die core slot : Nat) (m : Strand), s.firmware.loaded = true → s.context ctx ≠ none → s.faultedIn ctx die core slot = some m →
    s.strand m.uid = some m → ∃ t, exec (.strandDisposition ctx die core slot 1) s = .next t ∧ ∀ l ∈ t.launches, l.token = m.launch → l.lost = true) ∧
  (∀ (s : State) (v : Word), exec (.moduleControlWrite 8 8 v) s = .next { s with fct := v }) ∧
  (∀ (s : State) (us : Nat), s.firmware.loaded = true →
    (∀ n, exec (.firmwarePolicyChange 1 n us) s = .next { s with firmware := { s.firmware with fabricTimeout := us } }) ∧
    ∃ sig, exec (.spdmRequest 1) s = .next (s.report (.spdm 1 s.firmware.digest sig))) ∧
  (∀ (s : State), exec (.pldmRequest 22) s = .next (s.report (.pldm 22 s.platform.clock))) ∧
  (∀ (s : State) (up : Bool), ∃ t, exec (.fabricLinkChange up) s = .next t ∧ t.platform.fabricUp = up) ∧
  (∀ (s : State) (w r : Nat), (w = 16 ∨ w = 8 ∨ w = 4) → (r = 128 ∨ r = 64 ∨ r = 32) →
    exec (.hostLinkTraining w r) s = .next { s with platform := { s.platform with linkWidth := w, linkSpeed := r } }) ∧
  (∀ (s : State) (p : Nat), 3000 < p → exec (.powerClamp p) s = .next { s with platform := { s.platform with clamped := true } }) ∧
  (∀ (s : State) (id v : Nat), 5 ≤ id → id ≤ 9 → assoc s.platform.sensors id = some v → (if id = 9 then 105 else 110) < v →
    ∃ t, exec (.thermalThrottle true) s = .next t ∧ t.platform.hot = true ∧ t.platform.clock = max 1250 (s.platform.clock - 100)) ∧
  (∀ (s : State) (die : Nat), die ≤ 4 → ∃ t, exec (.thermalShutdown die) s = .next t ∧ t.stopped = true ∧
    (s.me.status = .placed → t.me.status = .faulted)) ∧
  (∀ (s : State) (id v : Nat), 1 ≤ id → id ≤ 21 → ∃ t, exec (.sensorEvent id v) s = .next t ∧
    assoc t.platform.sensors id = some v) ∧
  (∀ (s : State) (k b : Nat), k < 4 → b < 262144 → (k, b) ∉ s.platform.flashGone → s.eraseCount (k, b) < 9499 →
    ∃ t, exec (.flashErase k b) s = .next t ∧ t.me = s.me ∧ t.eraseCount (k, b) = s.eraseCount (k, b) + 1) ∧
  (∀ (s : State) (g : Word), ∃ t, exec (.coldReset g) s = .next t ∧ t.gts = g ∧ t.me.status = .void ∧ t.contexts = []) ∧
  (∀ (s : State), ∃ t, exec .functionLevelReset s = .next t ∧ t.contexts = [] ∧ t.queues = [] ∧ t.cmdring = 0) ∧
  (∀ (s : State) (t : Word) (c : Cmd) (u ca : Nat) (va : Word), s.cmd t = some c → c.kind ≠ 5 → c.paused = some (u, ca, va) →
    s.absentEntry c = none → ∃ r, exec (.engineFaultResolution t true) s = .next r ∧ { c with paused := none } ∈ r.cmds) ∧
  (∀ (s : State) (u : Nat) (m : Strand), s.strand u = some m → m.status = .faulted → s.firmware.loaded = true →
    s.ctxFld m.ctx 22 2 % 2 = 1 → exec (.firmwareDisposition u 2) s = .next (s.restart u)) ∧
  (∀ (s : State) (g : Word), s.me.status ≠ .placed → (∀ m ∈ s.peers, m.status ≠ .placed) → s.gts.toNat ≤ g.toNat →
    ∃ t, exec (.gtsSlewing g) s = .next t ∧ t.gts = g) ∧
  (∀ (s : State) (w : IWord), check w = .error .undefined →
    exec (.illegalInstruction w) s = .next (s.takeTrap (s.trapAt 0x01 0 (w.zeroExtend 64)))) ∧
  (∀ (s : State) (d p n : RegNo) (sc : BitVec 2) (ev un pin : Bool) (f : State → Nat → KMap → KPool → Word → Word → Chk (Word × State)),
    ∀ i ∈ [Instr.kvfork d p n sc, .kvapp d p n sc, .kvtag d p n sc, .kvret d p n sc, .kvres d p n sc, .kvpin d p n sc ev un pin,
      .kvlook d p n sc], spanWord i = some (d, p, n, f) → s.passes i = true → s.thr = .a → s.atHand [p, n, d] (some d) = true →
    let g := s.kvDie (s.cur.reg p)
    s.agentReady = true → s.inTurn (kvKey g) s.me.source = true →
    ∀ m q u w v r, s.kvMap g (s.cur.reg p) = .ok (m, u) → u.kvPool g m.pool = .ok (q, w) →
      f w g m q (s.cur.reg n) (s.cur.reg d) = .ok (v, r) →
      exec i s = .next (((r.took (kvKey g) s.me.source).put d v).retire)) ∧
  (∀ (s : State) (p : RegNo), s.atHand [p] none = true → s.atHand [] none = true → s.me.ch s.thr = none → s.me.cfd ≠ 0 →
    s.me.cfd ≤ 3 → callOf (s.me.cfr 5) = true → (s.val1 p).toNat ≤ 4 →
    exec (.rvchain p) s = .next (((s.after1 p).setCh s.thr (some (encode (.rvchain p), s.val1 p))).waitFor .chain) ∧
    exec .rvret s = .next ((s.endConvoy.setCh s.thr (some (encode .rvret, 0))).waitFor .chain) ∧
    exec (.rvabort p) s = .next (((s.after1 p).setCh s.thr (some (encode (.rvabort p), s.val1 p))).waitFor .chain))
end

