-- ==== Sys2Proof/Laws/Encode.lean ====
section
/-!
SUPPORT. What a field of a word built by one of the layouts reads as: one lemma per layout and field (R101, R102).
-/

namespace Sys2Proof

@[simp] theorem packS3_bit0 (m : BitVec 6) (d : BitVec 5) (a : BitVec 5) (b : BitVec 5) (f : BitVec 6) (z : BitVec 5) :
    (packS3 m d a b f z)[0] = z[0] := by
  rw [← BitVec.getLsbD_eq_getElem, ← BitVec.getLsbD_eq_getElem]
  show BitVec.getLsbD (m ++ d ++ a ++ b ++ f ++ z : BitVec (6 + 5 + 5 + 5 + 6 + 5)) 0 = _
  rw [BitVec.getLsbD_append, if_pos (by decide)]

@[simp] theorem packS3_0_1 (m : BitVec 6) (d : BitVec 5) (a : BitVec 5) (b : BitVec 5) (f : BitVec 6) (z : BitVec 5) :
    (packS3 m d a b f z).extractLsb' 0 1 = z.extractLsb' 0 1 := by
  apply BitVec.eq_of_getLsbD_eq; intro i hi
  rw [BitVec.getLsbD_extractLsb', decide_eq_true hi, Bool.true_and]
  show BitVec.getLsbD (m ++ d ++ a ++ b ++ f ++ z : BitVec (6 + 5 + 5 + 5 + 6 + 5)) (0 + i) = _
  rw [BitVec.getLsbD_append, if_pos (by omega)]
  rw [BitVec.getLsbD_extractLsb', decide_eq_true (by omega), Bool.true_and]

@[simp] theorem packS3_0_5 (m : BitVec 6) (d : BitVec 5) (a : BitVec 5) (b : BitVec 5) (f : BitVec 6) (z : BitVec 5) :
    (packS3 m d a b f z).extractLsb' 0 5 = z := by
  apply BitVec.eq_of_getLsbD_eq; intro i hi
  rw [BitVec.getLsbD_extractLsb', decide_eq_true hi, Bool.true_and]
  show BitVec.getLsbD (m ++ d ++ a ++ b ++ f ++ z : BitVec (6 + 5 + 5 + 5 + 6 + 5)) (0 + i) = _
  rw [BitVec.getLsbD_append, if_pos (by omega)]
  all_goals (congr 1; omega)

@[simp] theorem packS3_1_2 (m : BitVec 6) (d : BitVec 5) (a : BitVec 5) (b : BitVec 5) (f : BitVec 6) (z : BitVec 5) :
    (packS3 m d a b f z).extractLsb' 1 2 = z.extractLsb' 1 2 := by
  apply BitVec.eq_of_getLsbD_eq; intro i hi
  rw [BitVec.getLsbD_extractLsb', decide_eq_true hi, Bool.true_and]
  show BitVec.getLsbD (m ++ d ++ a ++ b ++ f ++ z : BitVec (6 + 5 + 5 + 5 + 6 + 5)) (1 + i) = _
  rw [BitVec.getLsbD_append, if_pos (by omega)]
  rw [BitVec.getLsbD_extractLsb', decide_eq_true (by omega), Bool.true_and]

@[simp] theorem packS3_1_4 (m : BitVec 6) (d : BitVec 5) (a : BitVec 5) (b : BitVec 5) (f : BitVec 6) (z : BitVec 5) :
    (packS3 m d a b f z).extractLsb' 1 4 = z.extractLsb' 1 4 := by
  apply BitVec.eq_of_getLsbD_eq; intro i hi
  rw [BitVec.getLsbD_extractLsb', decide_eq_true hi, Bool.true_and]
  show BitVec.getLsbD (m ++ d ++ a ++ b ++ f ++ z : BitVec (6 + 5 + 5 + 5 + 6 + 5)) (1 + i) = _
  rw [BitVec.getLsbD_append, if_pos (by omega)]
  rw [BitVec.getLsbD_extractLsb', decide_eq_true (by omega), Bool.true_and]

@[simp] theorem packS3_11_15 (m : BitVec 6) (d : BitVec 5) (a : BitVec 5) (b : BitVec 5) (f : BitVec 6) (z : BitVec 5) :
    (packS3 m d a b f z).extractLsb' 11 15 = d ++ a ++ b := by
  apply BitVec.eq_of_getLsbD_eq; intro i hi
  rw [BitVec.getLsbD_extractLsb', decide_eq_true hi, Bool.true_and]
  show BitVec.getLsbD (m ++ d ++ a ++ b ++ f ++ z : BitVec (6 + 5 + 5 + 5 + 6 + 5)) (11 + i) = _
  by_cases h0 : i < 5
  · rw [BitVec.getLsbD_append, if_neg (by omega)]
    rw [BitVec.getLsbD_append, if_neg (by omega)]
    rw [BitVec.getLsbD_append, if_pos (by omega)]
    show _ = BitVec.getLsbD (d ++ a ++ b : BitVec (5 + 5 + 5)) i
    rw [BitVec.getLsbD_append, if_pos (by omega)]
    all_goals (congr 1; omega)
  · by_cases h1 : i < 10
    · rw [BitVec.getLsbD_append, if_neg (by omega)]
      rw [BitVec.getLsbD_append, if_neg (by omega)]
      rw [BitVec.getLsbD_append, if_neg (by omega)]
      rw [BitVec.getLsbD_append, if_pos (by omega)]
      show _ = BitVec.getLsbD (d ++ a ++ b : BitVec (5 + 5 + 5)) i
      rw [BitVec.getLsbD_append, if_neg (by omega)]
      rw [BitVec.getLsbD_append, if_pos (by omega)]
      all_goals (congr 1; omega)
    · rw [BitVec.getLsbD_append, if_neg (by omega)]
      rw [BitVec.getLsbD_append, if_neg (by omega)]
      rw [BitVec.getLsbD_append, if_neg (by omega)]
      rw [BitVec.getLsbD_append, if_neg (by omega)]
      rw [BitVec.getLsbD_append, if_pos (by omega)]
      show _ = BitVec.getLsbD (d ++ a ++ b : BitVec (5 + 5 + 5)) i
      rw [BitVec.getLsbD_append, if_neg (by omega)]
      rw [BitVec.getLsbD_append, if_neg (by omega)]
      all_goals (congr 1; omega)

@[simp] theorem packS3_11_5 (m : BitVec 6) (d : BitVec 5) (a : BitVec 5) (b : BitVec 5) (f : BitVec 6) (z : BitVec 5) :
    (packS3 m d a b f z).extractLsb' 11 5 = b := by
  apply BitVec.eq_of_getLsbD_eq; intro i hi
  rw [BitVec.getLsbD_extractLsb', decide_eq_true hi, Bool.true_and]
  show BitVec.getLsbD (m ++ d ++ a ++ b ++ f ++ z : BitVec (6 + 5 + 5 + 5 + 6 + 5)) (11 + i) = _
  rw [BitVec.getLsbD_append, if_neg (by omega)]
  rw [BitVec.getLsbD_append, if_neg (by omega)]
  rw [BitVec.getLsbD_append, if_pos (by omega)]
  all_goals (congr 1; omega)

@[simp] theorem packS3_16_10 (m : BitVec 6) (d : BitVec 5) (a : BitVec 5) (b : BitVec 5) (f : BitVec 6) (z : BitVec 5) :
    (packS3 m d a b f z).extractLsb' 16 10 = d ++ a := by
  apply BitVec.eq_of_getLsbD_eq; intro i hi
  rw [BitVec.getLsbD_extractLsb', decide_eq_true hi, Bool.true_and]
  show BitVec.getLsbD (m ++ d ++ a ++ b ++ f ++ z : BitVec (6 + 5 + 5 + 5 + 6 + 5)) (16 + i) = _
  by_cases h0 : i < 5
  · rw [BitVec.getLsbD_append, if_neg (by omega)]
    rw [BitVec.getLsbD_append, if_neg (by omega)]
    rw [BitVec.getLsbD_append, if_neg (by omega)]
    rw [BitVec.getLsbD_append, if_pos (by omega)]
    show _ = BitVec.getLsbD (d ++ a : BitVec (5 + 5)) i
    rw [BitVec.getLsbD_append, if_pos (by omega)]
    all_goals (congr 1; omega)
  · rw [BitVec.getLsbD_append, if_neg (by omega)]
    rw [BitVec.getLsbD_append, if_neg (by omega)]
    rw [BitVec.getLsbD_append, if_neg (by omega)]
    rw [BitVec.getLsbD_append, if_neg (by omega)]
    rw [BitVec.getLsbD_append, if_pos (by omega)]
    show _ = BitVec.getLsbD (d ++ a : BitVec (5 + 5)) i
    rw [BitVec.getLsbD_append, if_neg (by omega)]
    all_goals (congr 1; omega)

@[simp] theorem packS3_16_5 (m : BitVec 6) (d : BitVec 5) (a : BitVec 5) (b : BitVec 5) (f : BitVec 6) (z : BitVec 5) :
    (packS3 m d a b f z).extractLsb' 16 5 = a := by
  apply BitVec.eq_of_getLsbD_eq; intro i hi
  rw [BitVec.getLsbD_extractLsb', decide_eq_true hi, Bool.true_and]
  show BitVec.getLsbD (m ++ d ++ a ++ b ++ f ++ z : BitVec (6 + 5 + 5 + 5 + 6 + 5)) (16 + i) = _
  rw [BitVec.getLsbD_append, if_neg (by omega)]
  rw [BitVec.getLsbD_append, if_neg (by omega)]
  rw [BitVec.getLsbD_append, if_neg (by omega)]
  rw [BitVec.getLsbD_append, if_pos (by omega)]
  all_goals (congr 1; omega)

@[simp] theorem packS3_21_5 (m : BitVec 6) (d : BitVec 5) (a : BitVec 5) (b : BitVec 5) (f : BitVec 6) (z : BitVec 5) :
    (packS3 m d a b f z).extractLsb' 21 5 = d := by
  apply BitVec.eq_of_getLsbD_eq; intro i hi
  rw [BitVec.getLsbD_extractLsb', decide_eq_true hi, Bool.true_and]
  show BitVec.getLsbD (m ++ d ++ a ++ b ++ f ++ z : BitVec (6 + 5 + 5 + 5 + 6 + 5)) (21 + i) = _
  rw [BitVec.getLsbD_append, if_neg (by omega)]
  rw [BitVec.getLsbD_append, if_neg (by omega)]
  rw [BitVec.getLsbD_append, if_neg (by omega)]
  rw [BitVec.getLsbD_append, if_neg (by omega)]
  rw [BitVec.getLsbD_append, if_pos (by omega)]
  all_goals (congr 1; omega)

@[simp] theorem packS3_3_2 (m : BitVec 6) (d : BitVec 5) (a : BitVec 5) (b : BitVec 5) (f : BitVec 6) (z : BitVec 5) :
    (packS3 m d a b f z).extractLsb' 3 2 = z.extractLsb' 3 2 := by
  apply BitVec.eq_of_getLsbD_eq; intro i hi
  rw [BitVec.getLsbD_extractLsb', decide_eq_true hi, Bool.true_and]
  show BitVec.getLsbD (m ++ d ++ a ++ b ++ f ++ z : BitVec (6 + 5 + 5 + 5 + 6 + 5)) (3 + i) = _
  rw [BitVec.getLsbD_append, if_pos (by omega)]
  rw [BitVec.getLsbD_extractLsb', decide_eq_true (by omega), Bool.true_and]

@[simp] theorem packS3_5_6 (m : BitVec 6) (d : BitVec 5) (a : BitVec 5) (b : BitVec 5) (f : BitVec 6) (z : BitVec 5) :
    (packS3 m d a b f z).extractLsb' 5 6 = f := by
  apply BitVec.eq_of_getLsbD_eq; intro i hi
  rw [BitVec.getLsbD_extractLsb', decide_eq_true hi, Bool.true_and]
  show BitVec.getLsbD (m ++ d ++ a ++ b ++ f ++ z : BitVec (6 + 5 + 5 + 5 + 6 + 5)) (5 + i) = _
  rw [BitVec.getLsbD_append, if_neg (by omega)]
  rw [BitVec.getLsbD_append, if_pos (by omega)]
  all_goals (congr 1; omega)

@[simp] theorem packS3_26_6 (m : BitVec 6) (d : BitVec 5) (a : BitVec 5) (b : BitVec 5) (f : BitVec 6) (z : BitVec 5) :
    (packS3 m d a b f z).extractLsb' 26 6 = m := by
  apply BitVec.eq_of_getLsbD_eq; intro i hi
  rw [BitVec.getLsbD_extractLsb', decide_eq_true hi, Bool.true_and]
  show BitVec.getLsbD (m ++ d ++ a ++ b ++ f ++ z : BitVec (6 + 5 + 5 + 5 + 6 + 5)) (26 + i) = _
  rw [BitVec.getLsbD_append, if_neg (by omega)]
  rw [BitVec.getLsbD_append, if_neg (by omega)]
  rw [BitVec.getLsbD_append, if_neg (by omega)]
  rw [BitVec.getLsbD_append, if_neg (by omega)]
  rw [BitVec.getLsbD_append, if_neg (by omega)]
  all_goals (congr 1; omega)

@[simp] theorem packSI_0_16 (m : BitVec 6) (d : BitVec 5) (a : BitVec 5) (v : BitVec 16) :
    (packSI m d a v).extractLsb' 0 16 = v := by
  apply BitVec.eq_of_getLsbD_eq; intro i hi
  rw [BitVec.getLsbD_extractLsb', decide_eq_true hi, Bool.true_and]
  show BitVec.getLsbD (m ++ d ++ a ++ v : BitVec (6 + 5 + 5 + 16)) (0 + i) = _
  rw [BitVec.getLsbD_append, if_pos (by omega)]
  all_goals (congr 1; omega)

@[simp] theorem packSI_16_5 (m : BitVec 6) (d : BitVec 5) (a : BitVec 5) (v : BitVec 16) :
    (packSI m d a v).extractLsb' 16 5 = a := by
  apply BitVec.eq_of_getLsbD_eq; intro i hi
  rw [BitVec.getLsbD_extractLsb', decide_eq_true hi, Bool.true_and]
  show BitVec.getLsbD (m ++ d ++ a ++ v : BitVec (6 + 5 + 5 + 16)) (16 + i) = _
  rw [BitVec.getLsbD_append, if_neg (by omega)]
  rw [BitVec.getLsbD_append, if_pos (by omega)]
  all_goals (congr 1; omega)

@[simp] theorem packSI_21_5 (m : BitVec 6) (d : BitVec 5) (a : BitVec 5) (v : BitVec 16) :
    (packSI m d a v).extractLsb' 21 5 = d := by
  apply BitVec.eq_of_getLsbD_eq; intro i hi
  rw [BitVec.getLsbD_extractLsb', decide_eq_true hi, Bool.true_and]
  show BitVec.getLsbD (m ++ d ++ a ++ v : BitVec (6 + 5 + 5 + 16)) (21 + i) = _
  rw [BitVec.getLsbD_append, if_neg (by omega)]
  rw [BitVec.getLsbD_append, if_neg (by omega)]
  rw [BitVec.getLsbD_append, if_pos (by omega)]
  all_goals (congr 1; omega)

@[simp] theorem packSI_26_6 (m : BitVec 6) (d : BitVec 5) (a : BitVec 5) (v : BitVec 16) :
    (packSI m d a v).extractLsb' 26 6 = m := by
  apply BitVec.eq_of_getLsbD_eq; intro i hi
  rw [BitVec.getLsbD_extractLsb', decide_eq_true hi, Bool.true_and]
  show BitVec.getLsbD (m ++ d ++ a ++ v : BitVec (6 + 5 + 5 + 16)) (26 + i) = _
  rw [BitVec.getLsbD_append, if_neg (by omega)]
  rw [BitVec.getLsbD_append, if_neg (by omega)]
  rw [BitVec.getLsbD_append, if_neg (by omega)]
  all_goals (congr 1; omega)

@[simp] theorem packSI_bit25 (m : BitVec 6) (d : BitVec 5) (a : BitVec 5) (v : BitVec 16) :
    (packSI m d a v)[25] = d[4] := by
  rw [← BitVec.getLsbD_eq_getElem, ← BitVec.getLsbD_eq_getElem]
  show BitVec.getLsbD (m ++ d ++ a ++ v : BitVec (6 + 5 + 5 + 16)) 25 = _
  rw [BitVec.getLsbD_append, if_neg (by decide)]
  rw [BitVec.getLsbD_append, if_neg (by decide)]
  rw [BitVec.getLsbD_append, if_pos (by decide)]

@[simp] theorem packSU_0_21 (m : BitVec 6) (d : BitVec 5) (v : BitVec 21) :
    (packSU m d v).extractLsb' 0 21 = v := by
  apply BitVec.eq_of_getLsbD_eq; intro i hi
  rw [BitVec.getLsbD_extractLsb', decide_eq_true hi, Bool.true_and]
  show BitVec.getLsbD (m ++ d ++ v : BitVec (6 + 5 + 21)) (0 + i) = _
  rw [BitVec.getLsbD_append, if_pos (by omega)]
  all_goals (congr 1; omega)

@[simp] theorem packSU_21_5 (m : BitVec 6) (d : BitVec 5) (v : BitVec 21) :
    (packSU m d v).extractLsb' 21 5 = d := by
  apply BitVec.eq_of_getLsbD_eq; intro i hi
  rw [BitVec.getLsbD_extractLsb', decide_eq_true hi, Bool.true_and]
  show BitVec.getLsbD (m ++ d ++ v : BitVec (6 + 5 + 21)) (21 + i) = _
  rw [BitVec.getLsbD_append, if_neg (by omega)]
  rw [BitVec.getLsbD_append, if_pos (by omega)]
  all_goals (congr 1; omega)

@[simp] theorem packSU_26_6 (m : BitVec 6) (d : BitVec 5) (v : BitVec 21) :
    (packSU m d v).extractLsb' 26 6 = m := by
  apply BitVec.eq_of_getLsbD_eq; intro i hi
  rw [BitVec.getLsbD_extractLsb', decide_eq_true hi, Bool.true_and]
  show BitVec.getLsbD (m ++ d ++ v : BitVec (6 + 5 + 21)) (26 + i) = _
  rw [BitVec.getLsbD_append, if_neg (by omega)]
  rw [BitVec.getLsbD_append, if_neg (by omega)]
  all_goals (congr 1; omega)

@[simp] theorem packSU_bit25 (m : BitVec 6) (d : BitVec 5) (v : BitVec 21) :
    (packSU m d v)[25] = d[4] := by
  rw [← BitVec.getLsbD_eq_getElem, ← BitVec.getLsbD_eq_getElem]
  show BitVec.getLsbD (m ++ d ++ v : BitVec (6 + 5 + 21)) 25 = _
  rw [BitVec.getLsbD_append, if_neg (by decide)]
  rw [BitVec.getLsbD_append, if_pos (by decide)]

@[simp] theorem packSM_0_13 (m : BitVec 6) (d : BitVec 5) (a : BitVec 5) (q : BitVec 3) (o : BitVec 13) :
    (packSM m d a q o).extractLsb' 0 13 = o := by
  apply BitVec.eq_of_getLsbD_eq; intro i hi
  rw [BitVec.getLsbD_extractLsb', decide_eq_true hi, Bool.true_and]
  show BitVec.getLsbD (m ++ d ++ a ++ q ++ o : BitVec (6 + 5 + 5 + 3 + 13)) (0 + i) = _
  rw [BitVec.getLsbD_append, if_pos (by omega)]
  all_goals (congr 1; omega)

@[simp] theorem packSM_13_3 (m : BitVec 6) (d : BitVec 5) (a : BitVec 5) (q : BitVec 3) (o : BitVec 13) :
    (packSM m d a q o).extractLsb' 13 3 = q := by
  apply BitVec.eq_of_getLsbD_eq; intro i hi
  rw [BitVec.getLsbD_extractLsb', decide_eq_true hi, Bool.true_and]
  show BitVec.getLsbD (m ++ d ++ a ++ q ++ o : BitVec (6 + 5 + 5 + 3 + 13)) (13 + i) = _
  rw [BitVec.getLsbD_append, if_neg (by omega)]
  rw [BitVec.getLsbD_append, if_pos (by omega)]
  all_goals (congr 1; omega)

@[simp] theorem packSM_16_5 (m : BitVec 6) (d : BitVec 5) (a : BitVec 5) (q : BitVec 3) (o : BitVec 13) :
    (packSM m d a q o).extractLsb' 16 5 = a := by
  apply BitVec.eq_of_getLsbD_eq; intro i hi
  rw [BitVec.getLsbD_extractLsb', decide_eq_true hi, Bool.true_and]
  show BitVec.getLsbD (m ++ d ++ a ++ q ++ o : BitVec (6 + 5 + 5 + 3 + 13)) (16 + i) = _
  rw [BitVec.getLsbD_append, if_neg (by omega)]
  rw [BitVec.getLsbD_append, if_neg (by omega)]
  rw [BitVec.getLsbD_append, if_pos (by omega)]
  all_goals (congr 1; omega)

@[simp] theorem packSM_21_5 (m : BitVec 6) (d : BitVec 5) (a : BitVec 5) (q : BitVec 3) (o : BitVec 13) :
    (packSM m d a q o).extractLsb' 21 5 = d := by
  apply BitVec.eq_of_getLsbD_eq; intro i hi
  rw [BitVec.getLsbD_extractLsb', decide_eq_true hi, Bool.true_and]
  show BitVec.getLsbD (m ++ d ++ a ++ q ++ o : BitVec (6 + 5 + 5 + 3 + 13)) (21 + i) = _
  rw [BitVec.getLsbD_append, if_neg (by omega)]
  rw [BitVec.getLsbD_append, if_neg (by omega)]
  rw [BitVec.getLsbD_append, if_neg (by omega)]
  rw [BitVec.getLsbD_append, if_pos (by omega)]
  all_goals (congr 1; omega)

@[simp] theorem packSM_26_6 (m : BitVec 6) (d : BitVec 5) (a : BitVec 5) (q : BitVec 3) (o : BitVec 13) :
    (packSM m d a q o).extractLsb' 26 6 = m := by
  apply BitVec.eq_of_getLsbD_eq; intro i hi
  rw [BitVec.getLsbD_extractLsb', decide_eq_true hi, Bool.true_and]
  show BitVec.getLsbD (m ++ d ++ a ++ q ++ o : BitVec (6 + 5 + 5 + 3 + 13)) (26 + i) = _
  rw [BitVec.getLsbD_append, if_neg (by omega)]
  rw [BitVec.getLsbD_append, if_neg (by omega)]
  rw [BitVec.getLsbD_append, if_neg (by omega)]
  rw [BitVec.getLsbD_append, if_neg (by omega)]
  all_goals (congr 1; omega)

@[simp] theorem packSL_0_16 (m : BitVec 6) (f : BitVec 2) (l : BitVec 3) (d : BitVec 5) (o : BitVec 16) :
    (packSL m f l d o).extractLsb' 0 16 = o := by
  apply BitVec.eq_of_getLsbD_eq; intro i hi
  rw [BitVec.getLsbD_extractLsb', decide_eq_true hi, Bool.true_and]
  show BitVec.getLsbD (m ++ f ++ l ++ d ++ o : BitVec (6 + 2 + 3 + 5 + 16)) (0 + i) = _
  rw [BitVec.getLsbD_append, if_pos (by omega)]
  all_goals (congr 1; omega)

@[simp] theorem packSL_0_21 (m : BitVec 6) (f : BitVec 2) (l : BitVec 3) (d : BitVec 5) (o : BitVec 16) :
    (packSL m f l d o).extractLsb' 0 21 = d ++ o := by
  apply BitVec.eq_of_getLsbD_eq; intro i hi
  rw [BitVec.getLsbD_extractLsb', decide_eq_true hi, Bool.true_and]
  show BitVec.getLsbD (m ++ f ++ l ++ d ++ o : BitVec (6 + 2 + 3 + 5 + 16)) (0 + i) = _
  by_cases h0 : i < 16
  · rw [BitVec.getLsbD_append, if_pos (by omega)]
    show _ = BitVec.getLsbD (d ++ o : BitVec (5 + 16)) i
    rw [BitVec.getLsbD_append, if_pos (by omega)]
    all_goals (congr 1; omega)
  · rw [BitVec.getLsbD_append, if_neg (by omega)]
    rw [BitVec.getLsbD_append, if_pos (by omega)]
    show _ = BitVec.getLsbD (d ++ o : BitVec (5 + 16)) i
    rw [BitVec.getLsbD_append, if_neg (by omega)]
    all_goals (congr 1; omega)

@[simp] theorem packSL_16_5 (m : BitVec 6) (f : BitVec 2) (l : BitVec 3) (d : BitVec 5) (o : BitVec 16) :
    (packSL m f l d o).extractLsb' 16 5 = d := by
  apply BitVec.eq_of_getLsbD_eq; intro i hi
  rw [BitVec.getLsbD_extractLsb', decide_eq_true hi, Bool.true_and]
  show BitVec.getLsbD (m ++ f ++ l ++ d ++ o : BitVec (6 + 2 + 3 + 5 + 16)) (16 + i) = _
  rw [BitVec.getLsbD_append, if_neg (by omega)]
  rw [BitVec.getLsbD_append, if_pos (by omega)]
  all_goals (congr 1; omega)

@[simp] theorem packSL_21_3 (m : BitVec 6) (f : BitVec 2) (l : BitVec 3) (d : BitVec 5) (o : BitVec 16) :
    (packSL m f l d o).extractLsb' 21 3 = l := by
  apply BitVec.eq_of_getLsbD_eq; intro i hi
  rw [BitVec.getLsbD_extractLsb', decide_eq_true hi, Bool.true_and]
  show BitVec.getLsbD (m ++ f ++ l ++ d ++ o : BitVec (6 + 2 + 3 + 5 + 16)) (21 + i) = _
  rw [BitVec.getLsbD_append, if_neg (by omega)]
  rw [BitVec.getLsbD_append, if_neg (by omega)]
  rw [BitVec.getLsbD_append, if_pos (by omega)]
  all_goals (congr 1; omega)

@[simp] theorem packSL_24_2 (m : BitVec 6) (f : BitVec 2) (l : BitVec 3) (d : BitVec 5) (o : BitVec 16) :
    (packSL m f l d o).extractLsb' 24 2 = f := by
  apply BitVec.eq_of_getLsbD_eq; intro i hi
  rw [BitVec.getLsbD_extractLsb', decide_eq_true hi, Bool.true_and]
  show BitVec.getLsbD (m ++ f ++ l ++ d ++ o : BitVec (6 + 2 + 3 + 5 + 16)) (24 + i) = _
  rw [BitVec.getLsbD_append, if_neg (by omega)]
  rw [BitVec.getLsbD_append, if_neg (by omega)]
  rw [BitVec.getLsbD_append, if_neg (by omega)]
  rw [BitVec.getLsbD_append, if_pos (by omega)]
  all_goals (congr 1; omega)

@[simp] theorem packSL_26_6 (m : BitVec 6) (f : BitVec 2) (l : BitVec 3) (d : BitVec 5) (o : BitVec 16) :
    (packSL m f l d o).extractLsb' 26 6 = m := by
  apply BitVec.eq_of_getLsbD_eq; intro i hi
  rw [BitVec.getLsbD_extractLsb', decide_eq_true hi, Bool.true_and]
  show BitVec.getLsbD (m ++ f ++ l ++ d ++ o : BitVec (6 + 2 + 3 + 5 + 16)) (26 + i) = _
  rw [BitVec.getLsbD_append, if_neg (by omega)]
  rw [BitVec.getLsbD_append, if_neg (by omega)]
  rw [BitVec.getLsbD_append, if_neg (by omega)]
  rw [BitVec.getLsbD_append, if_neg (by omega)]
  all_goals (congr 1; omega)

@[simp] theorem packCS_0_12 (m : BitVec 6) (d : BitVec 5) (a : BitVec 5) (q : BitVec 2) (z : BitVec 2) (n : BitVec 12) :
    (packCS m d a q z n).extractLsb' 0 12 = n := by
  apply BitVec.eq_of_getLsbD_eq; intro i hi
  rw [BitVec.getLsbD_extractLsb', decide_eq_true hi, Bool.true_and]
  show BitVec.getLsbD (m ++ d ++ a ++ q ++ z ++ n : BitVec (6 + 5 + 5 + 2 + 2 + 12)) (0 + i) = _
  rw [BitVec.getLsbD_append, if_pos (by omega)]
  all_goals (congr 1; omega)

@[simp] theorem packCS_12_2 (m : BitVec 6) (d : BitVec 5) (a : BitVec 5) (q : BitVec 2) (z : BitVec 2) (n : BitVec 12) :
    (packCS m d a q z n).extractLsb' 12 2 = z := by
  apply BitVec.eq_of_getLsbD_eq; intro i hi
  rw [BitVec.getLsbD_extractLsb', decide_eq_true hi, Bool.true_and]
  show BitVec.getLsbD (m ++ d ++ a ++ q ++ z ++ n : BitVec (6 + 5 + 5 + 2 + 2 + 12)) (12 + i) = _
  rw [BitVec.getLsbD_append, if_neg (by omega)]
  rw [BitVec.getLsbD_append, if_pos (by omega)]
  all_goals (congr 1; omega)

@[simp] theorem packCS_14_2 (m : BitVec 6) (d : BitVec 5) (a : BitVec 5) (q : BitVec 2) (z : BitVec 2) (n : BitVec 12) :
    (packCS m d a q z n).extractLsb' 14 2 = q := by
  apply BitVec.eq_of_getLsbD_eq; intro i hi
  rw [BitVec.getLsbD_extractLsb', decide_eq_true hi, Bool.true_and]
  show BitVec.getLsbD (m ++ d ++ a ++ q ++ z ++ n : BitVec (6 + 5 + 5 + 2 + 2 + 12)) (14 + i) = _
  rw [BitVec.getLsbD_append, if_neg (by omega)]
  rw [BitVec.getLsbD_append, if_neg (by omega)]
  rw [BitVec.getLsbD_append, if_pos (by omega)]
  all_goals (congr 1; omega)

@[simp] theorem packCS_16_5 (m : BitVec 6) (d : BitVec 5) (a : BitVec 5) (q : BitVec 2) (z : BitVec 2) (n : BitVec 12) :
    (packCS m d a q z n).extractLsb' 16 5 = a := by
  apply BitVec.eq_of_getLsbD_eq; intro i hi
  rw [BitVec.getLsbD_extractLsb', decide_eq_true hi, Bool.true_and]
  show BitVec.getLsbD (m ++ d ++ a ++ q ++ z ++ n : BitVec (6 + 5 + 5 + 2 + 2 + 12)) (16 + i) = _
  rw [BitVec.getLsbD_append, if_neg (by omega)]
  rw [BitVec.getLsbD_append, if_neg (by omega)]
  rw [BitVec.getLsbD_append, if_neg (by omega)]
  rw [BitVec.getLsbD_append, if_pos (by omega)]
  all_goals (congr 1; omega)

@[simp] theorem packCS_21_5 (m : BitVec 6) (d : BitVec 5) (a : BitVec 5) (q : BitVec 2) (z : BitVec 2) (n : BitVec 12) :
    (packCS m d a q z n).extractLsb' 21 5 = d := by
  apply BitVec.eq_of_getLsbD_eq; intro i hi
  rw [BitVec.getLsbD_extractLsb', decide_eq_true hi, Bool.true_and]
  show BitVec.getLsbD (m ++ d ++ a ++ q ++ z ++ n : BitVec (6 + 5 + 5 + 2 + 2 + 12)) (21 + i) = _
  rw [BitVec.getLsbD_append, if_neg (by omega)]
  rw [BitVec.getLsbD_append, if_neg (by omega)]
  rw [BitVec.getLsbD_append, if_neg (by omega)]
  rw [BitVec.getLsbD_append, if_neg (by omega)]
  rw [BitVec.getLsbD_append, if_pos (by omega)]
  all_goals (congr 1; omega)

@[simp] theorem packCS_26_6 (m : BitVec 6) (d : BitVec 5) (a : BitVec 5) (q : BitVec 2) (z : BitVec 2) (n : BitVec 12) :
    (packCS m d a q z n).extractLsb' 26 6 = m := by
  apply BitVec.eq_of_getLsbD_eq; intro i hi
  rw [BitVec.getLsbD_extractLsb', decide_eq_true hi, Bool.true_and]
  show BitVec.getLsbD (m ++ d ++ a ++ q ++ z ++ n : BitVec (6 + 5 + 5 + 2 + 2 + 12)) (26 + i) = _
  rw [BitVec.getLsbD_append, if_neg (by omega)]
  rw [BitVec.getLsbD_append, if_neg (by omega)]
  rw [BitVec.getLsbD_append, if_neg (by omega)]
  rw [BitVec.getLsbD_append, if_neg (by omega)]
  rw [BitVec.getLsbD_append, if_neg (by omega)]
  all_goals (congr 1; omega)

@[simp] theorem packE_bit0 (m : BitVec 6) (d : BitVec 5) (p : BitVec 5) (n : BitVec 5) (f : BitVec 6) (c : BitVec 2) (g : BitVec 3) :
    (packE m d p n f c g)[0] = g[0] := by
  rw [← BitVec.getLsbD_eq_getElem, ← BitVec.getLsbD_eq_getElem]
  show BitVec.getLsbD (m ++ d ++ p ++ n ++ f ++ c ++ g : BitVec (6 + 5 + 5 + 5 + 6 + 2 + 3)) 0 = _
  rw [BitVec.getLsbD_append, if_pos (by decide)]

@[simp] theorem packE_bit1 (m : BitVec 6) (d : BitVec 5) (p : BitVec 5) (n : BitVec 5) (f : BitVec 6) (c : BitVec 2) (g : BitVec 3) :
    (packE m d p n f c g)[1] = g[1] := by
  rw [← BitVec.getLsbD_eq_getElem, ← BitVec.getLsbD_eq_getElem]
  show BitVec.getLsbD (m ++ d ++ p ++ n ++ f ++ c ++ g : BitVec (6 + 5 + 5 + 5 + 6 + 2 + 3)) 1 = _
  rw [BitVec.getLsbD_append, if_pos (by decide)]

@[simp] theorem packE_bit2 (m : BitVec 6) (d : BitVec 5) (p : BitVec 5) (n : BitVec 5) (f : BitVec 6) (c : BitVec 2) (g : BitVec 3) :
    (packE m d p n f c g)[2] = g[2] := by
  rw [← BitVec.getLsbD_eq_getElem, ← BitVec.getLsbD_eq_getElem]
  show BitVec.getLsbD (m ++ d ++ p ++ n ++ f ++ c ++ g : BitVec (6 + 5 + 5 + 5 + 6 + 2 + 3)) 2 = _
  rw [BitVec.getLsbD_append, if_pos (by decide)]

@[simp] theorem packE_0_3 (m : BitVec 6) (d : BitVec 5) (p : BitVec 5) (n : BitVec 5) (f : BitVec 6) (c : BitVec 2) (g : BitVec 3) :
    (packE m d p n f c g).extractLsb' 0 3 = g := by
  apply BitVec.eq_of_getLsbD_eq; intro i hi
  rw [BitVec.getLsbD_extractLsb', decide_eq_true hi, Bool.true_and]
  show BitVec.getLsbD (m ++ d ++ p ++ n ++ f ++ c ++ g : BitVec (6 + 5 + 5 + 5 + 6 + 2 + 3)) (0 + i) = _
  rw [BitVec.getLsbD_append, if_pos (by omega)]
  all_goals (congr 1; omega)

@[simp] theorem packE_0_5 (m : BitVec 6) (d : BitVec 5) (p : BitVec 5) (n : BitVec 5) (f : BitVec 6) (c : BitVec 2) (g : BitVec 3) :
    (packE m d p n f c g).extractLsb' 0 5 = c ++ g := by
  apply BitVec.eq_of_getLsbD_eq; intro i hi
  rw [BitVec.getLsbD_extractLsb', decide_eq_true hi, Bool.true_and]
  show BitVec.getLsbD (m ++ d ++ p ++ n ++ f ++ c ++ g : BitVec (6 + 5 + 5 + 5 + 6 + 2 + 3)) (0 + i) = _
  by_cases h0 : i < 3
  · rw [BitVec.getLsbD_append, if_pos (by omega)]
    show _ = BitVec.getLsbD (c ++ g : BitVec (2 + 3)) i
    rw [BitVec.getLsbD_append, if_pos (by omega)]
    all_goals (congr 1; omega)
  · rw [BitVec.getLsbD_append, if_neg (by omega)]
    rw [BitVec.getLsbD_append, if_pos (by omega)]
    show _ = BitVec.getLsbD (c ++ g : BitVec (2 + 3)) i
    rw [BitVec.getLsbD_append, if_neg (by omega)]
    all_goals (congr 1; omega)

@[simp] theorem packE_11_10 (m : BitVec 6) (d : BitVec 5) (p : BitVec 5) (n : BitVec 5) (f : BitVec 6) (c : BitVec 2) (g : BitVec 3) :
    (packE m d p n f c g).extractLsb' 11 10 = p ++ n := by
  apply BitVec.eq_of_getLsbD_eq; intro i hi
  rw [BitVec.getLsbD_extractLsb', decide_eq_true hi, Bool.true_and]
  show BitVec.getLsbD (m ++ d ++ p ++ n ++ f ++ c ++ g : BitVec (6 + 5 + 5 + 5 + 6 + 2 + 3)) (11 + i) = _
  by_cases h0 : i < 5
  · rw [BitVec.getLsbD_append, if_neg (by omega)]
    rw [BitVec.getLsbD_append, if_neg (by omega)]
    rw [BitVec.getLsbD_append, if_neg (by omega)]
    rw [BitVec.getLsbD_append, if_pos (by omega)]
    show _ = BitVec.getLsbD (p ++ n : BitVec (5 + 5)) i
    rw [BitVec.getLsbD_append, if_pos (by omega)]
    all_goals (congr 1; omega)
  · rw [BitVec.getLsbD_append, if_neg (by omega)]
    rw [BitVec.getLsbD_append, if_neg (by omega)]
    rw [BitVec.getLsbD_append, if_neg (by omega)]
    rw [BitVec.getLsbD_append, if_neg (by omega)]
    rw [BitVec.getLsbD_append, if_pos (by omega)]
    show _ = BitVec.getLsbD (p ++ n : BitVec (5 + 5)) i
    rw [BitVec.getLsbD_append, if_neg (by omega)]
    all_goals (congr 1; omega)

@[simp] theorem packE_11_15 (m : BitVec 6) (d : BitVec 5) (p : BitVec 5) (n : BitVec 5) (f : BitVec 6) (c : BitVec 2) (g : BitVec 3) :
    (packE m d p n f c g).extractLsb' 11 15 = d ++ p ++ n := by
  apply BitVec.eq_of_getLsbD_eq; intro i hi
  rw [BitVec.getLsbD_extractLsb', decide_eq_true hi, Bool.true_and]
  show BitVec.getLsbD (m ++ d ++ p ++ n ++ f ++ c ++ g : BitVec (6 + 5 + 5 + 5 + 6 + 2 + 3)) (11 + i) = _
  by_cases h0 : i < 5
  · rw [BitVec.getLsbD_append, if_neg (by omega)]
    rw [BitVec.getLsbD_append, if_neg (by omega)]
    rw [BitVec.getLsbD_append, if_neg (by omega)]
    rw [BitVec.getLsbD_append, if_pos (by omega)]
    show _ = BitVec.getLsbD (d ++ p ++ n : BitVec (5 + 5 + 5)) i
    rw [BitVec.getLsbD_append, if_pos (by omega)]
    all_goals (congr 1; omega)
  · by_cases h1 : i < 10
    · rw [BitVec.getLsbD_append, if_neg (by omega)]
      rw [BitVec.getLsbD_append, if_neg (by omega)]
      rw [BitVec.getLsbD_append, if_neg (by omega)]
      rw [BitVec.getLsbD_append, if_neg (by omega)]
      rw [BitVec.getLsbD_append, if_pos (by omega)]
      show _ = BitVec.getLsbD (d ++ p ++ n : BitVec (5 + 5 + 5)) i
      rw [BitVec.getLsbD_append, if_neg (by omega)]
      rw [BitVec.getLsbD_append, if_pos (by omega)]
      all_goals (congr 1; omega)
    · rw [BitVec.getLsbD_append, if_neg (by omega)]
      rw [BitVec.getLsbD_append, if_neg (by omega)]
      rw [BitVec.getLsbD_append, if_neg (by omega)]
      rw [BitVec.getLsbD_append, if_neg (by omega)]
      rw [BitVec.getLsbD_append, if_neg (by omega)]
      rw [BitVec.getLsbD_append, if_pos (by omega)]
      show _ = BitVec.getLsbD (d ++ p ++ n : BitVec (5 + 5 + 5)) i
      rw [BitVec.getLsbD_append, if_neg (by omega)]
      rw [BitVec.getLsbD_append, if_neg (by omega)]
      all_goals (congr 1; omega)

@[simp] theorem packE_11_5 (m : BitVec 6) (d : BitVec 5) (p : BitVec 5) (n : BitVec 5) (f : BitVec 6) (c : BitVec 2) (g : BitVec 3) :
    (packE m d p n f c g).extractLsb' 11 5 = n := by
  apply BitVec.eq_of_getLsbD_eq; intro i hi
  rw [BitVec.getLsbD_extractLsb', decide_eq_true hi, Bool.true_and]
  show BitVec.getLsbD (m ++ d ++ p ++ n ++ f ++ c ++ g : BitVec (6 + 5 + 5 + 5 + 6 + 2 + 3)) (11 + i) = _
  rw [BitVec.getLsbD_append, if_neg (by omega)]
  rw [BitVec.getLsbD_append, if_neg (by omega)]
  rw [BitVec.getLsbD_append, if_neg (by omega)]
  rw [BitVec.getLsbD_append, if_pos (by omega)]
  all_goals (congr 1; omega)

@[simp] theorem packE_16_10 (m : BitVec 6) (d : BitVec 5) (p : BitVec 5) (n : BitVec 5) (f : BitVec 6) (c : BitVec 2) (g : BitVec 3) :
    (packE m d p n f c g).extractLsb' 16 10 = d ++ p := by
  apply BitVec.eq_of_getLsbD_eq; intro i hi
  rw [BitVec.getLsbD_extractLsb', decide_eq_true hi, Bool.true_and]
  show BitVec.getLsbD (m ++ d ++ p ++ n ++ f ++ c ++ g : BitVec (6 + 5 + 5 + 5 + 6 + 2 + 3)) (16 + i) = _
  by_cases h0 : i < 5
  · rw [BitVec.getLsbD_append, if_neg (by omega)]
    rw [BitVec.getLsbD_append, if_neg (by omega)]
    rw [BitVec.getLsbD_append, if_neg (by omega)]
    rw [BitVec.getLsbD_append, if_neg (by omega)]
    rw [BitVec.getLsbD_append, if_pos (by omega)]
    show _ = BitVec.getLsbD (d ++ p : BitVec (5 + 5)) i
    rw [BitVec.getLsbD_append, if_pos (by omega)]
    all_goals (congr 1; omega)
  · rw [BitVec.getLsbD_append, if_neg (by omega)]
    rw [BitVec.getLsbD_append, if_neg (by omega)]
    rw [BitVec.getLsbD_append, if_neg (by omega)]
    rw [BitVec.getLsbD_append, if_neg (by omega)]
    rw [BitVec.getLsbD_append, if_neg (by omega)]
    rw [BitVec.getLsbD_append, if_pos (by omega)]
    show _ = BitVec.getLsbD (d ++ p : BitVec (5 + 5)) i
    rw [BitVec.getLsbD_append, if_neg (by omega)]
    all_goals (congr 1; omega)

@[simp] theorem packE_16_5 (m : BitVec 6) (d : BitVec 5) (p : BitVec 5) (n : BitVec 5) (f : BitVec 6) (c : BitVec 2) (g : BitVec 3) :
    (packE m d p n f c g).extractLsb' 16 5 = p := by
  apply BitVec.eq_of_getLsbD_eq; intro i hi
  rw [BitVec.getLsbD_extractLsb', decide_eq_true hi, Bool.true_and]
  show BitVec.getLsbD (m ++ d ++ p ++ n ++ f ++ c ++ g : BitVec (6 + 5 + 5 + 5 + 6 + 2 + 3)) (16 + i) = _
  rw [BitVec.getLsbD_append, if_neg (by omega)]
  rw [BitVec.getLsbD_append, if_neg (by omega)]
  rw [BitVec.getLsbD_append, if_neg (by omega)]
  rw [BitVec.getLsbD_append, if_neg (by omega)]
  rw [BitVec.getLsbD_append, if_pos (by omega)]
  all_goals (congr 1; omega)

@[simp] theorem packE_2_1 (m : BitVec 6) (d : BitVec 5) (p : BitVec 5) (n : BitVec 5) (f : BitVec 6) (c : BitVec 2) (g : BitVec 3) :
    (packE m d p n f c g).extractLsb' 2 1 = g.extractLsb' 2 1 := by
  apply BitVec.eq_of_getLsbD_eq; intro i hi
  rw [BitVec.getLsbD_extractLsb', decide_eq_true hi, Bool.true_and]
  show BitVec.getLsbD (m ++ d ++ p ++ n ++ f ++ c ++ g : BitVec (6 + 5 + 5 + 5 + 6 + 2 + 3)) (2 + i) = _
  rw [BitVec.getLsbD_append, if_pos (by omega)]
  rw [BitVec.getLsbD_extractLsb', decide_eq_true (by omega), Bool.true_and]

@[simp] theorem packE_21_5 (m : BitVec 6) (d : BitVec 5) (p : BitVec 5) (n : BitVec 5) (f : BitVec 6) (c : BitVec 2) (g : BitVec 3) :
    (packE m d p n f c g).extractLsb' 21 5 = d := by
  apply BitVec.eq_of_getLsbD_eq; intro i hi
  rw [BitVec.getLsbD_extractLsb', decide_eq_true hi, Bool.true_and]
  show BitVec.getLsbD (m ++ d ++ p ++ n ++ f ++ c ++ g : BitVec (6 + 5 + 5 + 5 + 6 + 2 + 3)) (21 + i) = _
  rw [BitVec.getLsbD_append, if_neg (by omega)]
  rw [BitVec.getLsbD_append, if_neg (by omega)]
  rw [BitVec.getLsbD_append, if_neg (by omega)]
  rw [BitVec.getLsbD_append, if_neg (by omega)]
  rw [BitVec.getLsbD_append, if_neg (by omega)]
  rw [BitVec.getLsbD_append, if_pos (by omega)]
  all_goals (congr 1; omega)

@[simp] theorem packE_3_2 (m : BitVec 6) (d : BitVec 5) (p : BitVec 5) (n : BitVec 5) (f : BitVec 6) (c : BitVec 2) (g : BitVec 3) :
    (packE m d p n f c g).extractLsb' 3 2 = c := by
  apply BitVec.eq_of_getLsbD_eq; intro i hi
  rw [BitVec.getLsbD_extractLsb', decide_eq_true hi, Bool.true_and]
  show BitVec.getLsbD (m ++ d ++ p ++ n ++ f ++ c ++ g : BitVec (6 + 5 + 5 + 5 + 6 + 2 + 3)) (3 + i) = _
  rw [BitVec.getLsbD_append, if_neg (by omega)]
  rw [BitVec.getLsbD_append, if_pos (by omega)]
  all_goals (congr 1; omega)

@[simp] theorem packE_5_6 (m : BitVec 6) (d : BitVec 5) (p : BitVec 5) (n : BitVec 5) (f : BitVec 6) (c : BitVec 2) (g : BitVec 3) :
    (packE m d p n f c g).extractLsb' 5 6 = f := by
  apply BitVec.eq_of_getLsbD_eq; intro i hi
  rw [BitVec.getLsbD_extractLsb', decide_eq_true hi, Bool.true_and]
  show BitVec.getLsbD (m ++ d ++ p ++ n ++ f ++ c ++ g : BitVec (6 + 5 + 5 + 5 + 6 + 2 + 3)) (5 + i) = _
  rw [BitVec.getLsbD_append, if_neg (by omega)]
  rw [BitVec.getLsbD_append, if_neg (by omega)]
  rw [BitVec.getLsbD_append, if_pos (by omega)]
  all_goals (congr 1; omega)

@[simp] theorem packE_26_6 (m : BitVec 6) (d : BitVec 5) (p : BitVec 5) (n : BitVec 5) (f : BitVec 6) (c : BitVec 2) (g : BitVec 3) :
    (packE m d p n f c g).extractLsb' 26 6 = m := by
  apply BitVec.eq_of_getLsbD_eq; intro i hi
  rw [BitVec.getLsbD_extractLsb', decide_eq_true hi, Bool.true_and]
  show BitVec.getLsbD (m ++ d ++ p ++ n ++ f ++ c ++ g : BitVec (6 + 5 + 5 + 5 + 6 + 2 + 3)) (26 + i) = _
  rw [BitVec.getLsbD_append, if_neg (by omega)]
  rw [BitVec.getLsbD_append, if_neg (by omega)]
  rw [BitVec.getLsbD_append, if_neg (by omega)]
  rw [BitVec.getLsbD_append, if_neg (by omega)]
  rw [BitVec.getLsbD_append, if_neg (by omega)]
  rw [BitVec.getLsbD_append, if_neg (by omega)]
  all_goals (congr 1; omega)

@[simp] theorem packV_bit25 (m : BitVec 6) (k : BitVec 1) (d : BitVec 5) (x : BitVec 5) (y : BitVec 5) (c1 : BitVec 1) (c2 : BitVec 1) (h : BitVec 1) (j : BitVec 2) (f : BitVec 5) :
    (packV m k d x y c1 c2 h j f)[25] = k[0] := by
  rw [← BitVec.getLsbD_eq_getElem, ← BitVec.getLsbD_eq_getElem]
  show BitVec.getLsbD (m ++ k ++ d ++ x ++ y ++ c1 ++ c2 ++ h ++ j ++ f : BitVec (6 + 1 + 5 + 5 + 5 + 1 + 1 + 1 + 2 + 5)) 25 = _
  rw [BitVec.getLsbD_append, if_neg (by decide)]
  rw [BitVec.getLsbD_append, if_neg (by decide)]
  rw [BitVec.getLsbD_append, if_neg (by decide)]
  rw [BitVec.getLsbD_append, if_neg (by decide)]
  rw [BitVec.getLsbD_append, if_neg (by decide)]
  rw [BitVec.getLsbD_append, if_neg (by decide)]
  rw [BitVec.getLsbD_append, if_neg (by decide)]
  rw [BitVec.getLsbD_append, if_neg (by decide)]
  rw [BitVec.getLsbD_append, if_pos (by decide)]

@[simp] theorem packV_bit8 (m : BitVec 6) (k : BitVec 1) (d : BitVec 5) (x : BitVec 5) (y : BitVec 5) (c1 : BitVec 1) (c2 : BitVec 1) (h : BitVec 1) (j : BitVec 2) (f : BitVec 5) :
    (packV m k d x y c1 c2 h j f)[8] = c2[0] := by
  rw [← BitVec.getLsbD_eq_getElem, ← BitVec.getLsbD_eq_getElem]
  show BitVec.getLsbD (m ++ k ++ d ++ x ++ y ++ c1 ++ c2 ++ h ++ j ++ f : BitVec (6 + 1 + 5 + 5 + 5 + 1 + 1 + 1 + 2 + 5)) 8 = _
  rw [BitVec.getLsbD_append, if_neg (by decide)]
  rw [BitVec.getLsbD_append, if_neg (by decide)]
  rw [BitVec.getLsbD_append, if_neg (by decide)]
  rw [BitVec.getLsbD_append, if_pos (by decide)]

@[simp] theorem packV_bit9 (m : BitVec 6) (k : BitVec 1) (d : BitVec 5) (x : BitVec 5) (y : BitVec 5) (c1 : BitVec 1) (c2 : BitVec 1) (h : BitVec 1) (j : BitVec 2) (f : BitVec 5) :
    (packV m k d x y c1 c2 h j f)[9] = c1[0] := by
  rw [← BitVec.getLsbD_eq_getElem, ← BitVec.getLsbD_eq_getElem]
  show BitVec.getLsbD (m ++ k ++ d ++ x ++ y ++ c1 ++ c2 ++ h ++ j ++ f : BitVec (6 + 1 + 5 + 5 + 5 + 1 + 1 + 1 + 2 + 5)) 9 = _
  rw [BitVec.getLsbD_append, if_neg (by decide)]
  rw [BitVec.getLsbD_append, if_neg (by decide)]
  rw [BitVec.getLsbD_append, if_neg (by decide)]
  rw [BitVec.getLsbD_append, if_neg (by decide)]
  rw [BitVec.getLsbD_append, if_pos (by decide)]

@[simp] theorem packV_bit7 (m : BitVec 6) (k : BitVec 1) (d : BitVec 5) (x : BitVec 5) (y : BitVec 5) (c1 : BitVec 1) (c2 : BitVec 1) (h : BitVec 1) (j : BitVec 2) (f : BitVec 5) :
    (packV m k d x y c1 c2 h j f)[7] = h[0] := by
  rw [← BitVec.getLsbD_eq_getElem, ← BitVec.getLsbD_eq_getElem]
  show BitVec.getLsbD (m ++ k ++ d ++ x ++ y ++ c1 ++ c2 ++ h ++ j ++ f : BitVec (6 + 1 + 5 + 5 + 5 + 1 + 1 + 1 + 2 + 5)) 7 = _
  rw [BitVec.getLsbD_append, if_neg (by decide)]
  rw [BitVec.getLsbD_append, if_neg (by decide)]
  rw [BitVec.getLsbD_append, if_pos (by decide)]

@[simp] theorem packV_0_5 (m : BitVec 6) (k : BitVec 1) (d : BitVec 5) (x : BitVec 5) (y : BitVec 5) (c1 : BitVec 1) (c2 : BitVec 1) (h : BitVec 1) (j : BitVec 2) (f : BitVec 5) :
    (packV m k d x y c1 c2 h j f).extractLsb' 0 5 = f := by
  apply BitVec.eq_of_getLsbD_eq; intro i hi
  rw [BitVec.getLsbD_extractLsb', decide_eq_true hi, Bool.true_and]
  show BitVec.getLsbD (m ++ k ++ d ++ x ++ y ++ c1 ++ c2 ++ h ++ j ++ f : BitVec (6 + 1 + 5 + 5 + 5 + 1 + 1 + 1 + 2 + 5)) (0 + i) = _
  rw [BitVec.getLsbD_append, if_pos (by omega)]
  all_goals (congr 1; omega)

@[simp] theorem packV_10_3 (m : BitVec 6) (k : BitVec 1) (d : BitVec 5) (x : BitVec 5) (y : BitVec 5) (c1 : BitVec 1) (c2 : BitVec 1) (h : BitVec 1) (j : BitVec 2) (f : BitVec 5) :
    (packV m k d x y c1 c2 h j f).extractLsb' 10 3 = y.extractLsb' 0 3 := by
  apply BitVec.eq_of_getLsbD_eq; intro i hi
  rw [BitVec.getLsbD_extractLsb', decide_eq_true hi, Bool.true_and]
  show BitVec.getLsbD (m ++ k ++ d ++ x ++ y ++ c1 ++ c2 ++ h ++ j ++ f : BitVec (6 + 1 + 5 + 5 + 5 + 1 + 1 + 1 + 2 + 5)) (10 + i) = _
  rw [BitVec.getLsbD_append, if_neg (by omega)]
  rw [BitVec.getLsbD_append, if_neg (by omega)]
  rw [BitVec.getLsbD_append, if_neg (by omega)]
  rw [BitVec.getLsbD_append, if_neg (by omega)]
  rw [BitVec.getLsbD_append, if_neg (by omega)]
  rw [BitVec.getLsbD_append, if_pos (by omega)]
  rw [BitVec.getLsbD_extractLsb', decide_eq_true (by omega), Bool.true_and]
  all_goals (congr 1; omega)

@[simp] theorem packV_10_5 (m : BitVec 6) (k : BitVec 1) (d : BitVec 5) (x : BitVec 5) (y : BitVec 5) (c1 : BitVec 1) (c2 : BitVec 1) (h : BitVec 1) (j : BitVec 2) (f : BitVec 5) :
    (packV m k d x y c1 c2 h j f).extractLsb' 10 5 = y := by
  apply BitVec.eq_of_getLsbD_eq; intro i hi
  rw [BitVec.getLsbD_extractLsb', decide_eq_true hi, Bool.true_and]
  show BitVec.getLsbD (m ++ k ++ d ++ x ++ y ++ c1 ++ c2 ++ h ++ j ++ f : BitVec (6 + 1 + 5 + 5 + 5 + 1 + 1 + 1 + 2 + 5)) (10 + i) = _
  rw [BitVec.getLsbD_append, if_neg (by omega)]
  rw [BitVec.getLsbD_append, if_neg (by omega)]
  rw [BitVec.getLsbD_append, if_neg (by omega)]
  rw [BitVec.getLsbD_append, if_neg (by omega)]
  rw [BitVec.getLsbD_append, if_neg (by omega)]
  rw [BitVec.getLsbD_append, if_pos (by omega)]
  all_goals (congr 1; omega)

@[simp] theorem packV_13_2 (m : BitVec 6) (k : BitVec 1) (d : BitVec 5) (x : BitVec 5) (y : BitVec 5) (c1 : BitVec 1) (c2 : BitVec 1) (h : BitVec 1) (j : BitVec 2) (f : BitVec 5) :
    (packV m k d x y c1 c2 h j f).extractLsb' 13 2 = y.extractLsb' 3 2 := by
  apply BitVec.eq_of_getLsbD_eq; intro i hi
  rw [BitVec.getLsbD_extractLsb', decide_eq_true hi, Bool.true_and]
  show BitVec.getLsbD (m ++ k ++ d ++ x ++ y ++ c1 ++ c2 ++ h ++ j ++ f : BitVec (6 + 1 + 5 + 5 + 5 + 1 + 1 + 1 + 2 + 5)) (13 + i) = _
  rw [BitVec.getLsbD_append, if_neg (by omega)]
  rw [BitVec.getLsbD_append, if_neg (by omega)]
  rw [BitVec.getLsbD_append, if_neg (by omega)]
  rw [BitVec.getLsbD_append, if_neg (by omega)]
  rw [BitVec.getLsbD_append, if_neg (by omega)]
  rw [BitVec.getLsbD_append, if_pos (by omega)]
  rw [BitVec.getLsbD_extractLsb', decide_eq_true (by omega), Bool.true_and]
  all_goals (congr 1; omega)

@[simp] theorem packV_15_10 (m : BitVec 6) (k : BitVec 1) (d : BitVec 5) (x : BitVec 5) (y : BitVec 5) (c1 : BitVec 1) (c2 : BitVec 1) (h : BitVec 1) (j : BitVec 2) (f : BitVec 5) :
    (packV m k d x y c1 c2 h j f).extractLsb' 15 10 = d ++ x := by
  apply BitVec.eq_of_getLsbD_eq; intro i hi
  rw [BitVec.getLsbD_extractLsb', decide_eq_true hi, Bool.true_and]
  show BitVec.getLsbD (m ++ k ++ d ++ x ++ y ++ c1 ++ c2 ++ h ++ j ++ f : BitVec (6 + 1 + 5 + 5 + 5 + 1 + 1 + 1 + 2 + 5)) (15 + i) = _
  by_cases h0 : i < 5
  · rw [BitVec.getLsbD_append, if_neg (by omega)]
    rw [BitVec.getLsbD_append, if_neg (by omega)]
    rw [BitVec.getLsbD_append, if_neg (by omega)]
    rw [BitVec.getLsbD_append, if_neg (by omega)]
    rw [BitVec.getLsbD_append, if_neg (by omega)]
    rw [BitVec.getLsbD_append, if_neg (by omega)]
    rw [BitVec.getLsbD_append, if_pos (by omega)]
    show _ = BitVec.getLsbD (d ++ x : BitVec (5 + 5)) i
    rw [BitVec.getLsbD_append, if_pos (by omega)]
    all_goals (congr 1; omega)
  · rw [BitVec.getLsbD_append, if_neg (by omega)]
    rw [BitVec.getLsbD_append, if_neg (by omega)]
    rw [BitVec.getLsbD_append, if_neg (by omega)]
    rw [BitVec.getLsbD_append, if_neg (by omega)]
    rw [BitVec.getLsbD_append, if_neg (by omega)]
    rw [BitVec.getLsbD_append, if_neg (by omega)]
    rw [BitVec.getLsbD_append, if_neg (by omega)]
    rw [BitVec.getLsbD_append, if_pos (by omega)]
    show _ = BitVec.getLsbD (d ++ x : BitVec (5 + 5)) i
    rw [BitVec.getLsbD_append, if_neg (by omega)]
    all_goals (congr 1; omega)

@[simp] theorem packV_15_2 (m : BitVec 6) (k : BitVec 1) (d : BitVec 5) (x : BitVec 5) (y : BitVec 5) (c1 : BitVec 1) (c2 : BitVec 1) (h : BitVec 1) (j : BitVec 2) (f : BitVec 5) :
    (packV m k d x y c1 c2 h j f).extractLsb' 15 2 = x.extractLsb' 0 2 := by
  apply BitVec.eq_of_getLsbD_eq; intro i hi
  rw [BitVec.getLsbD_extractLsb', decide_eq_true hi, Bool.true_and]
  show BitVec.getLsbD (m ++ k ++ d ++ x ++ y ++ c1 ++ c2 ++ h ++ j ++ f : BitVec (6 + 1 + 5 + 5 + 5 + 1 + 1 + 1 + 2 + 5)) (15 + i) = _
  rw [BitVec.getLsbD_append, if_neg (by omega)]
  rw [BitVec.getLsbD_append, if_neg (by omega)]
  rw [BitVec.getLsbD_append, if_neg (by omega)]
  rw [BitVec.getLsbD_append, if_neg (by omega)]
  rw [BitVec.getLsbD_append, if_neg (by omega)]
  rw [BitVec.getLsbD_append, if_neg (by omega)]
  rw [BitVec.getLsbD_append, if_pos (by omega)]
  rw [BitVec.getLsbD_extractLsb', decide_eq_true (by omega), Bool.true_and]
  all_goals (congr 1; omega)

@[simp] theorem packV_15_3 (m : BitVec 6) (k : BitVec 1) (d : BitVec 5) (x : BitVec 5) (y : BitVec 5) (c1 : BitVec 1) (c2 : BitVec 1) (h : BitVec 1) (j : BitVec 2) (f : BitVec 5) :
    (packV m k d x y c1 c2 h j f).extractLsb' 15 3 = x.extractLsb' 0 3 := by
  apply BitVec.eq_of_getLsbD_eq; intro i hi
  rw [BitVec.getLsbD_extractLsb', decide_eq_true hi, Bool.true_and]
  show BitVec.getLsbD (m ++ k ++ d ++ x ++ y ++ c1 ++ c2 ++ h ++ j ++ f : BitVec (6 + 1 + 5 + 5 + 5 + 1 + 1 + 1 + 2 + 5)) (15 + i) = _
  rw [BitVec.getLsbD_append, if_neg (by omega)]
  rw [BitVec.getLsbD_append, if_neg (by omega)]
  rw [BitVec.getLsbD_append, if_neg (by omega)]
  rw [BitVec.getLsbD_append, if_neg (by omega)]
  rw [BitVec.getLsbD_append, if_neg (by omega)]
  rw [BitVec.getLsbD_append, if_neg (by omega)]
  rw [BitVec.getLsbD_append, if_pos (by omega)]
  rw [BitVec.getLsbD_extractLsb', decide_eq_true (by omega), Bool.true_and]
  all_goals (congr 1; omega)

@[simp] theorem packV_15_5 (m : BitVec 6) (k : BitVec 1) (d : BitVec 5) (x : BitVec 5) (y : BitVec 5) (c1 : BitVec 1) (c2 : BitVec 1) (h : BitVec 1) (j : BitVec 2) (f : BitVec 5) :
    (packV m k d x y c1 c2 h j f).extractLsb' 15 5 = x := by
  apply BitVec.eq_of_getLsbD_eq; intro i hi
  rw [BitVec.getLsbD_extractLsb', decide_eq_true hi, Bool.true_and]
  show BitVec.getLsbD (m ++ k ++ d ++ x ++ y ++ c1 ++ c2 ++ h ++ j ++ f : BitVec (6 + 1 + 5 + 5 + 5 + 1 + 1 + 1 + 2 + 5)) (15 + i) = _
  rw [BitVec.getLsbD_append, if_neg (by omega)]
  rw [BitVec.getLsbD_append, if_neg (by omega)]
  rw [BitVec.getLsbD_append, if_neg (by omega)]
  rw [BitVec.getLsbD_append, if_neg (by omega)]
  rw [BitVec.getLsbD_append, if_neg (by omega)]
  rw [BitVec.getLsbD_append, if_neg (by omega)]
  rw [BitVec.getLsbD_append, if_pos (by omega)]
  all_goals (congr 1; omega)

@[simp] theorem packV_17_8 (m : BitVec 6) (k : BitVec 1) (d : BitVec 5) (x : BitVec 5) (y : BitVec 5) (c1 : BitVec 1) (c2 : BitVec 1) (h : BitVec 1) (j : BitVec 2) (f : BitVec 5) :
    (packV m k d x y c1 c2 h j f).extractLsb' 17 8 = d ++ (x.extractLsb' 2 3) := by
  apply BitVec.eq_of_getLsbD_eq; intro i hi
  rw [BitVec.getLsbD_extractLsb', decide_eq_true hi, Bool.true_and]
  show BitVec.getLsbD (m ++ k ++ d ++ x ++ y ++ c1 ++ c2 ++ h ++ j ++ f : BitVec (6 + 1 + 5 + 5 + 5 + 1 + 1 + 1 + 2 + 5)) (17 + i) = _
  by_cases h0 : i < 3
  · rw [BitVec.getLsbD_append, if_neg (by omega)]
    rw [BitVec.getLsbD_append, if_neg (by omega)]
    rw [BitVec.getLsbD_append, if_neg (by omega)]
    rw [BitVec.getLsbD_append, if_neg (by omega)]
    rw [BitVec.getLsbD_append, if_neg (by omega)]
    rw [BitVec.getLsbD_append, if_neg (by omega)]
    rw [BitVec.getLsbD_append, if_pos (by omega)]
    show _ = BitVec.getLsbD (d ++ (x.extractLsb' 2 3) : BitVec (5 + 3)) i
    rw [BitVec.getLsbD_append, if_pos (by omega)]
    rw [BitVec.getLsbD_extractLsb', decide_eq_true (by omega), Bool.true_and]
    all_goals (congr 1; omega)
  · rw [BitVec.getLsbD_append, if_neg (by omega)]
    rw [BitVec.getLsbD_append, if_neg (by omega)]
    rw [BitVec.getLsbD_append, if_neg (by omega)]
    rw [BitVec.getLsbD_append, if_neg (by omega)]
    rw [BitVec.getLsbD_append, if_neg (by omega)]
    rw [BitVec.getLsbD_append, if_neg (by omega)]
    rw [BitVec.getLsbD_append, if_neg (by omega)]
    rw [BitVec.getLsbD_append, if_pos (by omega)]
    show _ = BitVec.getLsbD (d ++ (x.extractLsb' 2 3) : BitVec (5 + 3)) i
    rw [BitVec.getLsbD_append, if_neg (by omega)]
    all_goals (congr 1; omega)

@[simp] theorem packV_18_2 (m : BitVec 6) (k : BitVec 1) (d : BitVec 5) (x : BitVec 5) (y : BitVec 5) (c1 : BitVec 1) (c2 : BitVec 1) (h : BitVec 1) (j : BitVec 2) (f : BitVec 5) :
    (packV m k d x y c1 c2 h j f).extractLsb' 18 2 = x.extractLsb' 3 2 := by
  apply BitVec.eq_of_getLsbD_eq; intro i hi
  rw [BitVec.getLsbD_extractLsb', decide_eq_true hi, Bool.true_and]
  show BitVec.getLsbD (m ++ k ++ d ++ x ++ y ++ c1 ++ c2 ++ h ++ j ++ f : BitVec (6 + 1 + 5 + 5 + 5 + 1 + 1 + 1 + 2 + 5)) (18 + i) = _
  rw [BitVec.getLsbD_append, if_neg (by omega)]
  rw [BitVec.getLsbD_append, if_neg (by omega)]
  rw [BitVec.getLsbD_append, if_neg (by omega)]
  rw [BitVec.getLsbD_append, if_neg (by omega)]
  rw [BitVec.getLsbD_append, if_neg (by omega)]
  rw [BitVec.getLsbD_append, if_neg (by omega)]
  rw [BitVec.getLsbD_append, if_pos (by omega)]
  rw [BitVec.getLsbD_extractLsb', decide_eq_true (by omega), Bool.true_and]
  all_goals (congr 1; omega)

@[simp] theorem packV_20_5 (m : BitVec 6) (k : BitVec 1) (d : BitVec 5) (x : BitVec 5) (y : BitVec 5) (c1 : BitVec 1) (c2 : BitVec 1) (h : BitVec 1) (j : BitVec 2) (f : BitVec 5) :
    (packV m k d x y c1 c2 h j f).extractLsb' 20 5 = d := by
  apply BitVec.eq_of_getLsbD_eq; intro i hi
  rw [BitVec.getLsbD_extractLsb', decide_eq_true hi, Bool.true_and]
  show BitVec.getLsbD (m ++ k ++ d ++ x ++ y ++ c1 ++ c2 ++ h ++ j ++ f : BitVec (6 + 1 + 5 + 5 + 5 + 1 + 1 + 1 + 2 + 5)) (20 + i) = _
  rw [BitVec.getLsbD_append, if_neg (by omega)]
  rw [BitVec.getLsbD_append, if_neg (by omega)]
  rw [BitVec.getLsbD_append, if_neg (by omega)]
  rw [BitVec.getLsbD_append, if_neg (by omega)]
  rw [BitVec.getLsbD_append, if_neg (by omega)]
  rw [BitVec.getLsbD_append, if_neg (by omega)]
  rw [BitVec.getLsbD_append, if_neg (by omega)]
  rw [BitVec.getLsbD_append, if_pos (by omega)]
  all_goals (congr 1; omega)

@[simp] theorem packV_5_10 (m : BitVec 6) (k : BitVec 1) (d : BitVec 5) (x : BitVec 5) (y : BitVec 5) (c1 : BitVec 1) (c2 : BitVec 1) (h : BitVec 1) (j : BitVec 2) (f : BitVec 5) :
    (packV m k d x y c1 c2 h j f).extractLsb' 5 10 = y ++ c1 ++ c2 ++ h ++ j := by
  apply BitVec.eq_of_getLsbD_eq; intro i hi
  rw [BitVec.getLsbD_extractLsb', decide_eq_true hi, Bool.true_and]
  show BitVec.getLsbD (m ++ k ++ d ++ x ++ y ++ c1 ++ c2 ++ h ++ j ++ f : BitVec (6 + 1 + 5 + 5 + 5 + 1 + 1 + 1 + 2 + 5)) (5 + i) = _
  by_cases h0 : i < 2
  · rw [BitVec.getLsbD_append, if_neg (by omega)]
    rw [BitVec.getLsbD_append, if_pos (by omega)]
    show _ = BitVec.getLsbD (y ++ c1 ++ c2 ++ h ++ j : BitVec (5 + 1 + 1 + 1 + 2)) i
    rw [BitVec.getLsbD_append, if_pos (by omega)]
    all_goals (congr 1; omega)
  · by_cases h1 : i < 3
    · rw [BitVec.getLsbD_append, if_neg (by omega)]
      rw [BitVec.getLsbD_append, if_neg (by omega)]
      rw [BitVec.getLsbD_append, if_pos (by omega)]
      show _ = BitVec.getLsbD (y ++ c1 ++ c2 ++ h ++ j : BitVec (5 + 1 + 1 + 1 + 2)) i
      rw [BitVec.getLsbD_append, if_neg (by omega)]
      rw [BitVec.getLsbD_append, if_pos (by omega)]
      all_goals (congr 1; omega)
    · by_cases h2 : i < 4
      · rw [BitVec.getLsbD_append, if_neg (by omega)]
        rw [BitVec.getLsbD_append, if_neg (by omega)]
        rw [BitVec.getLsbD_append, if_neg (by omega)]
        rw [BitVec.getLsbD_append, if_pos (by omega)]
        show _ = BitVec.getLsbD (y ++ c1 ++ c2 ++ h ++ j : BitVec (5 + 1 + 1 + 1 + 2)) i
        rw [BitVec.getLsbD_append, if_neg (by omega)]
        rw [BitVec.getLsbD_append, if_neg (by omega)]
        rw [BitVec.getLsbD_append, if_pos (by omega)]
        all_goals (congr 1; omega)
      · by_cases h3 : i < 5
        · rw [BitVec.getLsbD_append, if_neg (by omega)]
          rw [BitVec.getLsbD_append, if_neg (by omega)]
          rw [BitVec.getLsbD_append, if_neg (by omega)]
          rw [BitVec.getLsbD_append, if_neg (by omega)]
          rw [BitVec.getLsbD_append, if_pos (by omega)]
          show _ = BitVec.getLsbD (y ++ c1 ++ c2 ++ h ++ j : BitVec (5 + 1 + 1 + 1 + 2)) i
          rw [BitVec.getLsbD_append, if_neg (by omega)]
          rw [BitVec.getLsbD_append, if_neg (by omega)]
          rw [BitVec.getLsbD_append, if_neg (by omega)]
          rw [BitVec.getLsbD_append, if_pos (by omega)]
          all_goals (congr 1; omega)
        · rw [BitVec.getLsbD_append, if_neg (by omega)]
          rw [BitVec.getLsbD_append, if_neg (by omega)]
          rw [BitVec.getLsbD_append, if_neg (by omega)]
          rw [BitVec.getLsbD_append, if_neg (by omega)]
          rw [BitVec.getLsbD_append, if_neg (by omega)]
          rw [BitVec.getLsbD_append, if_pos (by omega)]
          show _ = BitVec.getLsbD (y ++ c1 ++ c2 ++ h ++ j : BitVec (5 + 1 + 1 + 1 + 2)) i
          rw [BitVec.getLsbD_append, if_neg (by omega)]
          rw [BitVec.getLsbD_append, if_neg (by omega)]
          rw [BitVec.getLsbD_append, if_neg (by omega)]
          rw [BitVec.getLsbD_append, if_neg (by omega)]
          all_goals (congr 1; omega)

@[simp] theorem packV_5_15 (m : BitVec 6) (k : BitVec 1) (d : BitVec 5) (x : BitVec 5) (y : BitVec 5) (c1 : BitVec 1) (c2 : BitVec 1) (h : BitVec 1) (j : BitVec 2) (f : BitVec 5) :
    (packV m k d x y c1 c2 h j f).extractLsb' 5 15 = x ++ y ++ c1 ++ c2 ++ h ++ j := by
  apply BitVec.eq_of_getLsbD_eq; intro i hi
  rw [BitVec.getLsbD_extractLsb', decide_eq_true hi, Bool.true_and]
  show BitVec.getLsbD (m ++ k ++ d ++ x ++ y ++ c1 ++ c2 ++ h ++ j ++ f : BitVec (6 + 1 + 5 + 5 + 5 + 1 + 1 + 1 + 2 + 5)) (5 + i) = _
  by_cases h0 : i < 2
  · rw [BitVec.getLsbD_append, if_neg (by omega)]
    rw [BitVec.getLsbD_append, if_pos (by omega)]
    show _ = BitVec.getLsbD (x ++ y ++ c1 ++ c2 ++ h ++ j : BitVec (5 + 5 + 1 + 1 + 1 + 2)) i
    rw [BitVec.getLsbD_append, if_pos (by omega)]
    all_goals (congr 1; omega)
  · by_cases h1 : i < 3
    · rw [BitVec.getLsbD_append, if_neg (by omega)]
      rw [BitVec.getLsbD_append, if_neg (by omega)]
      rw [BitVec.getLsbD_append, if_pos (by omega)]
      show _ = BitVec.getLsbD (x ++ y ++ c1 ++ c2 ++ h ++ j : BitVec (5 + 5 + 1 + 1 + 1 + 2)) i
      rw [BitVec.getLsbD_append, if_neg (by omega)]
      rw [BitVec.getLsbD_append, if_pos (by omega)]
      all_goals (congr 1; omega)
    · by_cases h2 : i < 4
      · rw [BitVec.getLsbD_append, if_neg (by omega)]
        rw [BitVec.getLsbD_append, if_neg (by omega)]
        rw [BitVec.getLsbD_append, if_neg (by omega)]
        rw [BitVec.getLsbD_append, if_pos (by omega)]
        show _ = BitVec.getLsbD (x ++ y ++ c1 ++ c2 ++ h ++ j : BitVec (5 + 5 + 1 + 1 + 1 + 2)) i
        rw [BitVec.getLsbD_append, if_neg (by omega)]
        rw [BitVec.getLsbD_append, if_neg (by omega)]
        rw [BitVec.getLsbD_append, if_pos (by omega)]
        all_goals (congr 1; omega)
      · by_cases h3 : i < 5
        · rw [BitVec.getLsbD_append, if_neg (by omega)]
          rw [BitVec.getLsbD_append, if_neg (by omega)]
          rw [BitVec.getLsbD_append, if_neg (by omega)]
          rw [BitVec.getLsbD_append, if_neg (by omega)]
          rw [BitVec.getLsbD_append, if_pos (by omega)]
          show _ = BitVec.getLsbD (x ++ y ++ c1 ++ c2 ++ h ++ j : BitVec (5 + 5 + 1 + 1 + 1 + 2)) i
          rw [BitVec.getLsbD_append, if_neg (by omega)]
          rw [BitVec.getLsbD_append, if_neg (by omega)]
          rw [BitVec.getLsbD_append, if_neg (by omega)]
          rw [BitVec.getLsbD_append, if_pos (by omega)]
          all_goals (congr 1; omega)
        · by_cases h4 : i < 10
          · rw [BitVec.getLsbD_append, if_neg (by omega)]
            rw [BitVec.getLsbD_append, if_neg (by omega)]
            rw [BitVec.getLsbD_append, if_neg (by omega)]
            rw [BitVec.getLsbD_append, if_neg (by omega)]
            rw [BitVec.getLsbD_append, if_neg (by omega)]
            rw [BitVec.getLsbD_append, if_pos (by omega)]
            show _ = BitVec.getLsbD (x ++ y ++ c1 ++ c2 ++ h ++ j : BitVec (5 + 5 + 1 + 1 + 1 + 2)) i
            rw [BitVec.getLsbD_append, if_neg (by omega)]
            rw [BitVec.getLsbD_append, if_neg (by omega)]
            rw [BitVec.getLsbD_append, if_neg (by omega)]
            rw [BitVec.getLsbD_append, if_neg (by omega)]
            rw [BitVec.getLsbD_append, if_pos (by omega)]
            all_goals (congr 1; omega)
          · rw [BitVec.getLsbD_append, if_neg (by omega)]
            rw [BitVec.getLsbD_append, if_neg (by omega)]
            rw [BitVec.getLsbD_append, if_neg (by omega)]
            rw [BitVec.getLsbD_append, if_neg (by omega)]
            rw [BitVec.getLsbD_append, if_neg (by omega)]
            rw [BitVec.getLsbD_append, if_neg (by omega)]
            rw [BitVec.getLsbD_append, if_pos (by omega)]
            show _ = BitVec.getLsbD (x ++ y ++ c1 ++ c2 ++ h ++ j : BitVec (5 + 5 + 1 + 1 + 1 + 2)) i
            rw [BitVec.getLsbD_append, if_neg (by omega)]
            rw [BitVec.getLsbD_append, if_neg (by omega)]
            rw [BitVec.getLsbD_append, if_neg (by omega)]
            rw [BitVec.getLsbD_append, if_neg (by omega)]
            rw [BitVec.getLsbD_append, if_neg (by omega)]
            all_goals (congr 1; omega)

@[simp] theorem packV_5_2 (m : BitVec 6) (k : BitVec 1) (d : BitVec 5) (x : BitVec 5) (y : BitVec 5) (c1 : BitVec 1) (c2 : BitVec 1) (h : BitVec 1) (j : BitVec 2) (f : BitVec 5) :
    (packV m k d x y c1 c2 h j f).extractLsb' 5 2 = j := by
  apply BitVec.eq_of_getLsbD_eq; intro i hi
  rw [BitVec.getLsbD_extractLsb', decide_eq_true hi, Bool.true_and]
  show BitVec.getLsbD (m ++ k ++ d ++ x ++ y ++ c1 ++ c2 ++ h ++ j ++ f : BitVec (6 + 1 + 5 + 5 + 5 + 1 + 1 + 1 + 2 + 5)) (5 + i) = _
  rw [BitVec.getLsbD_append, if_neg (by omega)]
  rw [BitVec.getLsbD_append, if_pos (by omega)]
  all_goals (congr 1; omega)

@[simp] theorem packV_5_3 (m : BitVec 6) (k : BitVec 1) (d : BitVec 5) (x : BitVec 5) (y : BitVec 5) (c1 : BitVec 1) (c2 : BitVec 1) (h : BitVec 1) (j : BitVec 2) (f : BitVec 5) :
    (packV m k d x y c1 c2 h j f).extractLsb' 5 3 = h ++ j := by
  apply BitVec.eq_of_getLsbD_eq; intro i hi
  rw [BitVec.getLsbD_extractLsb', decide_eq_true hi, Bool.true_and]
  show BitVec.getLsbD (m ++ k ++ d ++ x ++ y ++ c1 ++ c2 ++ h ++ j ++ f : BitVec (6 + 1 + 5 + 5 + 5 + 1 + 1 + 1 + 2 + 5)) (5 + i) = _
  by_cases h0 : i < 2
  · rw [BitVec.getLsbD_append, if_neg (by omega)]
    rw [BitVec.getLsbD_append, if_pos (by omega)]
    show _ = BitVec.getLsbD (h ++ j : BitVec (1 + 2)) i
    rw [BitVec.getLsbD_append, if_pos (by omega)]
    all_goals (congr 1; omega)
  · rw [BitVec.getLsbD_append, if_neg (by omega)]
    rw [BitVec.getLsbD_append, if_neg (by omega)]
    rw [BitVec.getLsbD_append, if_pos (by omega)]
    show _ = BitVec.getLsbD (h ++ j : BitVec (1 + 2)) i
    rw [BitVec.getLsbD_append, if_neg (by omega)]
    all_goals (congr 1; omega)

@[simp] theorem packV_5_5 (m : BitVec 6) (k : BitVec 1) (d : BitVec 5) (x : BitVec 5) (y : BitVec 5) (c1 : BitVec 1) (c2 : BitVec 1) (h : BitVec 1) (j : BitVec 2) (f : BitVec 5) :
    (packV m k d x y c1 c2 h j f).extractLsb' 5 5 = c1 ++ c2 ++ h ++ j := by
  apply BitVec.eq_of_getLsbD_eq; intro i hi
  rw [BitVec.getLsbD_extractLsb', decide_eq_true hi, Bool.true_and]
  show BitVec.getLsbD (m ++ k ++ d ++ x ++ y ++ c1 ++ c2 ++ h ++ j ++ f : BitVec (6 + 1 + 5 + 5 + 5 + 1 + 1 + 1 + 2 + 5)) (5 + i) = _
  by_cases h0 : i < 2
  · rw [BitVec.getLsbD_append, if_neg (by omega)]
    rw [BitVec.getLsbD_append, if_pos (by omega)]
    show _ = BitVec.getLsbD (c1 ++ c2 ++ h ++ j : BitVec (1 + 1 + 1 + 2)) i
    rw [BitVec.getLsbD_append, if_pos (by omega)]
    all_goals (congr 1; omega)
  · by_cases h1 : i < 3
    · rw [BitVec.getLsbD_append, if_neg (by omega)]
      rw [BitVec.getLsbD_append, if_neg (by omega)]
      rw [BitVec.getLsbD_append, if_pos (by omega)]
      show _ = BitVec.getLsbD (c1 ++ c2 ++ h ++ j : BitVec (1 + 1 + 1 + 2)) i
      rw [BitVec.getLsbD_append, if_neg (by omega)]
      rw [BitVec.getLsbD_append, if_pos (by omega)]
      all_goals (congr 1; omega)
    · by_cases h2 : i < 4
      · rw [BitVec.getLsbD_append, if_neg (by omega)]
        rw [BitVec.getLsbD_append, if_neg (by omega)]
        rw [BitVec.getLsbD_append, if_neg (by omega)]
        rw [BitVec.getLsbD_append, if_pos (by omega)]
        show _ = BitVec.getLsbD (c1 ++ c2 ++ h ++ j : BitVec (1 + 1 + 1 + 2)) i
        rw [BitVec.getLsbD_append, if_neg (by omega)]
        rw [BitVec.getLsbD_append, if_neg (by omega)]
        rw [BitVec.getLsbD_append, if_pos (by omega)]
        all_goals (congr 1; omega)
      · rw [BitVec.getLsbD_append, if_neg (by omega)]
        rw [BitVec.getLsbD_append, if_neg (by omega)]
        rw [BitVec.getLsbD_append, if_neg (by omega)]
        rw [BitVec.getLsbD_append, if_neg (by omega)]
        rw [BitVec.getLsbD_append, if_pos (by omega)]
        show _ = BitVec.getLsbD (c1 ++ c2 ++ h ++ j : BitVec (1 + 1 + 1 + 2)) i
        rw [BitVec.getLsbD_append, if_neg (by omega)]
        rw [BitVec.getLsbD_append, if_neg (by omega)]
        rw [BitVec.getLsbD_append, if_neg (by omega)]
        all_goals (congr 1; omega)

@[simp] theorem packV_7_1 (m : BitVec 6) (k : BitVec 1) (d : BitVec 5) (x : BitVec 5) (y : BitVec 5) (c1 : BitVec 1) (c2 : BitVec 1) (h : BitVec 1) (j : BitVec 2) (f : BitVec 5) :
    (packV m k d x y c1 c2 h j f).extractLsb' 7 1 = h := by
  apply BitVec.eq_of_getLsbD_eq; intro i hi
  rw [BitVec.getLsbD_extractLsb', decide_eq_true hi, Bool.true_and]
  show BitVec.getLsbD (m ++ k ++ d ++ x ++ y ++ c1 ++ c2 ++ h ++ j ++ f : BitVec (6 + 1 + 5 + 5 + 5 + 1 + 1 + 1 + 2 + 5)) (7 + i) = _
  rw [BitVec.getLsbD_append, if_neg (by omega)]
  rw [BitVec.getLsbD_append, if_neg (by omega)]
  rw [BitVec.getLsbD_append, if_pos (by omega)]
  all_goals (congr 1; omega)

@[simp] theorem packV_8_1 (m : BitVec 6) (k : BitVec 1) (d : BitVec 5) (x : BitVec 5) (y : BitVec 5) (c1 : BitVec 1) (c2 : BitVec 1) (h : BitVec 1) (j : BitVec 2) (f : BitVec 5) :
    (packV m k d x y c1 c2 h j f).extractLsb' 8 1 = c2 := by
  apply BitVec.eq_of_getLsbD_eq; intro i hi
  rw [BitVec.getLsbD_extractLsb', decide_eq_true hi, Bool.true_and]
  show BitVec.getLsbD (m ++ k ++ d ++ x ++ y ++ c1 ++ c2 ++ h ++ j ++ f : BitVec (6 + 1 + 5 + 5 + 5 + 1 + 1 + 1 + 2 + 5)) (8 + i) = _
  rw [BitVec.getLsbD_append, if_neg (by omega)]
  rw [BitVec.getLsbD_append, if_neg (by omega)]
  rw [BitVec.getLsbD_append, if_neg (by omega)]
  rw [BitVec.getLsbD_append, if_pos (by omega)]
  all_goals (congr 1; omega)

@[simp] theorem packV_8_12 (m : BitVec 6) (k : BitVec 1) (d : BitVec 5) (x : BitVec 5) (y : BitVec 5) (c1 : BitVec 1) (c2 : BitVec 1) (h : BitVec 1) (j : BitVec 2) (f : BitVec 5) :
    (packV m k d x y c1 c2 h j f).extractLsb' 8 12 = x ++ y ++ c1 ++ c2 := by
  apply BitVec.eq_of_getLsbD_eq; intro i hi
  rw [BitVec.getLsbD_extractLsb', decide_eq_true hi, Bool.true_and]
  show BitVec.getLsbD (m ++ k ++ d ++ x ++ y ++ c1 ++ c2 ++ h ++ j ++ f : BitVec (6 + 1 + 5 + 5 + 5 + 1 + 1 + 1 + 2 + 5)) (8 + i) = _
  by_cases h0 : i < 1
  · rw [BitVec.getLsbD_append, if_neg (by omega)]
    rw [BitVec.getLsbD_append, if_neg (by omega)]
    rw [BitVec.getLsbD_append, if_neg (by omega)]
    rw [BitVec.getLsbD_append, if_pos (by omega)]
    show _ = BitVec.getLsbD (x ++ y ++ c1 ++ c2 : BitVec (5 + 5 + 1 + 1)) i
    rw [BitVec.getLsbD_append, if_pos (by omega)]
    all_goals (congr 1; omega)
  · by_cases h1 : i < 2
    · rw [BitVec.getLsbD_append, if_neg (by omega)]
      rw [BitVec.getLsbD_append, if_neg (by omega)]
      rw [BitVec.getLsbD_append, if_neg (by omega)]
      rw [BitVec.getLsbD_append, if_neg (by omega)]
      rw [BitVec.getLsbD_append, if_pos (by omega)]
      show _ = BitVec.getLsbD (x ++ y ++ c1 ++ c2 : BitVec (5 + 5 + 1 + 1)) i
      rw [BitVec.getLsbD_append, if_neg (by omega)]
      rw [BitVec.getLsbD_append, if_pos (by omega)]
      all_goals (congr 1; omega)
    · by_cases h2 : i < 7
      · rw [BitVec.getLsbD_append, if_neg (by omega)]
        rw [BitVec.getLsbD_append, if_neg (by omega)]
        rw [BitVec.getLsbD_append, if_neg (by omega)]
        rw [BitVec.getLsbD_append, if_neg (by omega)]
        rw [BitVec.getLsbD_append, if_neg (by omega)]
        rw [BitVec.getLsbD_append, if_pos (by omega)]
        show _ = BitVec.getLsbD (x ++ y ++ c1 ++ c2 : BitVec (5 + 5 + 1 + 1)) i
        rw [BitVec.getLsbD_append, if_neg (by omega)]
        rw [BitVec.getLsbD_append, if_neg (by omega)]
        rw [BitVec.getLsbD_append, if_pos (by omega)]
        all_goals (congr 1; omega)
      · rw [BitVec.getLsbD_append, if_neg (by omega)]
        rw [BitVec.getLsbD_append, if_neg (by omega)]
        rw [BitVec.getLsbD_append, if_neg (by omega)]
        rw [BitVec.getLsbD_append, if_neg (by omega)]
        rw [BitVec.getLsbD_append, if_neg (by omega)]
        rw [BitVec.getLsbD_append, if_neg (by omega)]
        rw [BitVec.getLsbD_append, if_pos (by omega)]
        show _ = BitVec.getLsbD (x ++ y ++ c1 ++ c2 : BitVec (5 + 5 + 1 + 1)) i
        rw [BitVec.getLsbD_append, if_neg (by omega)]
        rw [BitVec.getLsbD_append, if_neg (by omega)]
        rw [BitVec.getLsbD_append, if_neg (by omega)]
        all_goals (congr 1; omega)

@[simp] theorem packV_8_2 (m : BitVec 6) (k : BitVec 1) (d : BitVec 5) (x : BitVec 5) (y : BitVec 5) (c1 : BitVec 1) (c2 : BitVec 1) (h : BitVec 1) (j : BitVec 2) (f : BitVec 5) :
    (packV m k d x y c1 c2 h j f).extractLsb' 8 2 = c1 ++ c2 := by
  apply BitVec.eq_of_getLsbD_eq; intro i hi
  rw [BitVec.getLsbD_extractLsb', decide_eq_true hi, Bool.true_and]
  show BitVec.getLsbD (m ++ k ++ d ++ x ++ y ++ c1 ++ c2 ++ h ++ j ++ f : BitVec (6 + 1 + 5 + 5 + 5 + 1 + 1 + 1 + 2 + 5)) (8 + i) = _
  by_cases h0 : i < 1
  · rw [BitVec.getLsbD_append, if_neg (by omega)]
    rw [BitVec.getLsbD_append, if_neg (by omega)]
    rw [BitVec.getLsbD_append, if_neg (by omega)]
    rw [BitVec.getLsbD_append, if_pos (by omega)]
    show _ = BitVec.getLsbD (c1 ++ c2 : BitVec (1 + 1)) i
    rw [BitVec.getLsbD_append, if_pos (by omega)]
    all_goals (congr 1; omega)
  · rw [BitVec.getLsbD_append, if_neg (by omega)]
    rw [BitVec.getLsbD_append, if_neg (by omega)]
    rw [BitVec.getLsbD_append, if_neg (by omega)]
    rw [BitVec.getLsbD_append, if_neg (by omega)]
    rw [BitVec.getLsbD_append, if_pos (by omega)]
    show _ = BitVec.getLsbD (c1 ++ c2 : BitVec (1 + 1)) i
    rw [BitVec.getLsbD_append, if_neg (by omega)]
    all_goals (congr 1; omega)

@[simp] theorem packV_8_7 (m : BitVec 6) (k : BitVec 1) (d : BitVec 5) (x : BitVec 5) (y : BitVec 5) (c1 : BitVec 1) (c2 : BitVec 1) (h : BitVec 1) (j : BitVec 2) (f : BitVec 5) :
    (packV m k d x y c1 c2 h j f).extractLsb' 8 7 = y ++ c1 ++ c2 := by
  apply BitVec.eq_of_getLsbD_eq; intro i hi
  rw [BitVec.getLsbD_extractLsb', decide_eq_true hi, Bool.true_and]
  show BitVec.getLsbD (m ++ k ++ d ++ x ++ y ++ c1 ++ c2 ++ h ++ j ++ f : BitVec (6 + 1 + 5 + 5 + 5 + 1 + 1 + 1 + 2 + 5)) (8 + i) = _
  by_cases h0 : i < 1
  · rw [BitVec.getLsbD_append, if_neg (by omega)]
    rw [BitVec.getLsbD_append, if_neg (by omega)]
    rw [BitVec.getLsbD_append, if_neg (by omega)]
    rw [BitVec.getLsbD_append, if_pos (by omega)]
    show _ = BitVec.getLsbD (y ++ c1 ++ c2 : BitVec (5 + 1 + 1)) i
    rw [BitVec.getLsbD_append, if_pos (by omega)]
    all_goals (congr 1; omega)
  · by_cases h1 : i < 2
    · rw [BitVec.getLsbD_append, if_neg (by omega)]
      rw [BitVec.getLsbD_append, if_neg (by omega)]
      rw [BitVec.getLsbD_append, if_neg (by omega)]
      rw [BitVec.getLsbD_append, if_neg (by omega)]
      rw [BitVec.getLsbD_append, if_pos (by omega)]
      show _ = BitVec.getLsbD (y ++ c1 ++ c2 : BitVec (5 + 1 + 1)) i
      rw [BitVec.getLsbD_append, if_neg (by omega)]
      rw [BitVec.getLsbD_append, if_pos (by omega)]
      all_goals (congr 1; omega)
    · rw [BitVec.getLsbD_append, if_neg (by omega)]
      rw [BitVec.getLsbD_append, if_neg (by omega)]
      rw [BitVec.getLsbD_append, if_neg (by omega)]
      rw [BitVec.getLsbD_append, if_neg (by omega)]
      rw [BitVec.getLsbD_append, if_neg (by omega)]
      rw [BitVec.getLsbD_append, if_pos (by omega)]
      show _ = BitVec.getLsbD (y ++ c1 ++ c2 : BitVec (5 + 1 + 1)) i
      rw [BitVec.getLsbD_append, if_neg (by omega)]
      rw [BitVec.getLsbD_append, if_neg (by omega)]
      all_goals (congr 1; omega)

@[simp] theorem packV_9_1 (m : BitVec 6) (k : BitVec 1) (d : BitVec 5) (x : BitVec 5) (y : BitVec 5) (c1 : BitVec 1) (c2 : BitVec 1) (h : BitVec 1) (j : BitVec 2) (f : BitVec 5) :
    (packV m k d x y c1 c2 h j f).extractLsb' 9 1 = c1 := by
  apply BitVec.eq_of_getLsbD_eq; intro i hi
  rw [BitVec.getLsbD_extractLsb', decide_eq_true hi, Bool.true_and]
  show BitVec.getLsbD (m ++ k ++ d ++ x ++ y ++ c1 ++ c2 ++ h ++ j ++ f : BitVec (6 + 1 + 5 + 5 + 5 + 1 + 1 + 1 + 2 + 5)) (9 + i) = _
  rw [BitVec.getLsbD_append, if_neg (by omega)]
  rw [BitVec.getLsbD_append, if_neg (by omega)]
  rw [BitVec.getLsbD_append, if_neg (by omega)]
  rw [BitVec.getLsbD_append, if_neg (by omega)]
  rw [BitVec.getLsbD_append, if_pos (by omega)]
  all_goals (congr 1; omega)

@[simp] theorem packV_26_6 (m : BitVec 6) (k : BitVec 1) (d : BitVec 5) (x : BitVec 5) (y : BitVec 5) (c1 : BitVec 1) (c2 : BitVec 1) (h : BitVec 1) (j : BitVec 2) (f : BitVec 5) :
    (packV m k d x y c1 c2 h j f).extractLsb' 26 6 = m := by
  apply BitVec.eq_of_getLsbD_eq; intro i hi
  rw [BitVec.getLsbD_extractLsb', decide_eq_true hi, Bool.true_and]
  show BitVec.getLsbD (m ++ k ++ d ++ x ++ y ++ c1 ++ c2 ++ h ++ j ++ f : BitVec (6 + 1 + 5 + 5 + 5 + 1 + 1 + 1 + 2 + 5)) (26 + i) = _
  rw [BitVec.getLsbD_append, if_neg (by omega)]
  rw [BitVec.getLsbD_append, if_neg (by omega)]
  rw [BitVec.getLsbD_append, if_neg (by omega)]
  rw [BitVec.getLsbD_append, if_neg (by omega)]
  rw [BitVec.getLsbD_append, if_neg (by omega)]
  rw [BitVec.getLsbD_append, if_neg (by omega)]
  rw [BitVec.getLsbD_append, if_neg (by omega)]
  rw [BitVec.getLsbD_append, if_neg (by omega)]
  rw [BitVec.getLsbD_append, if_neg (by omega)]
  all_goals (congr 1; omega)

@[simp] theorem packVC_bit25 (m : BitVec 6) (k : BitVec 1) (d : BitVec 5) (a : BitVec 5) (t : BitVec 10) (f : BitVec 5) :
    (packVC m k d a t f)[25] = k[0] := by
  rw [← BitVec.getLsbD_eq_getElem, ← BitVec.getLsbD_eq_getElem]
  show BitVec.getLsbD (m ++ k ++ d ++ a ++ t ++ f : BitVec (6 + 1 + 5 + 5 + 10 + 5)) 25 = _
  rw [BitVec.getLsbD_append, if_neg (by decide)]
  rw [BitVec.getLsbD_append, if_neg (by decide)]
  rw [BitVec.getLsbD_append, if_neg (by decide)]
  rw [BitVec.getLsbD_append, if_neg (by decide)]
  rw [BitVec.getLsbD_append, if_pos (by decide)]

@[simp] theorem packVC_0_5 (m : BitVec 6) (k : BitVec 1) (d : BitVec 5) (a : BitVec 5) (t : BitVec 10) (f : BitVec 5) :
    (packVC m k d a t f).extractLsb' 0 5 = f := by
  apply BitVec.eq_of_getLsbD_eq; intro i hi
  rw [BitVec.getLsbD_extractLsb', decide_eq_true hi, Bool.true_and]
  show BitVec.getLsbD (m ++ k ++ d ++ a ++ t ++ f : BitVec (6 + 1 + 5 + 5 + 10 + 5)) (0 + i) = _
  rw [BitVec.getLsbD_append, if_pos (by omega)]
  all_goals (congr 1; omega)

@[simp] theorem packVC_10_2 (m : BitVec 6) (k : BitVec 1) (d : BitVec 5) (a : BitVec 5) (t : BitVec 10) (f : BitVec 5) :
    (packVC m k d a t f).extractLsb' 10 2 = t.extractLsb' 5 2 := by
  apply BitVec.eq_of_getLsbD_eq; intro i hi
  rw [BitVec.getLsbD_extractLsb', decide_eq_true hi, Bool.true_and]
  show BitVec.getLsbD (m ++ k ++ d ++ a ++ t ++ f : BitVec (6 + 1 + 5 + 5 + 10 + 5)) (10 + i) = _
  rw [BitVec.getLsbD_append, if_neg (by omega)]
  rw [BitVec.getLsbD_append, if_pos (by omega)]
  rw [BitVec.getLsbD_extractLsb', decide_eq_true (by omega), Bool.true_and]
  all_goals (congr 1; omega)

@[simp] theorem packVC_10_5 (m : BitVec 6) (k : BitVec 1) (d : BitVec 5) (a : BitVec 5) (t : BitVec 10) (f : BitVec 5) :
    (packVC m k d a t f).extractLsb' 10 5 = t.extractLsb' 5 5 := by
  apply BitVec.eq_of_getLsbD_eq; intro i hi
  rw [BitVec.getLsbD_extractLsb', decide_eq_true hi, Bool.true_and]
  show BitVec.getLsbD (m ++ k ++ d ++ a ++ t ++ f : BitVec (6 + 1 + 5 + 5 + 10 + 5)) (10 + i) = _
  rw [BitVec.getLsbD_append, if_neg (by omega)]
  rw [BitVec.getLsbD_append, if_pos (by omega)]
  rw [BitVec.getLsbD_extractLsb', decide_eq_true (by omega), Bool.true_and]
  all_goals (congr 1; omega)

@[simp] theorem packVC_12_13 (m : BitVec 6) (k : BitVec 1) (d : BitVec 5) (a : BitVec 5) (t : BitVec 10) (f : BitVec 5) :
    (packVC m k d a t f).extractLsb' 12 13 = d ++ a ++ (t.extractLsb' 7 3) := by
  apply BitVec.eq_of_getLsbD_eq; intro i hi
  rw [BitVec.getLsbD_extractLsb', decide_eq_true hi, Bool.true_and]
  show BitVec.getLsbD (m ++ k ++ d ++ a ++ t ++ f : BitVec (6 + 1 + 5 + 5 + 10 + 5)) (12 + i) = _
  by_cases h0 : i < 3
  · rw [BitVec.getLsbD_append, if_neg (by omega)]
    rw [BitVec.getLsbD_append, if_pos (by omega)]
    show _ = BitVec.getLsbD (d ++ a ++ (t.extractLsb' 7 3) : BitVec (5 + 5 + 3)) i
    rw [BitVec.getLsbD_append, if_pos (by omega)]
    rw [BitVec.getLsbD_extractLsb', decide_eq_true (by omega), Bool.true_and]
    all_goals (congr 1; omega)
  · by_cases h1 : i < 8
    · rw [BitVec.getLsbD_append, if_neg (by omega)]
      rw [BitVec.getLsbD_append, if_neg (by omega)]
      rw [BitVec.getLsbD_append, if_pos (by omega)]
      show _ = BitVec.getLsbD (d ++ a ++ (t.extractLsb' 7 3) : BitVec (5 + 5 + 3)) i
      rw [BitVec.getLsbD_append, if_neg (by omega)]
      rw [BitVec.getLsbD_append, if_pos (by omega)]
      all_goals (congr 1; omega)
    · rw [BitVec.getLsbD_append, if_neg (by omega)]
      rw [BitVec.getLsbD_append, if_neg (by omega)]
      rw [BitVec.getLsbD_append, if_neg (by omega)]
      rw [BitVec.getLsbD_append, if_pos (by omega)]
      show _ = BitVec.getLsbD (d ++ a ++ (t.extractLsb' 7 3) : BitVec (5 + 5 + 3)) i
      rw [BitVec.getLsbD_append, if_neg (by omega)]
      rw [BitVec.getLsbD_append, if_neg (by omega)]
      all_goals (congr 1; omega)

@[simp] theorem packVC_15_5 (m : BitVec 6) (k : BitVec 1) (d : BitVec 5) (a : BitVec 5) (t : BitVec 10) (f : BitVec 5) :
    (packVC m k d a t f).extractLsb' 15 5 = a := by
  apply BitVec.eq_of_getLsbD_eq; intro i hi
  rw [BitVec.getLsbD_extractLsb', decide_eq_true hi, Bool.true_and]
  show BitVec.getLsbD (m ++ k ++ d ++ a ++ t ++ f : BitVec (6 + 1 + 5 + 5 + 10 + 5)) (15 + i) = _
  rw [BitVec.getLsbD_append, if_neg (by omega)]
  rw [BitVec.getLsbD_append, if_neg (by omega)]
  rw [BitVec.getLsbD_append, if_pos (by omega)]
  all_goals (congr 1; omega)

@[simp] theorem packVC_20_5 (m : BitVec 6) (k : BitVec 1) (d : BitVec 5) (a : BitVec 5) (t : BitVec 10) (f : BitVec 5) :
    (packVC m k d a t f).extractLsb' 20 5 = d := by
  apply BitVec.eq_of_getLsbD_eq; intro i hi
  rw [BitVec.getLsbD_extractLsb', decide_eq_true hi, Bool.true_and]
  show BitVec.getLsbD (m ++ k ++ d ++ a ++ t ++ f : BitVec (6 + 1 + 5 + 5 + 10 + 5)) (20 + i) = _
  rw [BitVec.getLsbD_append, if_neg (by omega)]
  rw [BitVec.getLsbD_append, if_neg (by omega)]
  rw [BitVec.getLsbD_append, if_neg (by omega)]
  rw [BitVec.getLsbD_append, if_pos (by omega)]
  all_goals (congr 1; omega)

@[simp] theorem packVC_5_10 (m : BitVec 6) (k : BitVec 1) (d : BitVec 5) (a : BitVec 5) (t : BitVec 10) (f : BitVec 5) :
    (packVC m k d a t f).extractLsb' 5 10 = t := by
  apply BitVec.eq_of_getLsbD_eq; intro i hi
  rw [BitVec.getLsbD_extractLsb', decide_eq_true hi, Bool.true_and]
  show BitVec.getLsbD (m ++ k ++ d ++ a ++ t ++ f : BitVec (6 + 1 + 5 + 5 + 10 + 5)) (5 + i) = _
  rw [BitVec.getLsbD_append, if_neg (by omega)]
  rw [BitVec.getLsbD_append, if_pos (by omega)]
  all_goals (congr 1; omega)

@[simp] theorem packVC_5_5 (m : BitVec 6) (k : BitVec 1) (d : BitVec 5) (a : BitVec 5) (t : BitVec 10) (f : BitVec 5) :
    (packVC m k d a t f).extractLsb' 5 5 = t.extractLsb' 0 5 := by
  apply BitVec.eq_of_getLsbD_eq; intro i hi
  rw [BitVec.getLsbD_extractLsb', decide_eq_true hi, Bool.true_and]
  show BitVec.getLsbD (m ++ k ++ d ++ a ++ t ++ f : BitVec (6 + 1 + 5 + 5 + 10 + 5)) (5 + i) = _
  rw [BitVec.getLsbD_append, if_neg (by omega)]
  rw [BitVec.getLsbD_append, if_pos (by omega)]
  rw [BitVec.getLsbD_extractLsb', decide_eq_true (by omega), Bool.true_and]
  all_goals (congr 1; omega)

@[simp] theorem packVC_26_6 (m : BitVec 6) (k : BitVec 1) (d : BitVec 5) (a : BitVec 5) (t : BitVec 10) (f : BitVec 5) :
    (packVC m k d a t f).extractLsb' 26 6 = m := by
  apply BitVec.eq_of_getLsbD_eq; intro i hi
  rw [BitVec.getLsbD_extractLsb', decide_eq_true hi, Bool.true_and]
  show BitVec.getLsbD (m ++ k ++ d ++ a ++ t ++ f : BitVec (6 + 1 + 5 + 5 + 10 + 5)) (26 + i) = _
  rw [BitVec.getLsbD_append, if_neg (by omega)]
  rw [BitVec.getLsbD_append, if_neg (by omega)]
  rw [BitVec.getLsbD_append, if_neg (by omega)]
  rw [BitVec.getLsbD_append, if_neg (by omega)]
  rw [BitVec.getLsbD_append, if_neg (by omega)]
  all_goals (congr 1; omega)

@[simp] theorem packTT_bit25 (m : BitVec 6) (k : BitVec 1) (d : BitVec 3) (x : BitVec 5) (y : BitVec 5) (s : BitVec 2) (c1 : BitVec 1) (c2 : BitVec 1) (h : BitVec 1) (j : BitVec 2) (f : BitVec 5) :
    (packTT m k d x y s c1 c2 h j f)[25] = k[0] := by
  rw [← BitVec.getLsbD_eq_getElem, ← BitVec.getLsbD_eq_getElem]
  show BitVec.getLsbD (m ++ k ++ d ++ x ++ y ++ s ++ c1 ++ c2 ++ h ++ j ++ f : BitVec (6 + 1 + 3 + 5 + 5 + 2 + 1 + 1 + 1 + 2 + 5)) 25 = _
  rw [BitVec.getLsbD_append, if_neg (by decide)]
  rw [BitVec.getLsbD_append, if_neg (by decide)]
  rw [BitVec.getLsbD_append, if_neg (by decide)]
  rw [BitVec.getLsbD_append, if_neg (by decide)]
  rw [BitVec.getLsbD_append, if_neg (by decide)]
  rw [BitVec.getLsbD_append, if_neg (by decide)]
  rw [BitVec.getLsbD_append, if_neg (by decide)]
  rw [BitVec.getLsbD_append, if_neg (by decide)]
  rw [BitVec.getLsbD_append, if_neg (by decide)]
  rw [BitVec.getLsbD_append, if_pos (by decide)]

@[simp] theorem packTT_bit8 (m : BitVec 6) (k : BitVec 1) (d : BitVec 3) (x : BitVec 5) (y : BitVec 5) (s : BitVec 2) (c1 : BitVec 1) (c2 : BitVec 1) (h : BitVec 1) (j : BitVec 2) (f : BitVec 5) :
    (packTT m k d x y s c1 c2 h j f)[8] = c2[0] := by
  rw [← BitVec.getLsbD_eq_getElem, ← BitVec.getLsbD_eq_getElem]
  show BitVec.getLsbD (m ++ k ++ d ++ x ++ y ++ s ++ c1 ++ c2 ++ h ++ j ++ f : BitVec (6 + 1 + 3 + 5 + 5 + 2 + 1 + 1 + 1 + 2 + 5)) 8 = _
  rw [BitVec.getLsbD_append, if_neg (by decide)]
  rw [BitVec.getLsbD_append, if_neg (by decide)]
  rw [BitVec.getLsbD_append, if_neg (by decide)]
  rw [BitVec.getLsbD_append, if_pos (by decide)]

@[simp] theorem packTT_bit9 (m : BitVec 6) (k : BitVec 1) (d : BitVec 3) (x : BitVec 5) (y : BitVec 5) (s : BitVec 2) (c1 : BitVec 1) (c2 : BitVec 1) (h : BitVec 1) (j : BitVec 2) (f : BitVec 5) :
    (packTT m k d x y s c1 c2 h j f)[9] = c1[0] := by
  rw [← BitVec.getLsbD_eq_getElem, ← BitVec.getLsbD_eq_getElem]
  show BitVec.getLsbD (m ++ k ++ d ++ x ++ y ++ s ++ c1 ++ c2 ++ h ++ j ++ f : BitVec (6 + 1 + 3 + 5 + 5 + 2 + 1 + 1 + 1 + 2 + 5)) 9 = _
  rw [BitVec.getLsbD_append, if_neg (by decide)]
  rw [BitVec.getLsbD_append, if_neg (by decide)]
  rw [BitVec.getLsbD_append, if_neg (by decide)]
  rw [BitVec.getLsbD_append, if_neg (by decide)]
  rw [BitVec.getLsbD_append, if_pos (by decide)]

@[simp] theorem packTT_bit7 (m : BitVec 6) (k : BitVec 1) (d : BitVec 3) (x : BitVec 5) (y : BitVec 5) (s : BitVec 2) (c1 : BitVec 1) (c2 : BitVec 1) (h : BitVec 1) (j : BitVec 2) (f : BitVec 5) :
    (packTT m k d x y s c1 c2 h j f)[7] = h[0] := by
  rw [← BitVec.getLsbD_eq_getElem, ← BitVec.getLsbD_eq_getElem]
  show BitVec.getLsbD (m ++ k ++ d ++ x ++ y ++ s ++ c1 ++ c2 ++ h ++ j ++ f : BitVec (6 + 1 + 3 + 5 + 5 + 2 + 1 + 1 + 1 + 2 + 5)) 7 = _
  rw [BitVec.getLsbD_append, if_neg (by decide)]
  rw [BitVec.getLsbD_append, if_neg (by decide)]
  rw [BitVec.getLsbD_append, if_pos (by decide)]

@[simp] theorem packTT_0_5 (m : BitVec 6) (k : BitVec 1) (d : BitVec 3) (x : BitVec 5) (y : BitVec 5) (s : BitVec 2) (c1 : BitVec 1) (c2 : BitVec 1) (h : BitVec 1) (j : BitVec 2) (f : BitVec 5) :
    (packTT m k d x y s c1 c2 h j f).extractLsb' 0 5 = f := by
  apply BitVec.eq_of_getLsbD_eq; intro i hi
  rw [BitVec.getLsbD_extractLsb', decide_eq_true hi, Bool.true_and]
  show BitVec.getLsbD (m ++ k ++ d ++ x ++ y ++ s ++ c1 ++ c2 ++ h ++ j ++ f : BitVec (6 + 1 + 3 + 5 + 5 + 2 + 1 + 1 + 1 + 2 + 5)) (0 + i) = _
  rw [BitVec.getLsbD_append, if_pos (by omega)]
  all_goals (congr 1; omega)

@[simp] theorem packTT_10_2 (m : BitVec 6) (k : BitVec 1) (d : BitVec 3) (x : BitVec 5) (y : BitVec 5) (s : BitVec 2) (c1 : BitVec 1) (c2 : BitVec 1) (h : BitVec 1) (j : BitVec 2) (f : BitVec 5) :
    (packTT m k d x y s c1 c2 h j f).extractLsb' 10 2 = s := by
  apply BitVec.eq_of_getLsbD_eq; intro i hi
  rw [BitVec.getLsbD_extractLsb', decide_eq_true hi, Bool.true_and]
  show BitVec.getLsbD (m ++ k ++ d ++ x ++ y ++ s ++ c1 ++ c2 ++ h ++ j ++ f : BitVec (6 + 1 + 3 + 5 + 5 + 2 + 1 + 1 + 1 + 2 + 5)) (10 + i) = _
  rw [BitVec.getLsbD_append, if_neg (by omega)]
  rw [BitVec.getLsbD_append, if_neg (by omega)]
  rw [BitVec.getLsbD_append, if_neg (by omega)]
  rw [BitVec.getLsbD_append, if_neg (by omega)]
  rw [BitVec.getLsbD_append, if_neg (by omega)]
  rw [BitVec.getLsbD_append, if_pos (by omega)]
  all_goals (congr 1; omega)

@[simp] theorem packTT_12_5 (m : BitVec 6) (k : BitVec 1) (d : BitVec 3) (x : BitVec 5) (y : BitVec 5) (s : BitVec 2) (c1 : BitVec 1) (c2 : BitVec 1) (h : BitVec 1) (j : BitVec 2) (f : BitVec 5) :
    (packTT m k d x y s c1 c2 h j f).extractLsb' 12 5 = y := by
  apply BitVec.eq_of_getLsbD_eq; intro i hi
  rw [BitVec.getLsbD_extractLsb', decide_eq_true hi, Bool.true_and]
  show BitVec.getLsbD (m ++ k ++ d ++ x ++ y ++ s ++ c1 ++ c2 ++ h ++ j ++ f : BitVec (6 + 1 + 3 + 5 + 5 + 2 + 1 + 1 + 1 + 2 + 5)) (12 + i) = _
  rw [BitVec.getLsbD_append, if_neg (by omega)]
  rw [BitVec.getLsbD_append, if_neg (by omega)]
  rw [BitVec.getLsbD_append, if_neg (by omega)]
  rw [BitVec.getLsbD_append, if_neg (by omega)]
  rw [BitVec.getLsbD_append, if_neg (by omega)]
  rw [BitVec.getLsbD_append, if_neg (by omega)]
  rw [BitVec.getLsbD_append, if_pos (by omega)]
  all_goals (congr 1; omega)

@[simp] theorem packTT_17_5 (m : BitVec 6) (k : BitVec 1) (d : BitVec 3) (x : BitVec 5) (y : BitVec 5) (s : BitVec 2) (c1 : BitVec 1) (c2 : BitVec 1) (h : BitVec 1) (j : BitVec 2) (f : BitVec 5) :
    (packTT m k d x y s c1 c2 h j f).extractLsb' 17 5 = x := by
  apply BitVec.eq_of_getLsbD_eq; intro i hi
  rw [BitVec.getLsbD_extractLsb', decide_eq_true hi, Bool.true_and]
  show BitVec.getLsbD (m ++ k ++ d ++ x ++ y ++ s ++ c1 ++ c2 ++ h ++ j ++ f : BitVec (6 + 1 + 3 + 5 + 5 + 2 + 1 + 1 + 1 + 2 + 5)) (17 + i) = _
  rw [BitVec.getLsbD_append, if_neg (by omega)]
  rw [BitVec.getLsbD_append, if_neg (by omega)]
  rw [BitVec.getLsbD_append, if_neg (by omega)]
  rw [BitVec.getLsbD_append, if_neg (by omega)]
  rw [BitVec.getLsbD_append, if_neg (by omega)]
  rw [BitVec.getLsbD_append, if_neg (by omega)]
  rw [BitVec.getLsbD_append, if_neg (by omega)]
  rw [BitVec.getLsbD_append, if_pos (by omega)]
  all_goals (congr 1; omega)

@[simp] theorem packTT_22_3 (m : BitVec 6) (k : BitVec 1) (d : BitVec 3) (x : BitVec 5) (y : BitVec 5) (s : BitVec 2) (c1 : BitVec 1) (c2 : BitVec 1) (h : BitVec 1) (j : BitVec 2) (f : BitVec 5) :
    (packTT m k d x y s c1 c2 h j f).extractLsb' 22 3 = d := by
  apply BitVec.eq_of_getLsbD_eq; intro i hi
  rw [BitVec.getLsbD_extractLsb', decide_eq_true hi, Bool.true_and]
  show BitVec.getLsbD (m ++ k ++ d ++ x ++ y ++ s ++ c1 ++ c2 ++ h ++ j ++ f : BitVec (6 + 1 + 3 + 5 + 5 + 2 + 1 + 1 + 1 + 2 + 5)) (22 + i) = _
  rw [BitVec.getLsbD_append, if_neg (by omega)]
  rw [BitVec.getLsbD_append, if_neg (by omega)]
  rw [BitVec.getLsbD_append, if_neg (by omega)]
  rw [BitVec.getLsbD_append, if_neg (by omega)]
  rw [BitVec.getLsbD_append, if_neg (by omega)]
  rw [BitVec.getLsbD_append, if_neg (by omega)]
  rw [BitVec.getLsbD_append, if_neg (by omega)]
  rw [BitVec.getLsbD_append, if_neg (by omega)]
  rw [BitVec.getLsbD_append, if_pos (by omega)]
  all_goals (congr 1; omega)

@[simp] theorem packTT_5_12 (m : BitVec 6) (k : BitVec 1) (d : BitVec 3) (x : BitVec 5) (y : BitVec 5) (s : BitVec 2) (c1 : BitVec 1) (c2 : BitVec 1) (h : BitVec 1) (j : BitVec 2) (f : BitVec 5) :
    (packTT m k d x y s c1 c2 h j f).extractLsb' 5 12 = y ++ s ++ c1 ++ c2 ++ h ++ j := by
  apply BitVec.eq_of_getLsbD_eq; intro i hi
  rw [BitVec.getLsbD_extractLsb', decide_eq_true hi, Bool.true_and]
  show BitVec.getLsbD (m ++ k ++ d ++ x ++ y ++ s ++ c1 ++ c2 ++ h ++ j ++ f : BitVec (6 + 1 + 3 + 5 + 5 + 2 + 1 + 1 + 1 + 2 + 5)) (5 + i) = _
  by_cases h0 : i < 2
  · rw [BitVec.getLsbD_append, if_neg (by omega)]
    rw [BitVec.getLsbD_append, if_pos (by omega)]
    show _ = BitVec.getLsbD (y ++ s ++ c1 ++ c2 ++ h ++ j : BitVec (5 + 2 + 1 + 1 + 1 + 2)) i
    rw [BitVec.getLsbD_append, if_pos (by omega)]
    all_goals (congr 1; omega)
  · by_cases h1 : i < 3
    · rw [BitVec.getLsbD_append, if_neg (by omega)]
      rw [BitVec.getLsbD_append, if_neg (by omega)]
      rw [BitVec.getLsbD_append, if_pos (by omega)]
      show _ = BitVec.getLsbD (y ++ s ++ c1 ++ c2 ++ h ++ j : BitVec (5 + 2 + 1 + 1 + 1 + 2)) i
      rw [BitVec.getLsbD_append, if_neg (by omega)]
      rw [BitVec.getLsbD_append, if_pos (by omega)]
      all_goals (congr 1; omega)
    · by_cases h2 : i < 4
      · rw [BitVec.getLsbD_append, if_neg (by omega)]
        rw [BitVec.getLsbD_append, if_neg (by omega)]
        rw [BitVec.getLsbD_append, if_neg (by omega)]
        rw [BitVec.getLsbD_append, if_pos (by omega)]
        show _ = BitVec.getLsbD (y ++ s ++ c1 ++ c2 ++ h ++ j : BitVec (5 + 2 + 1 + 1 + 1 + 2)) i
        rw [BitVec.getLsbD_append, if_neg (by omega)]
        rw [BitVec.getLsbD_append, if_neg (by omega)]
        rw [BitVec.getLsbD_append, if_pos (by omega)]
        all_goals (congr 1; omega)
      · by_cases h3 : i < 5
        · rw [BitVec.getLsbD_append, if_neg (by omega)]
          rw [BitVec.getLsbD_append, if_neg (by omega)]
          rw [BitVec.getLsbD_append, if_neg (by omega)]
          rw [BitVec.getLsbD_append, if_neg (by omega)]
          rw [BitVec.getLsbD_append, if_pos (by omega)]
          show _ = BitVec.getLsbD (y ++ s ++ c1 ++ c2 ++ h ++ j : BitVec (5 + 2 + 1 + 1 + 1 + 2)) i
          rw [BitVec.getLsbD_append, if_neg (by omega)]
          rw [BitVec.getLsbD_append, if_neg (by omega)]
          rw [BitVec.getLsbD_append, if_neg (by omega)]
          rw [BitVec.getLsbD_append, if_pos (by omega)]
          all_goals (congr 1; omega)
        · by_cases h4 : i < 7
          · rw [BitVec.getLsbD_append, if_neg (by omega)]
            rw [BitVec.getLsbD_append, if_neg (by omega)]
            rw [BitVec.getLsbD_append, if_neg (by omega)]
            rw [BitVec.getLsbD_append, if_neg (by omega)]
            rw [BitVec.getLsbD_append, if_neg (by omega)]
            rw [BitVec.getLsbD_append, if_pos (by omega)]
            show _ = BitVec.getLsbD (y ++ s ++ c1 ++ c2 ++ h ++ j : BitVec (5 + 2 + 1 + 1 + 1 + 2)) i
            rw [BitVec.getLsbD_append, if_neg (by omega)]
            rw [BitVec.getLsbD_append, if_neg (by omega)]
            rw [BitVec.getLsbD_append, if_neg (by omega)]
            rw [BitVec.getLsbD_append, if_neg (by omega)]
            rw [BitVec.getLsbD_append, if_pos (by omega)]
            all_goals (congr 1; omega)
          · rw [BitVec.getLsbD_append, if_neg (by omega)]
            rw [BitVec.getLsbD_append, if_neg (by omega)]
            rw [BitVec.getLsbD_append, if_neg (by omega)]
            rw [BitVec.getLsbD_append, if_neg (by omega)]
            rw [BitVec.getLsbD_append, if_neg (by omega)]
            rw [BitVec.getLsbD_append, if_neg (by omega)]
            rw [BitVec.getLsbD_append, if_pos (by omega)]
            show _ = BitVec.getLsbD (y ++ s ++ c1 ++ c2 ++ h ++ j : BitVec (5 + 2 + 1 + 1 + 1 + 2)) i
            rw [BitVec.getLsbD_append, if_neg (by omega)]
            rw [BitVec.getLsbD_append, if_neg (by omega)]
            rw [BitVec.getLsbD_append, if_neg (by omega)]
            rw [BitVec.getLsbD_append, if_neg (by omega)]
            rw [BitVec.getLsbD_append, if_neg (by omega)]
            all_goals (congr 1; omega)

@[simp] theorem packTT_5_17 (m : BitVec 6) (k : BitVec 1) (d : BitVec 3) (x : BitVec 5) (y : BitVec 5) (s : BitVec 2) (c1 : BitVec 1) (c2 : BitVec 1) (h : BitVec 1) (j : BitVec 2) (f : BitVec 5) :
    (packTT m k d x y s c1 c2 h j f).extractLsb' 5 17 = x ++ y ++ s ++ c1 ++ c2 ++ h ++ j := by
  apply BitVec.eq_of_getLsbD_eq; intro i hi
  rw [BitVec.getLsbD_extractLsb', decide_eq_true hi, Bool.true_and]
  show BitVec.getLsbD (m ++ k ++ d ++ x ++ y ++ s ++ c1 ++ c2 ++ h ++ j ++ f : BitVec (6 + 1 + 3 + 5 + 5 + 2 + 1 + 1 + 1 + 2 + 5)) (5 + i) = _
  by_cases h0 : i < 2
  · rw [BitVec.getLsbD_append, if_neg (by omega)]
    rw [BitVec.getLsbD_append, if_pos (by omega)]
    show _ = BitVec.getLsbD (x ++ y ++ s ++ c1 ++ c2 ++ h ++ j : BitVec (5 + 5 + 2 + 1 + 1 + 1 + 2)) i
    rw [BitVec.getLsbD_append, if_pos (by omega)]
    all_goals (congr 1; omega)
  · by_cases h1 : i < 3
    · rw [BitVec.getLsbD_append, if_neg (by omega)]
      rw [BitVec.getLsbD_append, if_neg (by omega)]
      rw [BitVec.getLsbD_append, if_pos (by omega)]
      show _ = BitVec.getLsbD (x ++ y ++ s ++ c1 ++ c2 ++ h ++ j : BitVec (5 + 5 + 2 + 1 + 1 + 1 + 2)) i
      rw [BitVec.getLsbD_append, if_neg (by omega)]
      rw [BitVec.getLsbD_append, if_pos (by omega)]
      all_goals (congr 1; omega)
    · by_cases h2 : i < 4
      · rw [BitVec.getLsbD_append, if_neg (by omega)]
        rw [BitVec.getLsbD_append, if_neg (by omega)]
        rw [BitVec.getLsbD_append, if_neg (by omega)]
        rw [BitVec.getLsbD_append, if_pos (by omega)]
        show _ = BitVec.getLsbD (x ++ y ++ s ++ c1 ++ c2 ++ h ++ j : BitVec (5 + 5 + 2 + 1 + 1 + 1 + 2)) i
        rw [BitVec.getLsbD_append, if_neg (by omega)]
        rw [BitVec.getLsbD_append, if_neg (by omega)]
        rw [BitVec.getLsbD_append, if_pos (by omega)]
        all_goals (congr 1; omega)
      · by_cases h3 : i < 5
        · rw [BitVec.getLsbD_append, if_neg (by omega)]
          rw [BitVec.getLsbD_append, if_neg (by omega)]
          rw [BitVec.getLsbD_append, if_neg (by omega)]
          rw [BitVec.getLsbD_append, if_neg (by omega)]
          rw [BitVec.getLsbD_append, if_pos (by omega)]
          show _ = BitVec.getLsbD (x ++ y ++ s ++ c1 ++ c2 ++ h ++ j : BitVec (5 + 5 + 2 + 1 + 1 + 1 + 2)) i
          rw [BitVec.getLsbD_append, if_neg (by omega)]
          rw [BitVec.getLsbD_append, if_neg (by omega)]
          rw [BitVec.getLsbD_append, if_neg (by omega)]
          rw [BitVec.getLsbD_append, if_pos (by omega)]
          all_goals (congr 1; omega)
        · by_cases h4 : i < 7
          · rw [BitVec.getLsbD_append, if_neg (by omega)]
            rw [BitVec.getLsbD_append, if_neg (by omega)]
            rw [BitVec.getLsbD_append, if_neg (by omega)]
            rw [BitVec.getLsbD_append, if_neg (by omega)]
            rw [BitVec.getLsbD_append, if_neg (by omega)]
            rw [BitVec.getLsbD_append, if_pos (by omega)]
            show _ = BitVec.getLsbD (x ++ y ++ s ++ c1 ++ c2 ++ h ++ j : BitVec (5 + 5 + 2 + 1 + 1 + 1 + 2)) i
            rw [BitVec.getLsbD_append, if_neg (by omega)]
            rw [BitVec.getLsbD_append, if_neg (by omega)]
            rw [BitVec.getLsbD_append, if_neg (by omega)]
            rw [BitVec.getLsbD_append, if_neg (by omega)]
            rw [BitVec.getLsbD_append, if_pos (by omega)]
            all_goals (congr 1; omega)
          · by_cases h5 : i < 12
            · rw [BitVec.getLsbD_append, if_neg (by omega)]
              rw [BitVec.getLsbD_append, if_neg (by omega)]
              rw [BitVec.getLsbD_append, if_neg (by omega)]
              rw [BitVec.getLsbD_append, if_neg (by omega)]
              rw [BitVec.getLsbD_append, if_neg (by omega)]
              rw [BitVec.getLsbD_append, if_neg (by omega)]
              rw [BitVec.getLsbD_append, if_pos (by omega)]
              show _ = BitVec.getLsbD (x ++ y ++ s ++ c1 ++ c2 ++ h ++ j : BitVec (5 + 5 + 2 + 1 + 1 + 1 + 2)) i
              rw [BitVec.getLsbD_append, if_neg (by omega)]
              rw [BitVec.getLsbD_append, if_neg (by omega)]
              rw [BitVec.getLsbD_append, if_neg (by omega)]
              rw [BitVec.getLsbD_append, if_neg (by omega)]
              rw [BitVec.getLsbD_append, if_neg (by omega)]
              rw [BitVec.getLsbD_append, if_pos (by omega)]
              all_goals (congr 1; omega)
            · rw [BitVec.getLsbD_append, if_neg (by omega)]
              rw [BitVec.getLsbD_append, if_neg (by omega)]
              rw [BitVec.getLsbD_append, if_neg (by omega)]
              rw [BitVec.getLsbD_append, if_neg (by omega)]
              rw [BitVec.getLsbD_append, if_neg (by omega)]
              rw [BitVec.getLsbD_append, if_neg (by omega)]
              rw [BitVec.getLsbD_append, if_neg (by omega)]
              rw [BitVec.getLsbD_append, if_pos (by omega)]
              show _ = BitVec.getLsbD (x ++ y ++ s ++ c1 ++ c2 ++ h ++ j : BitVec (5 + 5 + 2 + 1 + 1 + 1 + 2)) i
              rw [BitVec.getLsbD_append, if_neg (by omega)]
              rw [BitVec.getLsbD_append, if_neg (by omega)]
              rw [BitVec.getLsbD_append, if_neg (by omega)]
              rw [BitVec.getLsbD_append, if_neg (by omega)]
              rw [BitVec.getLsbD_append, if_neg (by omega)]
              rw [BitVec.getLsbD_append, if_neg (by omega)]
              all_goals (congr 1; omega)

@[simp] theorem packTT_5_2 (m : BitVec 6) (k : BitVec 1) (d : BitVec 3) (x : BitVec 5) (y : BitVec 5) (s : BitVec 2) (c1 : BitVec 1) (c2 : BitVec 1) (h : BitVec 1) (j : BitVec 2) (f : BitVec 5) :
    (packTT m k d x y s c1 c2 h j f).extractLsb' 5 2 = j := by
  apply BitVec.eq_of_getLsbD_eq; intro i hi
  rw [BitVec.getLsbD_extractLsb', decide_eq_true hi, Bool.true_and]
  show BitVec.getLsbD (m ++ k ++ d ++ x ++ y ++ s ++ c1 ++ c2 ++ h ++ j ++ f : BitVec (6 + 1 + 3 + 5 + 5 + 2 + 1 + 1 + 1 + 2 + 5)) (5 + i) = _
  rw [BitVec.getLsbD_append, if_neg (by omega)]
  rw [BitVec.getLsbD_append, if_pos (by omega)]
  all_goals (congr 1; omega)

@[simp] theorem packTT_8_4 (m : BitVec 6) (k : BitVec 1) (d : BitVec 3) (x : BitVec 5) (y : BitVec 5) (s : BitVec 2) (c1 : BitVec 1) (c2 : BitVec 1) (h : BitVec 1) (j : BitVec 2) (f : BitVec 5) :
    (packTT m k d x y s c1 c2 h j f).extractLsb' 8 4 = s ++ c1 ++ c2 := by
  apply BitVec.eq_of_getLsbD_eq; intro i hi
  rw [BitVec.getLsbD_extractLsb', decide_eq_true hi, Bool.true_and]
  show BitVec.getLsbD (m ++ k ++ d ++ x ++ y ++ s ++ c1 ++ c2 ++ h ++ j ++ f : BitVec (6 + 1 + 3 + 5 + 5 + 2 + 1 + 1 + 1 + 2 + 5)) (8 + i) = _
  by_cases h0 : i < 1
  · rw [BitVec.getLsbD_append, if_neg (by omega)]
    rw [BitVec.getLsbD_append, if_neg (by omega)]
    rw [BitVec.getLsbD_append, if_neg (by omega)]
    rw [BitVec.getLsbD_append, if_pos (by omega)]
    show _ = BitVec.getLsbD (s ++ c1 ++ c2 : BitVec (2 + 1 + 1)) i
    rw [BitVec.getLsbD_append, if_pos (by omega)]
    all_goals (congr 1; omega)
  · by_cases h1 : i < 2
    · rw [BitVec.getLsbD_append, if_neg (by omega)]
      rw [BitVec.getLsbD_append, if_neg (by omega)]
      rw [BitVec.getLsbD_append, if_neg (by omega)]
      rw [BitVec.getLsbD_append, if_neg (by omega)]
      rw [BitVec.getLsbD_append, if_pos (by omega)]
      show _ = BitVec.getLsbD (s ++ c1 ++ c2 : BitVec (2 + 1 + 1)) i
      rw [BitVec.getLsbD_append, if_neg (by omega)]
      rw [BitVec.getLsbD_append, if_pos (by omega)]
      all_goals (congr 1; omega)
    · rw [BitVec.getLsbD_append, if_neg (by omega)]
      rw [BitVec.getLsbD_append, if_neg (by omega)]
      rw [BitVec.getLsbD_append, if_neg (by omega)]
      rw [BitVec.getLsbD_append, if_neg (by omega)]
      rw [BitVec.getLsbD_append, if_neg (by omega)]
      rw [BitVec.getLsbD_append, if_pos (by omega)]
      show _ = BitVec.getLsbD (s ++ c1 ++ c2 : BitVec (2 + 1 + 1)) i
      rw [BitVec.getLsbD_append, if_neg (by omega)]
      rw [BitVec.getLsbD_append, if_neg (by omega)]
      all_goals (congr 1; omega)

@[simp] theorem packTT_9_3 (m : BitVec 6) (k : BitVec 1) (d : BitVec 3) (x : BitVec 5) (y : BitVec 5) (s : BitVec 2) (c1 : BitVec 1) (c2 : BitVec 1) (h : BitVec 1) (j : BitVec 2) (f : BitVec 5) :
    (packTT m k d x y s c1 c2 h j f).extractLsb' 9 3 = s ++ c1 := by
  apply BitVec.eq_of_getLsbD_eq; intro i hi
  rw [BitVec.getLsbD_extractLsb', decide_eq_true hi, Bool.true_and]
  show BitVec.getLsbD (m ++ k ++ d ++ x ++ y ++ s ++ c1 ++ c2 ++ h ++ j ++ f : BitVec (6 + 1 + 3 + 5 + 5 + 2 + 1 + 1 + 1 + 2 + 5)) (9 + i) = _
  by_cases h0 : i < 1
  · rw [BitVec.getLsbD_append, if_neg (by omega)]
    rw [BitVec.getLsbD_append, if_neg (by omega)]
    rw [BitVec.getLsbD_append, if_neg (by omega)]
    rw [BitVec.getLsbD_append, if_neg (by omega)]
    rw [BitVec.getLsbD_append, if_pos (by omega)]
    show _ = BitVec.getLsbD (s ++ c1 : BitVec (2 + 1)) i
    rw [BitVec.getLsbD_append, if_pos (by omega)]
    all_goals (congr 1; omega)
  · rw [BitVec.getLsbD_append, if_neg (by omega)]
    rw [BitVec.getLsbD_append, if_neg (by omega)]
    rw [BitVec.getLsbD_append, if_neg (by omega)]
    rw [BitVec.getLsbD_append, if_neg (by omega)]
    rw [BitVec.getLsbD_append, if_neg (by omega)]
    rw [BitVec.getLsbD_append, if_pos (by omega)]
    show _ = BitVec.getLsbD (s ++ c1 : BitVec (2 + 1)) i
    rw [BitVec.getLsbD_append, if_neg (by omega)]
    all_goals (congr 1; omega)

@[simp] theorem packTT_26_6 (m : BitVec 6) (k : BitVec 1) (d : BitVec 3) (x : BitVec 5) (y : BitVec 5) (s : BitVec 2) (c1 : BitVec 1) (c2 : BitVec 1) (h : BitVec 1) (j : BitVec 2) (f : BitVec 5) :
    (packTT m k d x y s c1 c2 h j f).extractLsb' 26 6 = m := by
  apply BitVec.eq_of_getLsbD_eq; intro i hi
  rw [BitVec.getLsbD_extractLsb', decide_eq_true hi, Bool.true_and]
  show BitVec.getLsbD (m ++ k ++ d ++ x ++ y ++ s ++ c1 ++ c2 ++ h ++ j ++ f : BitVec (6 + 1 + 3 + 5 + 5 + 2 + 1 + 1 + 1 + 2 + 5)) (26 + i) = _
  rw [BitVec.getLsbD_append, if_neg (by omega)]
  rw [BitVec.getLsbD_append, if_neg (by omega)]
  rw [BitVec.getLsbD_append, if_neg (by omega)]
  rw [BitVec.getLsbD_append, if_neg (by omega)]
  rw [BitVec.getLsbD_append, if_neg (by omega)]
  rw [BitVec.getLsbD_append, if_neg (by omega)]
  rw [BitVec.getLsbD_append, if_neg (by omega)]
  rw [BitVec.getLsbD_append, if_neg (by omega)]
  rw [BitVec.getLsbD_append, if_neg (by omega)]
  rw [BitVec.getLsbD_append, if_neg (by omega)]
  all_goals (congr 1; omega)

/-! ## Fields that a constructor's operand is split over -/

theorem eq_append_extract {n m : Nat} (x : BitVec (n + m)) : x.extractLsb' m n ++ x.extractLsb' 0 m = x := by
  apply BitVec.eq_of_getLsbD_eq; intro i hi
  rw [BitVec.getLsbD_append]
  by_cases h : i < m
  · rw [if_pos h, BitVec.getLsbD_extractLsb', decide_eq_true h, Bool.true_and]; congr 1; omega
  · rw [if_neg h, BitVec.getLsbD_extractLsb', decide_eq_true (by omega), Bool.true_and]; congr 1; omega

@[simp] theorem shamt_join (h : BitVec 6) : h.extractLsb' 5 1 ++ h.extractLsb' 0 5 = h := eq_append_extract (n := 1) (m := 5) h

@[simp] theorem shamt_high (x : BitVec 1) : (0#4 ++ x).extractLsb' 1 4 = 0#4 := by revert x; decide

@[simp] theorem shamt_low (x : BitVec 1) : (0#4 ++ x).extractLsb' 0 1 = x := by revert x; decide

/-- The mod field of an ordered access: order, scope and width. -/
@[simp] theorem mod_order (o s : BitVec 2) (w : Bool) : (o ++ s ++ BitVec.ofBool w : BitVec 5).extractLsb' 3 2 = o := by
  revert o s w; decide

@[simp] theorem mod_scope (o s : BitVec 2) (w : Bool) : (o ++ s ++ BitVec.ofBool w : BitVec 5).extractLsb' 1 2 = s := by
  revert o s w; decide

@[simp] theorem mod_width (o s : BitVec 2) (w : Bool) : (o ++ s ++ BitVec.ofBool w : BitVec 5)[0] = w := by
  revert o s w; decide

@[simp] theorem mod_order_bit (o s : BitVec 2) (z : BitVec 1) : (o ++ s ++ z : BitVec 5).extractLsb' 3 2 = o := by
  revert o s z; decide

@[simp] theorem mod_scope_bit (o s : BitVec 2) (z : BitVec 1) : (o ++ s ++ z : BitVec 5).extractLsb' 1 2 = s := by
  revert o s z; decide

@[simp] theorem mod_width_bit (o s : BitVec 2) (z : BitVec 1) : (o ++ s ++ z : BitVec 5).extractLsb' 0 1 = z := by
  revert o s z; decide

@[simp] theorem flags2_high (a b : Bool) : (0#1 ++ BitVec.ofBool a ++ BitVec.ofBool b : BitVec 3).extractLsb' 2 1 = 0#1 := by
  revert a b; decide

@[simp] theorem flags_bit2 (x : BitVec 1) (a b : Bool) : (x ++ BitVec.ofBool a ++ BitVec.ofBool b : BitVec 3)[2] = x[0] := by
  revert a b x; decide

@[simp] theorem flags_bit1 (c : BitVec 1) (a b : Bool) : (c ++ BitVec.ofBool a ++ BitVec.ofBool b : BitVec 3)[1] = a := by
  revert a b c; decide

@[simp] theorem flags_bit0 (c : BitVec 1) (a b : Bool) : (c ++ BitVec.ofBool a ++ BitVec.ofBool b : BitVec 3)[0] = b := by
  revert a b c; decide

@[simp] theorem vcfg_low (b : BitVec 5) : (b ++ 0#5 : BitVec 10).extractLsb' 0 5 = 0#5 := by revert b; decide

@[simp] theorem vcfg_high (b : BitVec 5) : (b ++ 0#5 : BitVec 10).extractLsb' 5 5 = b := by revert b; decide

@[simp] theorem vreconf_low (c : BitVec 2) : (0#3 ++ c ++ 0#5 : BitVec 10).extractLsb' 0 5 = 0#5 := by revert c; decide

@[simp] theorem vreconf_mid (c : BitVec 2) : (0#3 ++ c ++ 0#5 : BitVec 10).extractLsb' 5 2 = c := by revert c; decide

@[simp] theorem vreconf_high (c : BitVec 2) : (0#3 ++ c ++ 0#5 : BitVec 10).extractLsb' 7 3 = 0#3 := by revert c; decide

@[simp] theorem fields_low (f : BitVec 3) : (0#2 ++ f : BitVec 5).extractLsb' 0 3 = f := by revert f; decide

@[simp] theorem fields_high (f : BitVec 3) : (0#2 ++ f : BitVec 5).extractLsb' 3 2 = 0#2 := by revert f; decide

@[simp] theorem queue_low (f : BitVec 2) : (0#3 ++ f : BitVec 5).extractLsb' 0 2 = f := by revert f; decide

@[simp] theorem queue_high (f : BitVec 2) : (0#3 ++ f : BitVec 5).extractLsb' 2 3 = 0#3 := by revert f; decide

@[simp] theorem qbr_join (o : BitVec 20) :
    (o.extractLsb' 15 5 ++ o.extractLsb' 10 5 ++ o.extractLsb' 5 5 : BitVec 15) ++ o.extractLsb' 0 5 = o := by
  apply BitVec.eq_of_getLsbD_eq; intro i hi
  rw [BitVec.getLsbD_append]
  by_cases h : i < 5
  · rw [if_pos h, BitVec.getLsbD_extractLsb', decide_eq_true h, Bool.true_and]; congr 1; omega
  · rw [if_neg h]
    show BitVec.getLsbD (o.extractLsb' 15 5 ++ o.extractLsb' 10 5 ++ o.extractLsb' 5 5 : BitVec (5 + 5 + 5)) (i - 5) = _
    rw [BitVec.getLsbD_append]
    by_cases h1 : i - 5 < 5
    · rw [if_pos h1, BitVec.getLsbD_extractLsb', decide_eq_true h1, Bool.true_and]; congr 1; omega
    · rw [if_neg h1, BitVec.getLsbD_append]
      by_cases h2 : i - 5 - 5 < 5
      · rw [if_pos h2, BitVec.getLsbD_extractLsb', decide_eq_true h2, Bool.true_and]; congr 1; omega
      · rw [if_neg h2, BitVec.getLsbD_extractLsb', decide_eq_true (by omega), Bool.true_and]; congr 1; omega

end Sys2Proof
end

