-- ==== Sys2Proof/Laws/Memory.lean ====
section
/-!
SUPPORT. Memory as a canonical list of cells: every write keeps the form, a read after a write gives what was written, and a
write leaves every other byte alone.
-/

namespace Sys2Proof.Machine

/-- Every address of a canonical list whose first entry is at `a` is above `a`. -/
theorem Memory.wf_tail {a : Nat} {v : Byte} {m : List Host.Cell} (h : Memory.wf ((a, v) :: m) = true) :
    Memory.wf m = true := by
  cases m with
  | nil => rfl
  | cons c m => obtain ⟨b, w⟩ := c; simp only [Memory.wf, Bool.and_eq_true] at h; exact h.2

theorem Memory.wf_head {a : Nat} {v : Byte} {m : List Host.Cell} (h : Memory.wf ((a, v) :: m) = true) : v ≠ 0 := by
  cases m with
  | nil => simpa [Memory.wf] using h
  | cons c m => obtain ⟨b, w⟩ := c; simp only [Memory.wf, Bool.and_eq_true] at h; simpa using h.1.1

theorem Memory.wf_lt {a b : Nat} {v w : Byte} {m : List Host.Cell} (h : Memory.wf ((a, v) :: (b, w) :: m) = true) :
    a < b := by
  simp only [Memory.wf, Bool.and_eq_true] at h; simpa using h.1.2

/-- Every address of the rest of a canonical list is above that of its first entry. -/
theorem Memory.wf_above {a : Nat} {v : Byte} {m : List Host.Cell} (h : Memory.wf ((a, v) :: m) = true) :
    ∀ c ∈ m.head?, a < c.1 := by
  rcases m with - | ⟨c, m⟩
  · nofun
  · intro d hd; cases hd; exact Memory.wf_lt h

theorem Memory.wf_cons {a : Nat} {v : Byte} {m : List Host.Cell} (hv : v ≠ 0) (hm : Memory.wf m = true)
    (hl : ∀ c ∈ m.head?, a < c.1) : Memory.wf ((a, v) :: m) = true := by
  cases m with
  | nil => simpa [Memory.wf] using hv
  | cons c m =>
    obtain ⟨b, w⟩ := c
    have hb : a < b := hl (b, w) rfl
    have hv' : ¬ v = 0#8 := hv
    simp [Memory.wf, hv', hb, hm]

/-- The first address of what `cellSet` answers is the written one or the old first one. -/
theorem cellSet_head {m : List Host.Cell} {a : Nat} {v : Byte} {x : Nat} (hm : ∀ c ∈ m.head?, x < c.1) (ha : x < a)
    (hw : Memory.wf m = true) : ∀ c ∈ (cellSet m a v).head?, x < c.1 := by
  cases m with
  | nil =>
    intro c hc
    by_cases hv : v = 0#8 <;> simp [cellSet, hv] at hc
    rw [← hc]; exact ha
  | cons c m =>
    obtain ⟨b, w⟩ := c
    have hb : x < b := hm (b, w) rfl
    intro d hd
    unfold cellSet at hd
    split at hd
    · split at hd <;> simp at hd <;> rw [← hd]
      · exact hb
      · exact ha
    · split at hd
      · split at hd
        · cases m with
          | nil => simp at hd
          | cons e m => simp at hd; rw [← hd]; exact Nat.lt_trans hb (Memory.wf_lt hw)
        · simp at hd; rw [← hd]; exact ha
      · simp at hd; rw [← hd]; exact hb

/-- Writing a byte keeps the canonical form. -/
theorem cellSet_wf {m : List Host.Cell} (a : Nat) (v : Byte) (h : Memory.wf m = true) :
    Memory.wf (cellSet m a v) = true := by
  induction m with
  | nil => by_cases hv : v = 0#8 <;> simp [cellSet, Memory.wf, hv]
  | cons c m ih =>
    obtain ⟨b, w⟩ := c
    unfold cellSet
    split
    · rename_i hab
      split
      · exact h
      · rename_i hv; exact Memory.wf_cons hv h (fun c hc => by simp at hc; rw [← hc]; exact hab)
    · split
      · rename_i hab
        split
        · exact Memory.wf_tail h
        · rename_i hv
          exact Memory.wf_cons hv (Memory.wf_tail h) (fun c hc => hab ▸ Memory.wf_above h c hc)
      · rename_i h1 h2
        exact Memory.wf_cons (Memory.wf_head h) (ih (Memory.wf_tail h))
          (cellSet_head (Memory.wf_above h) (by omega) (Memory.wf_tail h))

/-- Below the first address of a canonical list every byte reads as 0. -/
theorem cellGet_below {m : List Host.Cell} {a : Nat} (h : ∀ c ∈ m.head?, a < c.1) : cellGet m a = 0 := by
  cases m with
  | nil => rfl
  | cons c m =>
    obtain ⟨b, w⟩ := c
    have hb : a < b := h (b, w) rfl
    simp [cellGet, hb, Nat.ne_of_lt hb]

/-- A byte reads as it was last written. -/
theorem cellGet_cellSet_same {m : List Host.Cell} (a : Nat) (v : Byte) (h : Memory.wf m = true) :
    cellGet (cellSet m a v) a = v := by
  induction m with
  | nil => by_cases hv : v = 0#8 <;> simp [cellSet, cellGet, hv]
  | cons c m ih =>
    obtain ⟨b, w⟩ := c
    unfold cellSet
    split
    · rename_i hab
      split
      · rename_i hv; simp [cellGet, Nat.ne_of_lt hab, hab, hv]
      · simp [cellGet]
    · split
      · rename_i hab
        split
        · rename_i hv
          rw [hv]
          exact cellGet_below (fun c hc => hab ▸ Memory.wf_above h c hc)
        · simp [cellGet]
      · rename_i h1 h2
        simp only [cellGet, h2, if_false, h1]
        exact ih (Memory.wf_tail h)

/-- Writing a byte leaves every other byte alone. -/
theorem cellGet_cellSet_ne {m : List Host.Cell} {a b : Nat} (v : Byte) (h : Memory.wf m = true) (hab : b ≠ a) :
    cellGet (cellSet m a v) b = cellGet m b := by
  induction m with
  | nil =>
    by_cases hv : v = 0#8
    · simp [cellSet, hv]
    · simp [cellSet, cellGet, hv, hab]
  | cons c m ih =>
    obtain ⟨d, w⟩ := c
    unfold cellSet
    split
    · rename_i had
      split
      · rfl
      · by_cases hb : b < a
        · simp [cellGet, hab, hb, Nat.ne_of_lt (Nat.lt_trans hb had), Nat.lt_trans hb had]
        · conv_lhs => rw [cellGet]
          rw [if_neg hab, if_neg hb]
    · split
      · rename_i had
        subst had
        split
        · by_cases hb : b < a
          · rw [cellGet_below (fun c hc => Nat.lt_trans hb (Memory.wf_above h c hc))]
            simp [cellGet, hab, hb]
          · conv_rhs => rw [cellGet]
            rw [if_neg hab, if_neg hb]
        · simp [cellGet, hab]
      · simp only [cellGet]
        rw [ih (Memory.wf_tail h)]

/-- Writing a number keeps the canonical form. -/
theorem writeLE_wf {m : List Host.Cell} (a n v : Nat) (h : Memory.wf m = true) : Memory.wf (writeLE m a n v) = true := by
  induction n generalizing m a v with
  | zero => exact h
  | succ n ih => exact ih (a + 1) (v / 256) (cellSet_wf a _ h)

/-- Writing a number leaves every byte outside its range alone. -/
theorem cellGet_writeLE_outside {m : List Host.Cell} {a n b : Nat} (v : Nat) (h : Memory.wf m = true)
    (hb : b < a ∨ a + n ≤ b) : cellGet (writeLE m a n v) b = cellGet m b := by
  induction n generalizing m a v with
  | zero => rfl
  | succ n ih =>
    simp only [writeLE]
    rw [ih (v / 256) (cellSet_wf a _ h) (by omega), cellGet_cellSet_ne _ h (by omega)]

/-- A number reads as it was last written. -/
theorem readLE_writeLE {m : List Host.Cell} (a n v : Nat) (h : Memory.wf m = true) :
    readLE (cellGet (writeLE m a n v)) a n = v % 256 ^ n := by
  induction n generalizing m a v with
  | zero => simp [readLE, Nat.mod_one]
  | succ n ih =>
    simp only [readLE, writeLE]
    rw [cellGet_writeLE_outside _ (cellSet_wf a _ h) (by omega), cellGet_cellSet_same a _ h, ih _ _ (cellSet_wf a _ h)]
    have hp : 256 ^ (n + 1) = 256 * 256 ^ n := by rw [Nat.pow_succ, Nat.mul_comm]
    rw [BitVec.toNat_ofNat, hp, Nat.mod_mul]

/-! ## The writes of the machine -/

/-- Writing physical memory keeps its form. -/
theorem State.writePa_wf {s : State} (pa n v : Nat) (h : Memory.wf s.mem = true) :
    Memory.wf (s.writePa pa n v).mem = true := by
  unfold State.writePa State.setPoison
  dsimp only
  split <;> exact writeLE_wf _ _ _ h

/-- Writing physical memory leaves every byte outside the written ones alone. -/
theorem State.writePa_outside {s : State} {pa n v b : Nat} (h : Memory.wf s.mem = true)
    (hb : b < s.normPa pa ∨ s.normPa pa + n ≤ b) : cellGet (s.writePa pa n v).mem b = cellGet s.mem b := by
  unfold State.writePa State.setPoison
  dsimp only
  split <;> exact cellGet_writeLE_outside _ h hb

/-- A filter of a canonical memory is canonical. -/
theorem filter_wf {m : List Host.Cell} (p : Host.Cell → Bool) (h : Memory.wf m = true) :
    Memory.wf (m.filter p) = true ∧ ∀ x, (∀ c ∈ m.head?, x < c.1) → ∀ c ∈ (m.filter p).head?, x < c.1 := by
  induction m with
  | nil => exact ⟨h, fun _ hx => hx⟩
  | cons c m ih =>
    obtain ⟨a, v⟩ := c
    have hm := ih (Memory.wf_tail h)
    have ha := Memory.wf_above h
    by_cases hp : p (a, v) = true
    · rw [List.filter_cons_of_pos hp]
      refine ⟨Memory.wf_cons (Memory.wf_head h) hm.1 (hm.2 a ha), fun x hx c hc => ?_⟩
      simp at hc; rw [← hc]; exact hx (a, v) rfl
    · rw [List.filter_cons_of_neg hp]
      refine ⟨hm.1, fun x hx => hm.2 x (fun d hd => Nat.lt_trans (hx (a, v) rfl) (ha d hd))⟩

/-- Writing a list of cells, one after another, keeps the form. -/
theorem foldl_cellSet_wf {β : Type} (l : List β) (f : β → Nat) (g : β → Byte) {m : List Host.Cell}
    (h : Memory.wf m = true) : Memory.wf (l.foldl (fun t c => cellSet t (f c) (g c)) m) = true := by
  induction l generalizing m with
  | nil => exact h
  | cons c l ih => exact ih (cellSet_wf _ _ h)

end Sys2Proof.Machine
end

