-- ==== Sys2Proof/Laws/State.lean ====
section
/-!
SUPPORT. What each update of the state leaves of each field: the simp set that pushes a field through the named operations.
-/

namespace Sys2Proof.Machine

variable (s : State)

/-! ## The thread at hand -/

@[simp] theorem State.setCur_thr (t : Thread) : (s.setCur t).thr = s.thr := by
  unfold State.setCur; split <;> rfl

@[simp] theorem State.setCur_vu (t : Thread) : (s.setCur t).vu = s.vu := by
  unfold State.setCur; split <;> rfl

@[simp] theorem State.setCur_peers (t : Thread) : (s.setCur t).peers = s.peers := by
  unfold State.setCur; split <;> rfl

@[simp] theorem State.setCur_vus (t : Thread) : (s.setCur t).vus = s.vus := by
  unfold State.setCur; split <;> rfl

@[simp] theorem State.setCur_tiles (t : Thread) : (s.setCur t).tiles = s.tiles := by
  unfold State.setCur; split <;> rfl

@[simp] theorem State.setCur_mem (t : Thread) : (s.setCur t).mem = s.mem := by
  unfold State.setCur; split <;> rfl

@[simp] theorem State.setCur_poison (t : Thread) : (s.setCur t).poison = s.poison := by
  unfold State.setCur; split <;> rfl

@[simp] theorem State.setCur_padPoison (t : Thread) : (s.setCur t).padPoison = s.padPoison := by
  unfold State.setCur; split <;> rfl

@[simp] theorem State.setCur_blocks (t : Thread) : (s.setCur t).blocks = s.blocks := by
  unfold State.setCur; split <;> rfl

@[simp] theorem State.setCur_gts (t : Thread) : (s.setCur t).gts = s.gts := by
  unfold State.setCur; split <;> rfl

@[simp] theorem State.setCur_tlb (t : Thread) : (s.setCur t).tlb = s.tlb := by
  unfold State.setCur; split <;> rfl

@[simp] theorem State.setCur_contexts (t : Thread) : (s.setCur t).contexts = s.contexts := by
  unfold State.setCur; split <;> rfl

@[simp] theorem State.setCur_queues (t : Thread) : (s.setCur t).queues = s.queues := by
  unfold State.setCur; split <;> rfl

@[simp] theorem State.setCur_launches (t : Thread) : (s.setCur t).launches = s.launches := by
  unfold State.setCur; split <;> rfl

@[simp] theorem State.setCur_gens (t : Thread) : (s.setCur t).gens = s.gens := by
  unfold State.setCur; split <;> rfl

@[simp] theorem State.setCur_cmds (t : Thread) : (s.setCur t).cmds = s.cmds := by
  unfold State.setCur; split <;> rfl

@[simp] theorem State.setCur_statuses (t : Thread) : (s.setCur t).statuses = s.statuses := by
  unfold State.setCur; split <;> rfl

@[simp] theorem State.setCur_serials (t : Thread) : (s.setCur t).serials = s.serials := by
  unfold State.setCur; split <;> rfl

@[simp] theorem State.setCur_preloads (t : Thread) : (s.setCur t).preloads = s.preloads := by
  unfold State.setCur; split <;> rfl

@[simp] theorem State.setCur_nextUid (t : Thread) : (s.setCur t).nextUid = s.nextUid := by
  unfold State.setCur; split <;> rfl

@[simp] theorem State.setCur_cmdring (t : Thread) : (s.setCur t).cmdring = s.cmdring := by
  unfold State.setCur; split <;> rfl

@[simp] theorem State.setCur_fct (t : Thread) : (s.setCur t).fct = s.fct := by
  unfold State.setCur; split <;> rfl

@[simp] theorem State.setCur_holdoff (t : Thread) : (s.setCur t).holdoff = s.holdoff := by
  unfold State.setCur; split <;> rfl

@[simp] theorem State.setCur_regions (t : Thread) : (s.setCur t).regions = s.regions := by
  unfold State.setCur; split <;> rfl

@[simp] theorem State.setCur_cmdHead (t : Thread) : (s.setCur t).cmdHead = s.cmdHead := by
  unfold State.setCur; split <;> rfl

@[simp] theorem State.setCur_rings (t : Thread) : (s.setCur t).rings = s.rings := by
  unfold State.setCur; split <;> rfl

@[simp] theorem State.setCur_ringEntries (t : Thread) : (s.setCur t).ringEntries = s.ringEntries := by
  unfold State.setCur; split <;> rfl

@[simp] theorem State.setCur_erases (t : Thread) : (s.setCur t).erases = s.erases := by
  unfold State.setCur; split <;> rfl

@[simp] theorem State.setCur_counters (t : Thread) : (s.setCur t).counters = s.counters := by
  unfold State.setCur; split <;> rfl

@[simp] theorem State.setCur_plog (t : Thread) : (s.setCur t).plog = s.plog := by
  unfold State.setCur; split <;> rfl

@[simp] theorem State.setCur_overruns (t : Thread) : (s.setCur t).overruns = s.overruns := by
  unfold State.setCur; split <;> rfl

@[simp] theorem State.setCur_spares (t : Thread) : (s.setCur t).spares = s.spares := by
  unfold State.setCur; split <;> rfl

@[simp] theorem State.setCur_firmware (t : Thread) : (s.setCur t).firmware = s.firmware := by
  unfold State.setCur; split <;> rfl

@[simp] theorem State.setCur_platform (t : Thread) : (s.setCur t).platform = s.platform := by
  unfold State.setCur; split <;> rfl

@[simp] theorem State.setCur_reports (t : Thread) : (s.setCur t).reports = s.reports := by
  unfold State.setCur; split <;> rfl

@[simp] theorem State.setCur_stopped (t : Thread) : (s.setCur t).stopped = s.stopped := by
  unfold State.setCur; split <;> rfl

@[simp] theorem State.setCur_codeOld (t : Thread) : (s.setCur t).codeOld = s.codeOld := by
  unfold State.setCur; split <;> rfl

@[simp] theorem State.setCur_slice (t : Thread) : (s.setCur t).slice = s.slice := by
  unfold State.setCur; split <;> rfl

@[simp] theorem State.setCur_skips (t : Thread) : (s.setCur t).skips = s.skips := by
  unfold State.setCur; split <;> rfl

@[simp] theorem State.setCur_flash (t : Thread) : (s.setCur t).flash = s.flash := by
  unfold State.setCur; split <;> rfl

@[simp] theorem State.setCur_agents (t : Thread) : (s.setCur t).agents = s.agents := by
  unfold State.setCur; split <;> rfl

@[simp] theorem State.setCur_arrivals (t : Thread) : (s.setCur t).arrivals = s.arrivals := by
  unfold State.setCur; split <;> rfl

@[simp] theorem State.setCur_holds (t : Thread) : (s.setCur t).holds = s.holds := by
  unfold State.setCur; split <;> rfl

@[simp] theorem State.setCur_free (t : Thread) : (s.setCur t).free = s.free := by
  unfold State.setCur; split <;> rfl

@[simp] theorem State.setCur_inputs (t : Thread) : (s.setCur t).inputs = s.inputs := by
  unfold State.setCur; split <;> rfl

@[simp] theorem State.setCur_me_uid (t : Thread) : (s.setCur t).me.uid = s.me.uid := by
  unfold State.setCur; split <;> rfl

@[simp] theorem State.setCur_me_status (t : Thread) : (s.setCur t).me.status = s.me.status := by
  unfold State.setCur; split <;> rfl

@[simp] theorem State.setCur_me_ctx (t : Thread) : (s.setCur t).me.ctx = s.me.ctx := by
  unfold State.setCur; split <;> rfl

@[simp] theorem State.setCur_me_launch (t : Thread) : (s.setCur t).me.launch = s.me.launch := by
  unfold State.setCur; split <;> rfl

@[simp] theorem State.setCur_me_die (t : Thread) : (s.setCur t).me.die = s.me.die := by
  unfold State.setCur; split <;> rfl

@[simp] theorem State.setCur_me_core (t : Thread) : (s.setCur t).me.core = s.me.core := by
  unfold State.setCur; split <;> rfl

@[simp] theorem State.setCur_me_slot (t : Thread) : (s.setCur t).me.slot = s.me.slot := by
  unfold State.setCur; split <;> rfl

@[simp] theorem State.setCur_me_eidx (t : Thread) : (s.setCur t).me.eidx = s.me.eidx := by
  unfold State.setCur; split <;> rfl

@[simp] theorem State.setCur_me_jidx (t : Thread) : (s.setCur t).me.jidx = s.me.jidx := by
  unfold State.setCur; split <;> rfl

@[simp] theorem State.setCur_me_cls (t : Thread) : (s.setCur t).me.cls = s.me.cls := by
  unfold State.setCur; split <;> rfl

@[simp] theorem State.setCur_me_vregs (t : Thread) : (s.setCur t).me.vregs = s.me.vregs := by
  unfold State.setCur; split <;> rfl

@[simp] theorem State.setCur_me_ntiles (t : Thread) : (s.setCur t).me.ntiles = s.me.ntiles := by
  unfold State.setCur; split <;> rfl

@[simp] theorem State.setCur_me_scratch (t : Thread) : (s.setCur t).me.scratch = s.me.scratch := by
  unfold State.setCur; split <;> rfl

@[simp] theorem State.setCur_me_lanestore (t : Thread) : (s.setCur t).me.lanestore = s.me.lanestore := by
  unfold State.setCur; split <;> rfl

@[simp] theorem State.setCur_me_budget0 (t : Thread) : (s.setCur t).me.budget0 = s.me.budget0 := by
  unfold State.setCur; split <;> rfl

@[simp] theorem State.setCur_me_save (t : Thread) : (s.setCur t).me.save = s.me.save := by
  unfold State.setCur; split <;> rfl

@[simp] theorem State.setCur_me_bound (t : Thread) : (s.setCur t).me.bound = s.me.bound := by
  unfold State.setCur; split <;> rfl

@[simp] theorem State.setCur_me_fcsr (t : Thread) : (s.setCur t).me.fcsr = s.me.fcsr := by
  unfold State.setCur; split <;> rfl

@[simp] theorem State.setCur_me_lscale (t : Thread) : (s.setCur t).me.lscale = s.me.lscale := by
  unfold State.setCur; split <;> rfl

@[simp] theorem State.setCur_me_tcols (t : Thread) : (s.setCur t).me.tcols = s.me.tcols := by
  unfold State.setCur; split <;> rfl

@[simp] theorem State.setCur_me_kvpos (t : Thread) : (s.setCur t).me.kvpos = s.me.kvpos := by
  unfold State.setCur; split <;> rfl

@[simp] theorem State.setCur_me_subn (t : Thread) : (s.setCur t).me.subn = s.me.subn := by
  unfold State.setCur; split <;> rfl

@[simp] theorem State.setCur_me_xstate (t : Thread) : (s.setCur t).me.xstate = s.me.xstate := by
  unfold State.setCur; split <;> rfl

@[simp] theorem State.setCur_me_event (t : Thread) : (s.setCur t).me.event = s.me.event := by
  unfold State.setCur; split <;> rfl

@[simp] theorem State.setCur_me_budget (t : Thread) : (s.setCur t).me.budget = s.me.budget := by
  unfold State.setCur; split <;> rfl

@[simp] theorem State.setCur_me_ydl (t : Thread) : (s.setCur t).me.ydl = s.me.ydl := by
  unfold State.setCur; split <;> rfl

@[simp] theorem State.setCur_me_cfd (t : Thread) : (s.setCur t).me.cfd = s.me.cfd := by
  unfold State.setCur; split <;> rfl

@[simp] theorem State.setCur_me_cf (t : Thread) : (s.setCur t).me.cf = s.me.cf := by
  unfold State.setCur; split <;> rfl

@[simp] theorem State.setCur_me_queues (t : Thread) : (s.setCur t).me.queues = s.me.queues := by
  unfold State.setCur; split <;> rfl

@[simp] theorem State.setCur_me_avTok (t : Thread) : (s.setCur t).me.avTok = s.me.avTok := by
  unfold State.setCur; split <;> rfl

@[simp] theorem State.setCur_me_anext (t : Thread) : (s.setCur t).me.anext = s.me.anext := by
  unfold State.setCur; split <;> rfl

@[simp] theorem State.setCur_me_vnext (t : Thread) : (s.setCur t).me.vnext = s.me.vnext := by
  unfold State.setCur; split <;> rfl

@[simp] theorem State.setCur_me_vins (t : Thread) : (s.setCur t).me.vins = s.me.vins := by
  unfold State.setCur; split <;> rfl

@[simp] theorem State.setCur_me_aops (t : Thread) : (s.setCur t).me.aops = s.me.aops := by
  unfold State.setCur; split <;> rfl

@[simp] theorem State.setCur_me_vops (t : Thread) : (s.setCur t).me.vops = s.me.vops := by
  unfold State.setCur; split <;> rfl

@[simp] theorem State.setCur_me_ahold (t : Thread) : (s.setCur t).me.ahold = s.me.ahold := by
  unfold State.setCur; split <;> rfl

@[simp] theorem State.setCur_me_vhold (t : Thread) : (s.setCur t).me.vhold = s.me.vhold := by
  unfold State.setCur; split <;> rfl

@[simp] theorem State.setCur_me_vfence (t : Thread) : (s.setCur t).me.vfence = s.me.vfence := by
  unfold State.setCur; split <;> rfl

@[simp] theorem State.setCur_me_samples (t : Thread) : (s.setCur t).me.samples = s.me.samples := by
  unfold State.setCur; split <;> rfl

@[simp] theorem State.setCur_me_sevs (t : Thread) : (s.setCur t).me.sevs = s.me.sevs := by
  unfold State.setCur; split <;> rfl

@[simp] theorem State.setCur_me_waitTok (t : Thread) : (s.setCur t).me.waitTok = s.me.waitTok := by
  unfold State.setCur; split <;> rfl

@[simp] theorem State.setCur_me_bars (t : Thread) : (s.setCur t).me.bars = s.me.bars := by
  unfold State.setCur; split <;> rfl

@[simp] theorem State.setCur_me_conv (t : Thread) : (s.setCur t).me.conv = s.me.conv := by
  unfold State.setCur; split <;> rfl

@[simp] theorem State.setCur_me_savedConv (t : Thread) : (s.setCur t).me.savedConv = s.me.savedConv := by
  unfold State.setCur; split <;> rfl

@[simp] theorem State.setCur_me_chA (t : Thread) : (s.setCur t).me.chA = s.me.chA := by
  unfold State.setCur; split <;> rfl

@[simp] theorem State.setCur_me_chX (t : Thread) : (s.setCur t).me.chX = s.me.chX := by
  unfold State.setCur; split <;> rfl

@[simp] theorem State.setCur_me_assists (t : Thread) : (s.setCur t).me.assists = s.me.assists := by
  unfold State.setCur; split <;> rfl

@[simp] theorem State.setCur_me_resuming (t : Thread) : (s.setCur t).me.resuming = s.me.resuming := by
  unfold State.setCur; split <;> rfl

@[simp] theorem State.setCur_me_resumeAt (t : Thread) : (s.setCur t).me.resumeAt = s.me.resumeAt := by
  unfold State.setCur; split <;> rfl

@[simp] theorem State.setCur_me_stop (t : Thread) : (s.setCur t).me.stop = s.me.stop := by
  unfold State.setCur; split <;> rfl

@[simp] theorem State.setCur_me_pad (t : Thread) : (s.setCur t).me.pad = s.me.pad := by
  unfold State.setCur; split <;> rfl

@[simp] theorem State.setCur_me_lanes (t : Thread) : (s.setCur t).me.lanes = s.me.lanes := by
  unfold State.setCur; split <;> rfl

@[simp] theorem State.setCur_me_since (t : Thread) : (s.setCur t).me.since = s.me.since := by
  unfold State.setCur; split <;> rfl

@[simp] theorem State.setCur_me_append (t : Thread) : (s.setCur t).me.append = s.me.append := by
  unfold State.setCur; split <;> rfl

@[simp] theorem State.setCur_me_kept (t : Thread) : (s.setCur t).me.kept = s.me.kept := by
  unfold State.setCur; split <;> rfl

@[simp] theorem State.setCur_me_plans (t : Thread) : (s.setCur t).me.plans = s.me.plans := by
  unfold State.setCur; split <;> rfl

@[simp] theorem State.setCur_me_stopping (t : Thread) : (s.setCur t).me.stopping = s.me.stopping := by
  unfold State.setCur; split <;> rfl

@[simp] theorem State.setCur_me_stopped (t : Thread) : (s.setCur t).me.stopped = s.me.stopped := by
  unfold State.setCur; split <;> rfl

@[simp] theorem State.setCur_me_ahead (t : Thread) : (s.setCur t).me.ahead = s.me.ahead := by
  unfold State.setCur; split <;> rfl

@[simp] theorem State.setCur_me_half (t : Thread) : (s.setCur t).me.half = s.me.half := by
  unfold State.setCur; split <;> rfl

@[simp] theorem State.setCur_me_codeSeen (t : Thread) : (s.setCur t).me.codeSeen = s.me.codeSeen := by
  unfold State.setCur; split <;> rfl

@[simp] theorem State.setCur_me_restarts (t : Thread) : (s.setCur t).me.restarts = s.me.restarts := by
  unfold State.setCur; split <;> rfl

@[simp] theorem State.setCur_me_ending (t : Thread) : (s.setCur t).me.ending = s.me.ending := by
  unfold State.setCur; split <;> rfl

@[simp] theorem State.setCur_me_readyAt (t : Thread) : (s.setCur t).me.readyAt = s.me.readyAt := by
  unfold State.setCur; split <;> rfl

@[simp] theorem State.setCur_cur (t : Thread) : (s.setCur t).cur = t := by
  unfold State.cur State.setCur; cases h : s.thr <;> simp

@[simp] theorem State.setCur_setCur (t u : Thread) : (s.setCur t).setCur u = s.setCur u := by
  unfold State.setCur; cases h : s.thr <;> simp

@[simp] theorem State.setCur_other (t : Thread) : (s.setCur t).me.thread s.thr.other = s.me.thread s.thr.other := by
  unfold State.setCur; cases h : s.thr <;> rfl


/-! ## The program counter -/

@[simp] theorem State.setPc_thr (p : Word) : (s.setPc p).thr = s.thr := State.setCur_thr _ _

@[simp] theorem State.setPc_vu (p : Word) : (s.setPc p).vu = s.vu := State.setCur_vu _ _

@[simp] theorem State.setPc_peers (p : Word) : (s.setPc p).peers = s.peers := State.setCur_peers _ _

@[simp] theorem State.setPc_vus (p : Word) : (s.setPc p).vus = s.vus := State.setCur_vus _ _

@[simp] theorem State.setPc_tiles (p : Word) : (s.setPc p).tiles = s.tiles := State.setCur_tiles _ _

@[simp] theorem State.setPc_mem (p : Word) : (s.setPc p).mem = s.mem := State.setCur_mem _ _

@[simp] theorem State.setPc_poison (p : Word) : (s.setPc p).poison = s.poison := State.setCur_poison _ _

@[simp] theorem State.setPc_padPoison (p : Word) : (s.setPc p).padPoison = s.padPoison := State.setCur_padPoison _ _

@[simp] theorem State.setPc_blocks (p : Word) : (s.setPc p).blocks = s.blocks := State.setCur_blocks _ _

@[simp] theorem State.setPc_gts (p : Word) : (s.setPc p).gts = s.gts := State.setCur_gts _ _

@[simp] theorem State.setPc_tlb (p : Word) : (s.setPc p).tlb = s.tlb := State.setCur_tlb _ _

@[simp] theorem State.setPc_contexts (p : Word) : (s.setPc p).contexts = s.contexts := State.setCur_contexts _ _

@[simp] theorem State.setPc_queues (p : Word) : (s.setPc p).queues = s.queues := State.setCur_queues _ _

@[simp] theorem State.setPc_launches (p : Word) : (s.setPc p).launches = s.launches := State.setCur_launches _ _

@[simp] theorem State.setPc_gens (p : Word) : (s.setPc p).gens = s.gens := State.setCur_gens _ _

@[simp] theorem State.setPc_cmds (p : Word) : (s.setPc p).cmds = s.cmds := State.setCur_cmds _ _

@[simp] theorem State.setPc_statuses (p : Word) : (s.setPc p).statuses = s.statuses := State.setCur_statuses _ _

@[simp] theorem State.setPc_serials (p : Word) : (s.setPc p).serials = s.serials := State.setCur_serials _ _

@[simp] theorem State.setPc_preloads (p : Word) : (s.setPc p).preloads = s.preloads := State.setCur_preloads _ _

@[simp] theorem State.setPc_nextUid (p : Word) : (s.setPc p).nextUid = s.nextUid := State.setCur_nextUid _ _

@[simp] theorem State.setPc_cmdring (p : Word) : (s.setPc p).cmdring = s.cmdring := State.setCur_cmdring _ _

@[simp] theorem State.setPc_fct (p : Word) : (s.setPc p).fct = s.fct := State.setCur_fct _ _

@[simp] theorem State.setPc_holdoff (p : Word) : (s.setPc p).holdoff = s.holdoff := State.setCur_holdoff _ _

@[simp] theorem State.setPc_regions (p : Word) : (s.setPc p).regions = s.regions := State.setCur_regions _ _

@[simp] theorem State.setPc_cmdHead (p : Word) : (s.setPc p).cmdHead = s.cmdHead := State.setCur_cmdHead _ _

@[simp] theorem State.setPc_rings (p : Word) : (s.setPc p).rings = s.rings := State.setCur_rings _ _

@[simp] theorem State.setPc_ringEntries (p : Word) : (s.setPc p).ringEntries = s.ringEntries := State.setCur_ringEntries _ _

@[simp] theorem State.setPc_erases (p : Word) : (s.setPc p).erases = s.erases := State.setCur_erases _ _

@[simp] theorem State.setPc_counters (p : Word) : (s.setPc p).counters = s.counters := State.setCur_counters _ _

@[simp] theorem State.setPc_plog (p : Word) : (s.setPc p).plog = s.plog := State.setCur_plog _ _

@[simp] theorem State.setPc_overruns (p : Word) : (s.setPc p).overruns = s.overruns := State.setCur_overruns _ _

@[simp] theorem State.setPc_spares (p : Word) : (s.setPc p).spares = s.spares := State.setCur_spares _ _

@[simp] theorem State.setPc_firmware (p : Word) : (s.setPc p).firmware = s.firmware := State.setCur_firmware _ _

@[simp] theorem State.setPc_platform (p : Word) : (s.setPc p).platform = s.platform := State.setCur_platform _ _

@[simp] theorem State.setPc_reports (p : Word) : (s.setPc p).reports = s.reports := State.setCur_reports _ _

@[simp] theorem State.setPc_stopped (p : Word) : (s.setPc p).stopped = s.stopped := State.setCur_stopped _ _

@[simp] theorem State.setPc_codeOld (p : Word) : (s.setPc p).codeOld = s.codeOld := State.setCur_codeOld _ _

@[simp] theorem State.setPc_slice (p : Word) : (s.setPc p).slice = s.slice := State.setCur_slice _ _
@[simp] theorem State.setPc_skips (p : Word) : (s.setPc p).skips = s.skips := State.setCur_skips _ _
@[simp] theorem State.setPc_flash (p : Word) : (s.setPc p).flash = s.flash := State.setCur_flash _ _
@[simp] theorem State.setPc_agents (p : Word) : (s.setPc p).agents = s.agents := State.setCur_agents _ _
@[simp] theorem State.setPc_arrivals (p : Word) : (s.setPc p).arrivals = s.arrivals := State.setCur_arrivals _ _
@[simp] theorem State.setPc_holds (p : Word) : (s.setPc p).holds = s.holds := State.setCur_holds _ _

@[simp] theorem State.setPc_free (p : Word) : (s.setPc p).free = s.free := State.setCur_free _ _

@[simp] theorem State.setPc_inputs (p : Word) : (s.setPc p).inputs = s.inputs := State.setCur_inputs _ _

@[simp] theorem State.setPc_me_uid (p : Word) : (s.setPc p).me.uid = s.me.uid := State.setCur_me_uid _ _

@[simp] theorem State.setPc_me_status (p : Word) : (s.setPc p).me.status = s.me.status := State.setCur_me_status _ _

@[simp] theorem State.setPc_me_ctx (p : Word) : (s.setPc p).me.ctx = s.me.ctx := State.setCur_me_ctx _ _

@[simp] theorem State.setPc_me_launch (p : Word) : (s.setPc p).me.launch = s.me.launch := State.setCur_me_launch _ _

@[simp] theorem State.setPc_me_die (p : Word) : (s.setPc p).me.die = s.me.die := State.setCur_me_die _ _

@[simp] theorem State.setPc_me_core (p : Word) : (s.setPc p).me.core = s.me.core := State.setCur_me_core _ _

@[simp] theorem State.setPc_me_slot (p : Word) : (s.setPc p).me.slot = s.me.slot := State.setCur_me_slot _ _

@[simp] theorem State.setPc_me_eidx (p : Word) : (s.setPc p).me.eidx = s.me.eidx := State.setCur_me_eidx _ _

@[simp] theorem State.setPc_me_jidx (p : Word) : (s.setPc p).me.jidx = s.me.jidx := State.setCur_me_jidx _ _

@[simp] theorem State.setPc_me_cls (p : Word) : (s.setPc p).me.cls = s.me.cls := State.setCur_me_cls _ _

@[simp] theorem State.setPc_me_vregs (p : Word) : (s.setPc p).me.vregs = s.me.vregs := State.setCur_me_vregs _ _

@[simp] theorem State.setPc_me_ntiles (p : Word) : (s.setPc p).me.ntiles = s.me.ntiles := State.setCur_me_ntiles _ _

@[simp] theorem State.setPc_me_scratch (p : Word) : (s.setPc p).me.scratch = s.me.scratch := State.setCur_me_scratch _ _

@[simp] theorem State.setPc_me_lanestore (p : Word) : (s.setPc p).me.lanestore = s.me.lanestore := State.setCur_me_lanestore _ _

@[simp] theorem State.setPc_me_budget0 (p : Word) : (s.setPc p).me.budget0 = s.me.budget0 := State.setCur_me_budget0 _ _

@[simp] theorem State.setPc_me_save (p : Word) : (s.setPc p).me.save = s.me.save := State.setCur_me_save _ _

@[simp] theorem State.setPc_me_bound (p : Word) : (s.setPc p).me.bound = s.me.bound := State.setCur_me_bound _ _

@[simp] theorem State.setPc_me_fcsr (p : Word) : (s.setPc p).me.fcsr = s.me.fcsr := State.setCur_me_fcsr _ _

@[simp] theorem State.setPc_me_lscale (p : Word) : (s.setPc p).me.lscale = s.me.lscale := State.setCur_me_lscale _ _

@[simp] theorem State.setPc_me_tcols (p : Word) : (s.setPc p).me.tcols = s.me.tcols := State.setCur_me_tcols _ _

@[simp] theorem State.setPc_me_kvpos (p : Word) : (s.setPc p).me.kvpos = s.me.kvpos := State.setCur_me_kvpos _ _

@[simp] theorem State.setPc_me_subn (p : Word) : (s.setPc p).me.subn = s.me.subn := State.setCur_me_subn _ _

@[simp] theorem State.setPc_me_xstate (p : Word) : (s.setPc p).me.xstate = s.me.xstate := State.setCur_me_xstate _ _

@[simp] theorem State.setPc_me_event (p : Word) : (s.setPc p).me.event = s.me.event := State.setCur_me_event _ _

@[simp] theorem State.setPc_me_budget (p : Word) : (s.setPc p).me.budget = s.me.budget := State.setCur_me_budget _ _

@[simp] theorem State.setPc_me_ydl (p : Word) : (s.setPc p).me.ydl = s.me.ydl := State.setCur_me_ydl _ _

@[simp] theorem State.setPc_me_cfd (p : Word) : (s.setPc p).me.cfd = s.me.cfd := State.setCur_me_cfd _ _

@[simp] theorem State.setPc_me_cf (p : Word) : (s.setPc p).me.cf = s.me.cf := State.setCur_me_cf _ _

@[simp] theorem State.setPc_me_queues (p : Word) : (s.setPc p).me.queues = s.me.queues := State.setCur_me_queues _ _

@[simp] theorem State.setPc_me_avTok (p : Word) : (s.setPc p).me.avTok = s.me.avTok := State.setCur_me_avTok _ _

@[simp] theorem State.setPc_me_anext (p : Word) : (s.setPc p).me.anext = s.me.anext := State.setCur_me_anext _ _

@[simp] theorem State.setPc_me_vnext (p : Word) : (s.setPc p).me.vnext = s.me.vnext := State.setCur_me_vnext _ _

@[simp] theorem State.setPc_me_vins (p : Word) : (s.setPc p).me.vins = s.me.vins := State.setCur_me_vins _ _

@[simp] theorem State.setPc_me_aops (p : Word) : (s.setPc p).me.aops = s.me.aops := State.setCur_me_aops _ _

@[simp] theorem State.setPc_me_vops (p : Word) : (s.setPc p).me.vops = s.me.vops := State.setCur_me_vops _ _

@[simp] theorem State.setPc_me_ahold (p : Word) : (s.setPc p).me.ahold = s.me.ahold := State.setCur_me_ahold _ _

@[simp] theorem State.setPc_me_vhold (p : Word) : (s.setPc p).me.vhold = s.me.vhold := State.setCur_me_vhold _ _

@[simp] theorem State.setPc_me_vfence (p : Word) : (s.setPc p).me.vfence = s.me.vfence := State.setCur_me_vfence _ _

@[simp] theorem State.setPc_me_samples (p : Word) : (s.setPc p).me.samples = s.me.samples := State.setCur_me_samples _ _

@[simp] theorem State.setPc_me_sevs (p : Word) : (s.setPc p).me.sevs = s.me.sevs := State.setCur_me_sevs _ _

@[simp] theorem State.setPc_me_waitTok (p : Word) : (s.setPc p).me.waitTok = s.me.waitTok := State.setCur_me_waitTok _ _

@[simp] theorem State.setPc_me_bars (p : Word) : (s.setPc p).me.bars = s.me.bars := State.setCur_me_bars _ _

@[simp] theorem State.setPc_me_conv (p : Word) : (s.setPc p).me.conv = s.me.conv := State.setCur_me_conv _ _

@[simp] theorem State.setPc_me_savedConv (p : Word) : (s.setPc p).me.savedConv = s.me.savedConv := State.setCur_me_savedConv _ _

@[simp] theorem State.setPc_me_chA (p : Word) : (s.setPc p).me.chA = s.me.chA := State.setCur_me_chA _ _

@[simp] theorem State.setPc_me_chX (p : Word) : (s.setPc p).me.chX = s.me.chX := State.setCur_me_chX _ _

@[simp] theorem State.setPc_me_assists (p : Word) : (s.setPc p).me.assists = s.me.assists := State.setCur_me_assists _ _

@[simp] theorem State.setPc_me_resuming (p : Word) : (s.setPc p).me.resuming = s.me.resuming := State.setCur_me_resuming _ _

@[simp] theorem State.setPc_me_resumeAt (p : Word) : (s.setPc p).me.resumeAt = s.me.resumeAt := State.setCur_me_resumeAt _ _

@[simp] theorem State.setPc_me_stop (p : Word) : (s.setPc p).me.stop = s.me.stop := State.setCur_me_stop _ _

@[simp] theorem State.setPc_me_pad (p : Word) : (s.setPc p).me.pad = s.me.pad := State.setCur_me_pad _ _

@[simp] theorem State.setPc_me_lanes (p : Word) : (s.setPc p).me.lanes = s.me.lanes := State.setCur_me_lanes _ _

@[simp] theorem State.setPc_me_since (p : Word) : (s.setPc p).me.since = s.me.since := State.setCur_me_since _ _
@[simp] theorem State.setPc_me_append (p : Word) : (s.setPc p).me.append = s.me.append := State.setCur_me_append _ _
@[simp] theorem State.setPc_me_kept (p : Word) : (s.setPc p).me.kept = s.me.kept := State.setCur_me_kept _ _
@[simp] theorem State.setPc_me_plans (p : Word) : (s.setPc p).me.plans = s.me.plans := State.setCur_me_plans _ _
@[simp] theorem State.setPc_me_stopping (p : Word) : (s.setPc p).me.stopping = s.me.stopping := State.setCur_me_stopping _ _
@[simp] theorem State.setPc_me_stopped (p : Word) : (s.setPc p).me.stopped = s.me.stopped := State.setCur_me_stopped _ _
@[simp] theorem State.setPc_me_ahead (p : Word) : (s.setPc p).me.ahead = s.me.ahead := State.setCur_me_ahead _ _
@[simp] theorem State.setPc_me_half (p : Word) : (s.setPc p).me.half = s.me.half := State.setCur_me_half _ _

@[simp] theorem State.setPc_me_codeSeen (p : Word) : (s.setPc p).me.codeSeen = s.me.codeSeen := State.setCur_me_codeSeen _ _

@[simp] theorem State.setPc_me_restarts (p : Word) : (s.setPc p).me.restarts = s.me.restarts := State.setCur_me_restarts _ _

@[simp] theorem State.setPc_me_ending (p : Word) : (s.setPc p).me.ending = s.me.ending := State.setCur_me_ending _ _

@[simp] theorem State.setPc_me_readyAt (p : Word) : (s.setPc p).me.readyAt = s.me.readyAt := State.setCur_me_readyAt _ _

@[simp] theorem State.setPc_cur_regs (p : Word) : (s.setPc p).cur.regs = s.cur.regs := by
  unfold State.setPc; rw [State.setCur_cur]

@[simp] theorem State.setPc_cur_pc (p : Word) : (s.setPc p).cur.pc = p := by
  unfold State.setPc; rw [State.setCur_cur]

@[simp] theorem State.setPc_cur_priv (p : Word) : (s.setPc p).cur.priv = s.cur.priv := by
  unfold State.setPc; rw [State.setCur_cur]

@[simp] theorem State.setPc_cur_lc (p : Word) : (s.setPc p).cur.lc = s.cur.lc := by
  unfold State.setPc; rw [State.setCur_cur]

@[simp] theorem State.setPc_cur_lt (p : Word) : (s.setPc p).cur.lt = s.cur.lt := by
  unfold State.setPc; rw [State.setCur_cur]

@[simp] theorem State.setPc_cur_tcause (p : Word) : (s.setPc p).cur.tcause = s.cur.tcause := by
  unfold State.setPc; rw [State.setCur_cur]

@[simp] theorem State.setPc_cur_tval (p : Word) : (s.setPc p).cur.tval = s.cur.tval := by
  unfold State.setPc; rw [State.setCur_cur]

@[simp] theorem State.setPc_cur_tepc (p : Word) : (s.setPc p).cur.tepc = s.cur.tepc := by
  unfold State.setPc; rw [State.setCur_cur]

@[simp] theorem State.setPc_cur_trec (p : Word) : (s.setPc p).cur.trec = s.cur.trec := by
  unfold State.setPc; rw [State.setCur_cur]

@[simp] theorem State.setPc_cur_halted (p : Word) : (s.setPc p).cur.halted = s.cur.halted := by
  unfold State.setPc; rw [State.setCur_cur]

@[simp] theorem State.setPc_cur_wait (p : Word) : (s.setPc p).cur.wait = .none := by
  unfold State.setPc; rw [State.setCur_cur]

@[simp] theorem State.setPc_cur_synced (p : Word) : (s.setPc p).cur.synced = s.cur.synced := by
  unfold State.setPc; rw [State.setCur_cur]

@[simp] theorem State.setPc_cur_early (p : Word) : (s.setPc p).cur.early = s.cur.early := by
  unfold State.setPc; rw [State.setCur_cur]

/-! ## Waiting -/

@[simp] theorem State.waitFor_thr (w : Wait) : (s.waitFor w).thr = s.thr := State.setCur_thr _ _

@[simp] theorem State.waitFor_vu (w : Wait) : (s.waitFor w).vu = s.vu := State.setCur_vu _ _

@[simp] theorem State.waitFor_peers (w : Wait) : (s.waitFor w).peers = s.peers := State.setCur_peers _ _

@[simp] theorem State.waitFor_vus (w : Wait) : (s.waitFor w).vus = s.vus := State.setCur_vus _ _

@[simp] theorem State.waitFor_tiles (w : Wait) : (s.waitFor w).tiles = s.tiles := State.setCur_tiles _ _

@[simp] theorem State.waitFor_mem (w : Wait) : (s.waitFor w).mem = s.mem := State.setCur_mem _ _

@[simp] theorem State.waitFor_poison (w : Wait) : (s.waitFor w).poison = s.poison := State.setCur_poison _ _

@[simp] theorem State.waitFor_padPoison (w : Wait) : (s.waitFor w).padPoison = s.padPoison := State.setCur_padPoison _ _

@[simp] theorem State.waitFor_blocks (w : Wait) : (s.waitFor w).blocks = s.blocks := State.setCur_blocks _ _

@[simp] theorem State.waitFor_gts (w : Wait) : (s.waitFor w).gts = s.gts := State.setCur_gts _ _

@[simp] theorem State.waitFor_tlb (w : Wait) : (s.waitFor w).tlb = s.tlb := State.setCur_tlb _ _

@[simp] theorem State.waitFor_contexts (w : Wait) : (s.waitFor w).contexts = s.contexts := State.setCur_contexts _ _

@[simp] theorem State.waitFor_queues (w : Wait) : (s.waitFor w).queues = s.queues := State.setCur_queues _ _

@[simp] theorem State.waitFor_launches (w : Wait) : (s.waitFor w).launches = s.launches := State.setCur_launches _ _

@[simp] theorem State.waitFor_gens (w : Wait) : (s.waitFor w).gens = s.gens := State.setCur_gens _ _

@[simp] theorem State.waitFor_cmds (w : Wait) : (s.waitFor w).cmds = s.cmds := State.setCur_cmds _ _

@[simp] theorem State.waitFor_statuses (w : Wait) : (s.waitFor w).statuses = s.statuses := State.setCur_statuses _ _

@[simp] theorem State.waitFor_serials (w : Wait) : (s.waitFor w).serials = s.serials := State.setCur_serials _ _

@[simp] theorem State.waitFor_preloads (w : Wait) : (s.waitFor w).preloads = s.preloads := State.setCur_preloads _ _

@[simp] theorem State.waitFor_nextUid (w : Wait) : (s.waitFor w).nextUid = s.nextUid := State.setCur_nextUid _ _

@[simp] theorem State.waitFor_cmdring (w : Wait) : (s.waitFor w).cmdring = s.cmdring := State.setCur_cmdring _ _

@[simp] theorem State.waitFor_fct (w : Wait) : (s.waitFor w).fct = s.fct := State.setCur_fct _ _

@[simp] theorem State.waitFor_holdoff (w : Wait) : (s.waitFor w).holdoff = s.holdoff := State.setCur_holdoff _ _

@[simp] theorem State.waitFor_regions (w : Wait) : (s.waitFor w).regions = s.regions := State.setCur_regions _ _

@[simp] theorem State.waitFor_cmdHead (w : Wait) : (s.waitFor w).cmdHead = s.cmdHead := State.setCur_cmdHead _ _

@[simp] theorem State.waitFor_rings (w : Wait) : (s.waitFor w).rings = s.rings := State.setCur_rings _ _

@[simp] theorem State.waitFor_ringEntries (w : Wait) : (s.waitFor w).ringEntries = s.ringEntries := State.setCur_ringEntries _ _

@[simp] theorem State.waitFor_erases (w : Wait) : (s.waitFor w).erases = s.erases := State.setCur_erases _ _

@[simp] theorem State.waitFor_counters (w : Wait) : (s.waitFor w).counters = s.counters := State.setCur_counters _ _

@[simp] theorem State.waitFor_plog (w : Wait) : (s.waitFor w).plog = s.plog := State.setCur_plog _ _

@[simp] theorem State.waitFor_overruns (w : Wait) : (s.waitFor w).overruns = s.overruns := State.setCur_overruns _ _

@[simp] theorem State.waitFor_spares (w : Wait) : (s.waitFor w).spares = s.spares := State.setCur_spares _ _

@[simp] theorem State.waitFor_firmware (w : Wait) : (s.waitFor w).firmware = s.firmware := State.setCur_firmware _ _

@[simp] theorem State.waitFor_platform (w : Wait) : (s.waitFor w).platform = s.platform := State.setCur_platform _ _

@[simp] theorem State.waitFor_reports (w : Wait) : (s.waitFor w).reports = s.reports := State.setCur_reports _ _

@[simp] theorem State.waitFor_stopped (w : Wait) : (s.waitFor w).stopped = s.stopped := State.setCur_stopped _ _

@[simp] theorem State.waitFor_codeOld (w : Wait) : (s.waitFor w).codeOld = s.codeOld := State.setCur_codeOld _ _

@[simp] theorem State.waitFor_slice (w : Wait) : (s.waitFor w).slice = s.slice := State.setCur_slice _ _
@[simp] theorem State.waitFor_skips (w : Wait) : (s.waitFor w).skips = s.skips := State.setCur_skips _ _
@[simp] theorem State.waitFor_flash (w : Wait) : (s.waitFor w).flash = s.flash := State.setCur_flash _ _
@[simp] theorem State.waitFor_agents (w : Wait) : (s.waitFor w).agents = s.agents := State.setCur_agents _ _
@[simp] theorem State.waitFor_arrivals (w : Wait) : (s.waitFor w).arrivals = s.arrivals := State.setCur_arrivals _ _
@[simp] theorem State.waitFor_holds (w : Wait) : (s.waitFor w).holds = s.holds := State.setCur_holds _ _

@[simp] theorem State.waitFor_free (w : Wait) : (s.waitFor w).free = s.free := State.setCur_free _ _

@[simp] theorem State.waitFor_inputs (w : Wait) : (s.waitFor w).inputs = s.inputs := State.setCur_inputs _ _

@[simp] theorem State.waitFor_me_uid (w : Wait) : (s.waitFor w).me.uid = s.me.uid := State.setCur_me_uid _ _

@[simp] theorem State.waitFor_me_status (w : Wait) : (s.waitFor w).me.status = s.me.status := State.setCur_me_status _ _

@[simp] theorem State.waitFor_me_ctx (w : Wait) : (s.waitFor w).me.ctx = s.me.ctx := State.setCur_me_ctx _ _

@[simp] theorem State.waitFor_me_launch (w : Wait) : (s.waitFor w).me.launch = s.me.launch := State.setCur_me_launch _ _

@[simp] theorem State.waitFor_me_die (w : Wait) : (s.waitFor w).me.die = s.me.die := State.setCur_me_die _ _

@[simp] theorem State.waitFor_me_core (w : Wait) : (s.waitFor w).me.core = s.me.core := State.setCur_me_core _ _

@[simp] theorem State.waitFor_me_slot (w : Wait) : (s.waitFor w).me.slot = s.me.slot := State.setCur_me_slot _ _

@[simp] theorem State.waitFor_me_eidx (w : Wait) : (s.waitFor w).me.eidx = s.me.eidx := State.setCur_me_eidx _ _

@[simp] theorem State.waitFor_me_jidx (w : Wait) : (s.waitFor w).me.jidx = s.me.jidx := State.setCur_me_jidx _ _

@[simp] theorem State.waitFor_me_cls (w : Wait) : (s.waitFor w).me.cls = s.me.cls := State.setCur_me_cls _ _

@[simp] theorem State.waitFor_me_vregs (w : Wait) : (s.waitFor w).me.vregs = s.me.vregs := State.setCur_me_vregs _ _

@[simp] theorem State.waitFor_me_ntiles (w : Wait) : (s.waitFor w).me.ntiles = s.me.ntiles := State.setCur_me_ntiles _ _

@[simp] theorem State.waitFor_me_scratch (w : Wait) : (s.waitFor w).me.scratch = s.me.scratch := State.setCur_me_scratch _ _

@[simp] theorem State.waitFor_me_lanestore (w : Wait) : (s.waitFor w).me.lanestore = s.me.lanestore := State.setCur_me_lanestore _ _

@[simp] theorem State.waitFor_me_budget0 (w : Wait) : (s.waitFor w).me.budget0 = s.me.budget0 := State.setCur_me_budget0 _ _

@[simp] theorem State.waitFor_me_save (w : Wait) : (s.waitFor w).me.save = s.me.save := State.setCur_me_save _ _

@[simp] theorem State.waitFor_me_bound (w : Wait) : (s.waitFor w).me.bound = s.me.bound := State.setCur_me_bound _ _

@[simp] theorem State.waitFor_me_fcsr (w : Wait) : (s.waitFor w).me.fcsr = s.me.fcsr := State.setCur_me_fcsr _ _

@[simp] theorem State.waitFor_me_lscale (w : Wait) : (s.waitFor w).me.lscale = s.me.lscale := State.setCur_me_lscale _ _

@[simp] theorem State.waitFor_me_tcols (w : Wait) : (s.waitFor w).me.tcols = s.me.tcols := State.setCur_me_tcols _ _

@[simp] theorem State.waitFor_me_kvpos (w : Wait) : (s.waitFor w).me.kvpos = s.me.kvpos := State.setCur_me_kvpos _ _

@[simp] theorem State.waitFor_me_subn (w : Wait) : (s.waitFor w).me.subn = s.me.subn := State.setCur_me_subn _ _

@[simp] theorem State.waitFor_me_xstate (w : Wait) : (s.waitFor w).me.xstate = s.me.xstate := State.setCur_me_xstate _ _

@[simp] theorem State.waitFor_me_event (w : Wait) : (s.waitFor w).me.event = s.me.event := State.setCur_me_event _ _

@[simp] theorem State.waitFor_me_budget (w : Wait) : (s.waitFor w).me.budget = s.me.budget := State.setCur_me_budget _ _

@[simp] theorem State.waitFor_me_ydl (w : Wait) : (s.waitFor w).me.ydl = s.me.ydl := State.setCur_me_ydl _ _

@[simp] theorem State.waitFor_me_cfd (w : Wait) : (s.waitFor w).me.cfd = s.me.cfd := State.setCur_me_cfd _ _

@[simp] theorem State.waitFor_me_cf (w : Wait) : (s.waitFor w).me.cf = s.me.cf := State.setCur_me_cf _ _

@[simp] theorem State.waitFor_me_queues (w : Wait) : (s.waitFor w).me.queues = s.me.queues := State.setCur_me_queues _ _

@[simp] theorem State.waitFor_me_avTok (w : Wait) : (s.waitFor w).me.avTok = s.me.avTok := State.setCur_me_avTok _ _

@[simp] theorem State.waitFor_me_anext (w : Wait) : (s.waitFor w).me.anext = s.me.anext := State.setCur_me_anext _ _

@[simp] theorem State.waitFor_me_vnext (w : Wait) : (s.waitFor w).me.vnext = s.me.vnext := State.setCur_me_vnext _ _

@[simp] theorem State.waitFor_me_vins (w : Wait) : (s.waitFor w).me.vins = s.me.vins := State.setCur_me_vins _ _

@[simp] theorem State.waitFor_me_aops (w : Wait) : (s.waitFor w).me.aops = s.me.aops := State.setCur_me_aops _ _

@[simp] theorem State.waitFor_me_vops (w : Wait) : (s.waitFor w).me.vops = s.me.vops := State.setCur_me_vops _ _

@[simp] theorem State.waitFor_me_ahold (w : Wait) : (s.waitFor w).me.ahold = s.me.ahold := State.setCur_me_ahold _ _

@[simp] theorem State.waitFor_me_vhold (w : Wait) : (s.waitFor w).me.vhold = s.me.vhold := State.setCur_me_vhold _ _

@[simp] theorem State.waitFor_me_vfence (w : Wait) : (s.waitFor w).me.vfence = s.me.vfence := State.setCur_me_vfence _ _

@[simp] theorem State.waitFor_me_samples (w : Wait) : (s.waitFor w).me.samples = s.me.samples := State.setCur_me_samples _ _

@[simp] theorem State.waitFor_me_sevs (w : Wait) : (s.waitFor w).me.sevs = s.me.sevs := State.setCur_me_sevs _ _

@[simp] theorem State.waitFor_me_waitTok (w : Wait) : (s.waitFor w).me.waitTok = s.me.waitTok := State.setCur_me_waitTok _ _

@[simp] theorem State.waitFor_me_bars (w : Wait) : (s.waitFor w).me.bars = s.me.bars := State.setCur_me_bars _ _

@[simp] theorem State.waitFor_me_conv (w : Wait) : (s.waitFor w).me.conv = s.me.conv := State.setCur_me_conv _ _

@[simp] theorem State.waitFor_me_savedConv (w : Wait) : (s.waitFor w).me.savedConv = s.me.savedConv := State.setCur_me_savedConv _ _

@[simp] theorem State.waitFor_me_chA (w : Wait) : (s.waitFor w).me.chA = s.me.chA := State.setCur_me_chA _ _

@[simp] theorem State.waitFor_me_chX (w : Wait) : (s.waitFor w).me.chX = s.me.chX := State.setCur_me_chX _ _

@[simp] theorem State.waitFor_me_assists (w : Wait) : (s.waitFor w).me.assists = s.me.assists := State.setCur_me_assists _ _

@[simp] theorem State.waitFor_me_resuming (w : Wait) : (s.waitFor w).me.resuming = s.me.resuming := State.setCur_me_resuming _ _

@[simp] theorem State.waitFor_me_resumeAt (w : Wait) : (s.waitFor w).me.resumeAt = s.me.resumeAt := State.setCur_me_resumeAt _ _

@[simp] theorem State.waitFor_me_stop (w : Wait) : (s.waitFor w).me.stop = s.me.stop := State.setCur_me_stop _ _

@[simp] theorem State.waitFor_me_pad (w : Wait) : (s.waitFor w).me.pad = s.me.pad := State.setCur_me_pad _ _

@[simp] theorem State.waitFor_me_lanes (w : Wait) : (s.waitFor w).me.lanes = s.me.lanes := State.setCur_me_lanes _ _

@[simp] theorem State.waitFor_me_since (w : Wait) : (s.waitFor w).me.since = s.me.since := State.setCur_me_since _ _
@[simp] theorem State.waitFor_me_append (w : Wait) : (s.waitFor w).me.append = s.me.append := State.setCur_me_append _ _
@[simp] theorem State.waitFor_me_kept (w : Wait) : (s.waitFor w).me.kept = s.me.kept := State.setCur_me_kept _ _
@[simp] theorem State.waitFor_me_plans (w : Wait) : (s.waitFor w).me.plans = s.me.plans := State.setCur_me_plans _ _
@[simp] theorem State.waitFor_me_stopping (w : Wait) : (s.waitFor w).me.stopping = s.me.stopping := State.setCur_me_stopping _ _
@[simp] theorem State.waitFor_me_stopped (w : Wait) : (s.waitFor w).me.stopped = s.me.stopped := State.setCur_me_stopped _ _
@[simp] theorem State.waitFor_me_ahead (w : Wait) : (s.waitFor w).me.ahead = s.me.ahead := State.setCur_me_ahead _ _
@[simp] theorem State.waitFor_me_half (w : Wait) : (s.waitFor w).me.half = s.me.half := State.setCur_me_half _ _

@[simp] theorem State.waitFor_me_codeSeen (w : Wait) : (s.waitFor w).me.codeSeen = s.me.codeSeen := State.setCur_me_codeSeen _ _

@[simp] theorem State.waitFor_me_restarts (w : Wait) : (s.waitFor w).me.restarts = s.me.restarts := State.setCur_me_restarts _ _

@[simp] theorem State.waitFor_me_ending (w : Wait) : (s.waitFor w).me.ending = s.me.ending := State.setCur_me_ending _ _

@[simp] theorem State.waitFor_me_readyAt (w : Wait) : (s.waitFor w).me.readyAt = s.me.readyAt := State.setCur_me_readyAt _ _

@[simp] theorem State.waitFor_cur_regs (w : Wait) : (s.waitFor w).cur.regs = s.cur.regs := by
  unfold State.waitFor; rw [State.setCur_cur]

@[simp] theorem State.waitFor_cur_pc (w : Wait) : (s.waitFor w).cur.pc = s.cur.pc := by
  unfold State.waitFor; rw [State.setCur_cur]

@[simp] theorem State.waitFor_cur_priv (w : Wait) : (s.waitFor w).cur.priv = s.cur.priv := by
  unfold State.waitFor; rw [State.setCur_cur]

@[simp] theorem State.waitFor_cur_lc (w : Wait) : (s.waitFor w).cur.lc = s.cur.lc := by
  unfold State.waitFor; rw [State.setCur_cur]

@[simp] theorem State.waitFor_cur_lt (w : Wait) : (s.waitFor w).cur.lt = s.cur.lt := by
  unfold State.waitFor; rw [State.setCur_cur]

@[simp] theorem State.waitFor_cur_tcause (w : Wait) : (s.waitFor w).cur.tcause = s.cur.tcause := by
  unfold State.waitFor; rw [State.setCur_cur]

@[simp] theorem State.waitFor_cur_tval (w : Wait) : (s.waitFor w).cur.tval = s.cur.tval := by
  unfold State.waitFor; rw [State.setCur_cur]

@[simp] theorem State.waitFor_cur_tepc (w : Wait) : (s.waitFor w).cur.tepc = s.cur.tepc := by
  unfold State.waitFor; rw [State.setCur_cur]

@[simp] theorem State.waitFor_cur_trec (w : Wait) : (s.waitFor w).cur.trec = s.cur.trec := by
  unfold State.waitFor; rw [State.setCur_cur]

@[simp] theorem State.waitFor_cur_halted (w : Wait) : (s.waitFor w).cur.halted = s.cur.halted := by
  unfold State.waitFor; rw [State.setCur_cur]

@[simp] theorem State.waitFor_cur_wait (w : Wait) : (s.waitFor w).cur.wait = w := by
  unfold State.waitFor; rw [State.setCur_cur]

@[simp] theorem State.waitFor_cur_synced (w : Wait) : (s.waitFor w).cur.synced = s.cur.synced := by
  unfold State.waitFor; rw [State.setCur_cur]

@[simp] theorem State.waitFor_cur_early (w : Wait) : (s.waitFor w).cur.early = s.cur.early := by
  unfold State.waitFor; rw [State.setCur_cur]

theorem State.retire_eq : s.retire = s.setPc (s.cur.pc + 4) := rfl

/-! ## Registers -/

@[simp] theorem Thread.setReg_pc (t : Thread) (r : RegNo) (v : Word) : (t.setReg r v).pc = t.pc := by
  unfold Thread.setReg; split <;> rfl

@[simp] theorem Thread.setReg_priv (t : Thread) (r : RegNo) (v : Word) : (t.setReg r v).priv = t.priv := by
  unfold Thread.setReg; split <;> rfl

@[simp] theorem Thread.setReg_lc (t : Thread) (r : RegNo) (v : Word) : (t.setReg r v).lc = t.lc := by
  unfold Thread.setReg; split <;> rfl

@[simp] theorem Thread.setReg_lt (t : Thread) (r : RegNo) (v : Word) : (t.setReg r v).lt = t.lt := by
  unfold Thread.setReg; split <;> rfl

@[simp] theorem Thread.setReg_tcause (t : Thread) (r : RegNo) (v : Word) : (t.setReg r v).tcause = t.tcause := by
  unfold Thread.setReg; split <;> rfl

@[simp] theorem Thread.setReg_tval (t : Thread) (r : RegNo) (v : Word) : (t.setReg r v).tval = t.tval := by
  unfold Thread.setReg; split <;> rfl

@[simp] theorem Thread.setReg_tepc (t : Thread) (r : RegNo) (v : Word) : (t.setReg r v).tepc = t.tepc := by
  unfold Thread.setReg; split <;> rfl

@[simp] theorem Thread.setReg_trec (t : Thread) (r : RegNo) (v : Word) : (t.setReg r v).trec = t.trec := by
  unfold Thread.setReg; split <;> rfl

@[simp] theorem Thread.setReg_halted (t : Thread) (r : RegNo) (v : Word) : (t.setReg r v).halted = t.halted := by
  unfold Thread.setReg; split <;> rfl

@[simp] theorem Thread.setReg_wait (t : Thread) (r : RegNo) (v : Word) : (t.setReg r v).wait = t.wait := by
  unfold Thread.setReg; split <;> rfl

@[simp] theorem Thread.setReg_synced (t : Thread) (r : RegNo) (v : Word) : (t.setReg r v).synced = t.synced := by
  unfold Thread.setReg; split <;> rfl

@[simp] theorem Thread.setReg_early (t : Thread) (r : RegNo) (v : Word) : (t.setReg r v).early = t.early := by
  unfold Thread.setReg; split <;> rfl

@[simp] theorem Thread.setReg_pend (t : Thread) (r : RegNo) (v : Word) : (t.setReg r v).pend = t.pend := by
  unfold Thread.setReg; split <;> rfl

/-- Register 0 reads as zero (R46). -/
@[simp] theorem Thread.reg_zero (t : Thread) : t.reg 0 = 0 := by simp [Thread.reg]

/-- A write of register 0 is discarded (R46). -/
@[simp] theorem Thread.setReg_zero (t : Thread) (v : Word) : t.setReg 0 v = t := by simp [Thread.setReg]

/-- A register reads as it was last written. -/
theorem Thread.reg_setReg_same (t : Thread) (r : RegNo) (v : Word) (h : r ≠ 0) : (t.setReg r v).reg r = v := by
  have hr : r.toNat < 32 := r.isLt
  unfold Thread.reg Thread.setReg
  rw [if_neg h, if_neg h]
  simp [hr]

/-- A write leaves every other register alone. -/
theorem Thread.reg_setReg_ne (t : Thread) (r k : RegNo) (v : Word) (h : k ≠ r) : (t.setReg r v).reg k = t.reg k := by
  have hk : k.toNat < 32 := k.isLt
  have hn : r.toNat ≠ k.toNat := fun e => h (BitVec.eq_of_toNat_eq e.symm)
  unfold Thread.reg Thread.setReg
  by_cases hr : r = 0
  · rw [if_pos hr]
  · rw [if_neg hr]
    by_cases h0 : k = 0
    · rw [if_pos h0, if_pos h0]
    · rw [if_neg h0, if_neg h0]
      simp [hk, hn]

/-! ## Queues -/

@[simp] theorem State.setQueue_thr (q : Nat) (k : Queue) : (s.setQueue q k).thr = s.thr := rfl

@[simp] theorem State.setQueue_vu (q : Nat) (k : Queue) : (s.setQueue q k).vu = s.vu := rfl

@[simp] theorem State.setQueue_peers (q : Nat) (k : Queue) : (s.setQueue q k).peers = s.peers := rfl

@[simp] theorem State.setQueue_vus (q : Nat) (k : Queue) : (s.setQueue q k).vus = s.vus := rfl

@[simp] theorem State.setQueue_tiles (q : Nat) (k : Queue) : (s.setQueue q k).tiles = s.tiles := rfl

@[simp] theorem State.setQueue_mem (q : Nat) (k : Queue) : (s.setQueue q k).mem = s.mem := rfl

@[simp] theorem State.setQueue_poison (q : Nat) (k : Queue) : (s.setQueue q k).poison = s.poison := rfl

@[simp] theorem State.setQueue_padPoison (q : Nat) (k : Queue) : (s.setQueue q k).padPoison = s.padPoison := rfl

@[simp] theorem State.setQueue_blocks (q : Nat) (k : Queue) : (s.setQueue q k).blocks = s.blocks := rfl

@[simp] theorem State.setQueue_gts (q : Nat) (k : Queue) : (s.setQueue q k).gts = s.gts := rfl

@[simp] theorem State.setQueue_tlb (q : Nat) (k : Queue) : (s.setQueue q k).tlb = s.tlb := rfl

@[simp] theorem State.setQueue_contexts (q : Nat) (k : Queue) : (s.setQueue q k).contexts = s.contexts := rfl

@[simp] theorem State.setQueue_queues (q : Nat) (k : Queue) : (s.setQueue q k).queues = s.queues := rfl

@[simp] theorem State.setQueue_launches (q : Nat) (k : Queue) : (s.setQueue q k).launches = s.launches := rfl

@[simp] theorem State.setQueue_gens (q : Nat) (k : Queue) : (s.setQueue q k).gens = s.gens := rfl

@[simp] theorem State.setQueue_cmds (q : Nat) (k : Queue) : (s.setQueue q k).cmds = s.cmds := rfl

@[simp] theorem State.setQueue_statuses (q : Nat) (k : Queue) : (s.setQueue q k).statuses = s.statuses := rfl

@[simp] theorem State.setQueue_serials (q : Nat) (k : Queue) : (s.setQueue q k).serials = s.serials := rfl

@[simp] theorem State.setQueue_preloads (q : Nat) (k : Queue) : (s.setQueue q k).preloads = s.preloads := rfl

@[simp] theorem State.setQueue_nextUid (q : Nat) (k : Queue) : (s.setQueue q k).nextUid = s.nextUid := rfl

@[simp] theorem State.setQueue_cmdring (q : Nat) (k : Queue) : (s.setQueue q k).cmdring = s.cmdring := rfl

@[simp] theorem State.setQueue_fct (q : Nat) (k : Queue) : (s.setQueue q k).fct = s.fct := rfl

@[simp] theorem State.setQueue_holdoff (q : Nat) (k : Queue) : (s.setQueue q k).holdoff = s.holdoff := rfl

@[simp] theorem State.setQueue_regions (q : Nat) (k : Queue) : (s.setQueue q k).regions = s.regions := rfl

@[simp] theorem State.setQueue_cmdHead (q : Nat) (k : Queue) : (s.setQueue q k).cmdHead = s.cmdHead := rfl

@[simp] theorem State.setQueue_rings (q : Nat) (k : Queue) : (s.setQueue q k).rings = s.rings := rfl

@[simp] theorem State.setQueue_ringEntries (q : Nat) (k : Queue) : (s.setQueue q k).ringEntries = s.ringEntries := rfl

@[simp] theorem State.setQueue_erases (q : Nat) (k : Queue) : (s.setQueue q k).erases = s.erases := rfl

@[simp] theorem State.setQueue_counters (q : Nat) (k : Queue) : (s.setQueue q k).counters = s.counters := rfl

@[simp] theorem State.setQueue_plog (q : Nat) (k : Queue) : (s.setQueue q k).plog = s.plog := rfl

@[simp] theorem State.setQueue_overruns (q : Nat) (k : Queue) : (s.setQueue q k).overruns = s.overruns := rfl

@[simp] theorem State.setQueue_spares (q : Nat) (k : Queue) : (s.setQueue q k).spares = s.spares := rfl

@[simp] theorem State.setQueue_firmware (q : Nat) (k : Queue) : (s.setQueue q k).firmware = s.firmware := rfl

@[simp] theorem State.setQueue_platform (q : Nat) (k : Queue) : (s.setQueue q k).platform = s.platform := rfl

@[simp] theorem State.setQueue_reports (q : Nat) (k : Queue) : (s.setQueue q k).reports = s.reports := rfl

@[simp] theorem State.setQueue_stopped (q : Nat) (k : Queue) : (s.setQueue q k).stopped = s.stopped := rfl

@[simp] theorem State.setQueue_codeOld (q : Nat) (k : Queue) : (s.setQueue q k).codeOld = s.codeOld := rfl

@[simp] theorem State.setQueue_slice (q : Nat) (k : Queue) : (s.setQueue q k).slice = s.slice := rfl
@[simp] theorem State.setQueue_skips (q : Nat) (k : Queue) : (s.setQueue q k).skips = s.skips := rfl
@[simp] theorem State.setQueue_flash (q : Nat) (k : Queue) : (s.setQueue q k).flash = s.flash := rfl
@[simp] theorem State.setQueue_agents (q : Nat) (k : Queue) : (s.setQueue q k).agents = s.agents := rfl
@[simp] theorem State.setQueue_arrivals (q : Nat) (k : Queue) : (s.setQueue q k).arrivals = s.arrivals := rfl
@[simp] theorem State.setQueue_holds (q : Nat) (k : Queue) : (s.setQueue q k).holds = s.holds := rfl

@[simp] theorem State.setQueue_free (q : Nat) (k : Queue) : (s.setQueue q k).free = s.free := rfl

@[simp] theorem State.setQueue_inputs (q : Nat) (k : Queue) : (s.setQueue q k).inputs = s.inputs := rfl

@[simp] theorem State.setQueue_me_uid (q : Nat) (k : Queue) : (s.setQueue q k).me.uid = s.me.uid := rfl

@[simp] theorem State.setQueue_me_status (q : Nat) (k : Queue) : (s.setQueue q k).me.status = s.me.status := rfl

@[simp] theorem State.setQueue_me_ctx (q : Nat) (k : Queue) : (s.setQueue q k).me.ctx = s.me.ctx := rfl

@[simp] theorem State.setQueue_me_launch (q : Nat) (k : Queue) : (s.setQueue q k).me.launch = s.me.launch := rfl

@[simp] theorem State.setQueue_me_die (q : Nat) (k : Queue) : (s.setQueue q k).me.die = s.me.die := rfl

@[simp] theorem State.setQueue_me_core (q : Nat) (k : Queue) : (s.setQueue q k).me.core = s.me.core := rfl

@[simp] theorem State.setQueue_me_slot (q : Nat) (k : Queue) : (s.setQueue q k).me.slot = s.me.slot := rfl

@[simp] theorem State.setQueue_me_eidx (q : Nat) (k : Queue) : (s.setQueue q k).me.eidx = s.me.eidx := rfl

@[simp] theorem State.setQueue_me_jidx (q : Nat) (k : Queue) : (s.setQueue q k).me.jidx = s.me.jidx := rfl

@[simp] theorem State.setQueue_me_cls (q : Nat) (k : Queue) : (s.setQueue q k).me.cls = s.me.cls := rfl

@[simp] theorem State.setQueue_me_vregs (q : Nat) (k : Queue) : (s.setQueue q k).me.vregs = s.me.vregs := rfl

@[simp] theorem State.setQueue_me_ntiles (q : Nat) (k : Queue) : (s.setQueue q k).me.ntiles = s.me.ntiles := rfl

@[simp] theorem State.setQueue_me_scratch (q : Nat) (k : Queue) : (s.setQueue q k).me.scratch = s.me.scratch := rfl

@[simp] theorem State.setQueue_me_lanestore (q : Nat) (k : Queue) : (s.setQueue q k).me.lanestore = s.me.lanestore := rfl

@[simp] theorem State.setQueue_me_budget0 (q : Nat) (k : Queue) : (s.setQueue q k).me.budget0 = s.me.budget0 := rfl

@[simp] theorem State.setQueue_me_save (q : Nat) (k : Queue) : (s.setQueue q k).me.save = s.me.save := rfl

@[simp] theorem State.setQueue_me_bound (q : Nat) (k : Queue) : (s.setQueue q k).me.bound = s.me.bound := rfl

@[simp] theorem State.setQueue_me_a (q : Nat) (k : Queue) : (s.setQueue q k).me.a = s.me.a := rfl

@[simp] theorem State.setQueue_me_x (q : Nat) (k : Queue) : (s.setQueue q k).me.x = s.me.x := rfl

@[simp] theorem State.setQueue_me_fcsr (q : Nat) (k : Queue) : (s.setQueue q k).me.fcsr = s.me.fcsr := rfl

@[simp] theorem State.setQueue_me_lscale (q : Nat) (k : Queue) : (s.setQueue q k).me.lscale = s.me.lscale := rfl

@[simp] theorem State.setQueue_me_tcols (q : Nat) (k : Queue) : (s.setQueue q k).me.tcols = s.me.tcols := rfl

@[simp] theorem State.setQueue_me_kvpos (q : Nat) (k : Queue) : (s.setQueue q k).me.kvpos = s.me.kvpos := rfl

@[simp] theorem State.setQueue_me_subn (q : Nat) (k : Queue) : (s.setQueue q k).me.subn = s.me.subn := rfl

@[simp] theorem State.setQueue_me_xstate (q : Nat) (k : Queue) : (s.setQueue q k).me.xstate = s.me.xstate := rfl

@[simp] theorem State.setQueue_me_event (q : Nat) (k : Queue) : (s.setQueue q k).me.event = s.me.event := rfl

@[simp] theorem State.setQueue_me_budget (q : Nat) (k : Queue) : (s.setQueue q k).me.budget = s.me.budget := rfl

@[simp] theorem State.setQueue_me_ydl (q : Nat) (k : Queue) : (s.setQueue q k).me.ydl = s.me.ydl := rfl

@[simp] theorem State.setQueue_me_cfd (q : Nat) (k : Queue) : (s.setQueue q k).me.cfd = s.me.cfd := rfl

@[simp] theorem State.setQueue_me_cf (q : Nat) (k : Queue) : (s.setQueue q k).me.cf = s.me.cf := rfl

@[simp] theorem State.setQueue_me_avTok (q : Nat) (k : Queue) : (s.setQueue q k).me.avTok = s.me.avTok := rfl

@[simp] theorem State.setQueue_me_anext (q : Nat) (k : Queue) : (s.setQueue q k).me.anext = s.me.anext := rfl

@[simp] theorem State.setQueue_me_vnext (q : Nat) (k : Queue) : (s.setQueue q k).me.vnext = s.me.vnext := rfl

@[simp] theorem State.setQueue_me_vins (q : Nat) (k : Queue) : (s.setQueue q k).me.vins = s.me.vins := rfl

@[simp] theorem State.setQueue_me_aops (q : Nat) (k : Queue) : (s.setQueue q k).me.aops = s.me.aops := rfl

@[simp] theorem State.setQueue_me_vops (q : Nat) (k : Queue) : (s.setQueue q k).me.vops = s.me.vops := rfl

@[simp] theorem State.setQueue_me_ahold (q : Nat) (k : Queue) : (s.setQueue q k).me.ahold = s.me.ahold := rfl

@[simp] theorem State.setQueue_me_vhold (q : Nat) (k : Queue) : (s.setQueue q k).me.vhold = s.me.vhold := rfl

@[simp] theorem State.setQueue_me_vfence (q : Nat) (k : Queue) : (s.setQueue q k).me.vfence = s.me.vfence := rfl

@[simp] theorem State.setQueue_me_samples (q : Nat) (k : Queue) : (s.setQueue q k).me.samples = s.me.samples := rfl

@[simp] theorem State.setQueue_me_sevs (q : Nat) (k : Queue) : (s.setQueue q k).me.sevs = s.me.sevs := rfl

@[simp] theorem State.setQueue_me_waitTok (q : Nat) (k : Queue) : (s.setQueue q k).me.waitTok = s.me.waitTok := rfl

@[simp] theorem State.setQueue_me_bars (q : Nat) (k : Queue) : (s.setQueue q k).me.bars = s.me.bars := rfl

@[simp] theorem State.setQueue_me_conv (q : Nat) (k : Queue) : (s.setQueue q k).me.conv = s.me.conv := rfl

@[simp] theorem State.setQueue_me_savedConv (q : Nat) (k : Queue) : (s.setQueue q k).me.savedConv = s.me.savedConv := rfl

@[simp] theorem State.setQueue_me_chA (q : Nat) (k : Queue) : (s.setQueue q k).me.chA = s.me.chA := rfl

@[simp] theorem State.setQueue_me_chX (q : Nat) (k : Queue) : (s.setQueue q k).me.chX = s.me.chX := rfl

@[simp] theorem State.setQueue_me_assists (q : Nat) (k : Queue) : (s.setQueue q k).me.assists = s.me.assists := rfl

@[simp] theorem State.setQueue_me_resuming (q : Nat) (k : Queue) : (s.setQueue q k).me.resuming = s.me.resuming := rfl

@[simp] theorem State.setQueue_me_resumeAt (q : Nat) (k : Queue) : (s.setQueue q k).me.resumeAt = s.me.resumeAt := rfl

@[simp] theorem State.setQueue_me_stop (q : Nat) (k : Queue) : (s.setQueue q k).me.stop = s.me.stop := rfl

@[simp] theorem State.setQueue_me_pad (q : Nat) (k : Queue) : (s.setQueue q k).me.pad = s.me.pad := rfl

@[simp] theorem State.setQueue_me_lanes (q : Nat) (k : Queue) : (s.setQueue q k).me.lanes = s.me.lanes := rfl

@[simp] theorem State.setQueue_me_since (q : Nat) (k : Queue) : (s.setQueue q k).me.since = s.me.since := rfl
@[simp] theorem State.setQueue_me_append (q : Nat) (k : Queue) : (s.setQueue q k).me.append = s.me.append := rfl
@[simp] theorem State.setQueue_me_kept (q : Nat) (k : Queue) : (s.setQueue q k).me.kept = s.me.kept := rfl
@[simp] theorem State.setQueue_me_plans (q : Nat) (k : Queue) : (s.setQueue q k).me.plans = s.me.plans := rfl
@[simp] theorem State.setQueue_me_stopping (q : Nat) (k : Queue) : (s.setQueue q k).me.stopping = s.me.stopping := rfl
@[simp] theorem State.setQueue_me_stopped (q : Nat) (k : Queue) : (s.setQueue q k).me.stopped = s.me.stopped := rfl
@[simp] theorem State.setQueue_me_ahead (q : Nat) (k : Queue) : (s.setQueue q k).me.ahead = s.me.ahead := rfl
@[simp] theorem State.setQueue_me_half (q : Nat) (k : Queue) : (s.setQueue q k).me.half = s.me.half := rfl

@[simp] theorem State.setQueue_me_codeSeen (q : Nat) (k : Queue) : (s.setQueue q k).me.codeSeen = s.me.codeSeen := rfl

@[simp] theorem State.setQueue_me_restarts (q : Nat) (k : Queue) : (s.setQueue q k).me.restarts = s.me.restarts := rfl

@[simp] theorem State.setQueue_me_ending (q : Nat) (k : Queue) : (s.setQueue q k).me.ending = s.me.ending := rfl

@[simp] theorem State.setQueue_me_readyAt (q : Nat) (k : Queue) : (s.setQueue q k).me.readyAt = s.me.readyAt := rfl

@[simp] theorem State.tokenEffect_thr (q : Nat) (t : Option Nat) : (s.tokenEffect q t).thr = s.thr := by
  unfold State.tokenEffect; split <;> (try split) <;> rfl

@[simp] theorem State.tokenEffect_vu (q : Nat) (t : Option Nat) : (s.tokenEffect q t).vu = s.vu := by
  unfold State.tokenEffect; split <;> (try split) <;> rfl

@[simp] theorem State.tokenEffect_peers (q : Nat) (t : Option Nat) : (s.tokenEffect q t).peers = s.peers := by
  unfold State.tokenEffect; split <;> (try split) <;> rfl

@[simp] theorem State.tokenEffect_vus (q : Nat) (t : Option Nat) : (s.tokenEffect q t).vus = s.vus := by
  unfold State.tokenEffect; split <;> (try split) <;> rfl

@[simp] theorem State.tokenEffect_tiles (q : Nat) (t : Option Nat) : (s.tokenEffect q t).tiles = s.tiles := by
  unfold State.tokenEffect; split <;> (try split) <;> rfl

@[simp] theorem State.tokenEffect_mem (q : Nat) (t : Option Nat) : (s.tokenEffect q t).mem = s.mem := by
  unfold State.tokenEffect; split <;> (try split) <;> rfl

@[simp] theorem State.tokenEffect_poison (q : Nat) (t : Option Nat) : (s.tokenEffect q t).poison = s.poison := by
  unfold State.tokenEffect; split <;> (try split) <;> rfl

@[simp] theorem State.tokenEffect_padPoison (q : Nat) (t : Option Nat) : (s.tokenEffect q t).padPoison = s.padPoison := by
  unfold State.tokenEffect; split <;> (try split) <;> rfl

@[simp] theorem State.tokenEffect_blocks (q : Nat) (t : Option Nat) : (s.tokenEffect q t).blocks = s.blocks := by
  unfold State.tokenEffect; split <;> (try split) <;> rfl

@[simp] theorem State.tokenEffect_gts (q : Nat) (t : Option Nat) : (s.tokenEffect q t).gts = s.gts := by
  unfold State.tokenEffect; split <;> (try split) <;> rfl

@[simp] theorem State.tokenEffect_tlb (q : Nat) (t : Option Nat) : (s.tokenEffect q t).tlb = s.tlb := by
  unfold State.tokenEffect; split <;> (try split) <;> rfl

@[simp] theorem State.tokenEffect_contexts (q : Nat) (t : Option Nat) : (s.tokenEffect q t).contexts = s.contexts := by
  unfold State.tokenEffect; split <;> (try split) <;> rfl

@[simp] theorem State.tokenEffect_queues (q : Nat) (t : Option Nat) : (s.tokenEffect q t).queues = s.queues := by
  unfold State.tokenEffect; split <;> (try split) <;> rfl

@[simp] theorem State.tokenEffect_launches (q : Nat) (t : Option Nat) : (s.tokenEffect q t).launches = s.launches := by
  unfold State.tokenEffect; split <;> (try split) <;> rfl

@[simp] theorem State.tokenEffect_gens (q : Nat) (t : Option Nat) : (s.tokenEffect q t).gens = s.gens := by
  unfold State.tokenEffect; split <;> (try split) <;> rfl

@[simp] theorem State.tokenEffect_cmds (q : Nat) (t : Option Nat) : (s.tokenEffect q t).cmds = s.cmds := by
  unfold State.tokenEffect; split <;> (try split) <;> rfl

@[simp] theorem State.tokenEffect_statuses (q : Nat) (t : Option Nat) : (s.tokenEffect q t).statuses = s.statuses := by
  unfold State.tokenEffect; split <;> (try split) <;> rfl

@[simp] theorem State.tokenEffect_serials (q : Nat) (t : Option Nat) : (s.tokenEffect q t).serials = s.serials := by
  unfold State.tokenEffect; split <;> (try split) <;> rfl

@[simp] theorem State.tokenEffect_preloads (q : Nat) (t : Option Nat) : (s.tokenEffect q t).preloads = s.preloads := by
  unfold State.tokenEffect; split <;> (try split) <;> rfl

@[simp] theorem State.tokenEffect_nextUid (q : Nat) (t : Option Nat) : (s.tokenEffect q t).nextUid = s.nextUid := by
  unfold State.tokenEffect; split <;> (try split) <;> rfl

@[simp] theorem State.tokenEffect_cmdring (q : Nat) (t : Option Nat) : (s.tokenEffect q t).cmdring = s.cmdring := by
  unfold State.tokenEffect; split <;> (try split) <;> rfl

@[simp] theorem State.tokenEffect_fct (q : Nat) (t : Option Nat) : (s.tokenEffect q t).fct = s.fct := by
  unfold State.tokenEffect; split <;> (try split) <;> rfl

@[simp] theorem State.tokenEffect_holdoff (q : Nat) (t : Option Nat) : (s.tokenEffect q t).holdoff = s.holdoff := by
  unfold State.tokenEffect; split <;> (try split) <;> rfl

@[simp] theorem State.tokenEffect_regions (q : Nat) (t : Option Nat) : (s.tokenEffect q t).regions = s.regions := by
  unfold State.tokenEffect; split <;> (try split) <;> rfl

@[simp] theorem State.tokenEffect_cmdHead (q : Nat) (t : Option Nat) : (s.tokenEffect q t).cmdHead = s.cmdHead := by
  unfold State.tokenEffect; split <;> (try split) <;> rfl

@[simp] theorem State.tokenEffect_rings (q : Nat) (t : Option Nat) : (s.tokenEffect q t).rings = s.rings := by
  unfold State.tokenEffect; split <;> (try split) <;> rfl

@[simp] theorem State.tokenEffect_ringEntries (q : Nat) (t : Option Nat) : (s.tokenEffect q t).ringEntries = s.ringEntries := by
  unfold State.tokenEffect; split <;> (try split) <;> rfl

@[simp] theorem State.tokenEffect_erases (q : Nat) (t : Option Nat) : (s.tokenEffect q t).erases = s.erases := by
  unfold State.tokenEffect; split <;> (try split) <;> rfl

@[simp] theorem State.tokenEffect_counters (q : Nat) (t : Option Nat) : (s.tokenEffect q t).counters = s.counters := by
  unfold State.tokenEffect; split <;> (try split) <;> rfl

@[simp] theorem State.tokenEffect_plog (q : Nat) (t : Option Nat) : (s.tokenEffect q t).plog = s.plog := by
  unfold State.tokenEffect; split <;> (try split) <;> rfl

@[simp] theorem State.tokenEffect_overruns (q : Nat) (t : Option Nat) : (s.tokenEffect q t).overruns = s.overruns := by
  unfold State.tokenEffect; split <;> (try split) <;> rfl

@[simp] theorem State.tokenEffect_spares (q : Nat) (t : Option Nat) : (s.tokenEffect q t).spares = s.spares := by
  unfold State.tokenEffect; split <;> (try split) <;> rfl

@[simp] theorem State.tokenEffect_firmware (q : Nat) (t : Option Nat) : (s.tokenEffect q t).firmware = s.firmware := by
  unfold State.tokenEffect; split <;> (try split) <;> rfl

@[simp] theorem State.tokenEffect_platform (q : Nat) (t : Option Nat) : (s.tokenEffect q t).platform = s.platform := by
  unfold State.tokenEffect; split <;> (try split) <;> rfl

@[simp] theorem State.tokenEffect_reports (q : Nat) (t : Option Nat) : (s.tokenEffect q t).reports = s.reports := by
  unfold State.tokenEffect; split <;> (try split) <;> rfl

@[simp] theorem State.tokenEffect_stopped (q : Nat) (t : Option Nat) : (s.tokenEffect q t).stopped = s.stopped := by
  unfold State.tokenEffect; split <;> (try split) <;> rfl

@[simp] theorem State.tokenEffect_codeOld (q : Nat) (t : Option Nat) : (s.tokenEffect q t).codeOld = s.codeOld := by
  unfold State.tokenEffect; split <;> (try split) <;> rfl

@[simp] theorem State.tokenEffect_slice (q : Nat) (t : Option Nat) : (s.tokenEffect q t).slice = s.slice := by
  unfold State.tokenEffect; split <;> (try split) <;> rfl

@[simp] theorem State.tokenEffect_skips (q : Nat) (t : Option Nat) : (s.tokenEffect q t).skips = s.skips := by
  unfold State.tokenEffect; split <;> (try split) <;> rfl

@[simp] theorem State.tokenEffect_flash (q : Nat) (t : Option Nat) : (s.tokenEffect q t).flash = s.flash := by
  unfold State.tokenEffect; split <;> (try split) <;> rfl

@[simp] theorem State.tokenEffect_agents (q : Nat) (t : Option Nat) : (s.tokenEffect q t).agents = s.agents := by
  unfold State.tokenEffect; split <;> (try split) <;> rfl

@[simp] theorem State.tokenEffect_arrivals (q : Nat) (t : Option Nat) : (s.tokenEffect q t).arrivals = s.arrivals := by
  unfold State.tokenEffect; split <;> (try split) <;> rfl

@[simp] theorem State.tokenEffect_holds (q : Nat) (t : Option Nat) : (s.tokenEffect q t).holds = s.holds := by
  unfold State.tokenEffect; split <;> (try split) <;> rfl

@[simp] theorem State.tokenEffect_free (q : Nat) (t : Option Nat) : (s.tokenEffect q t).free = s.free := by
  unfold State.tokenEffect; split <;> (try split) <;> rfl

@[simp] theorem State.tokenEffect_inputs (q : Nat) (t : Option Nat) : (s.tokenEffect q t).inputs = s.inputs := by
  unfold State.tokenEffect; split <;> (try split) <;> rfl

@[simp] theorem State.pop_thr (q : Nat) : (s.pop q).2.thr = s.thr := by
  unfold State.pop; split <;> simp

@[simp] theorem State.pop_vu (q : Nat) : (s.pop q).2.vu = s.vu := by
  unfold State.pop; split <;> simp

@[simp] theorem State.pop_peers (q : Nat) : (s.pop q).2.peers = s.peers := by
  unfold State.pop; split <;> simp

@[simp] theorem State.pop_vus (q : Nat) : (s.pop q).2.vus = s.vus := by
  unfold State.pop; split <;> simp

@[simp] theorem State.pop_tiles (q : Nat) : (s.pop q).2.tiles = s.tiles := by
  unfold State.pop; split <;> simp

@[simp] theorem State.pop_mem (q : Nat) : (s.pop q).2.mem = s.mem := by
  unfold State.pop; split <;> simp

@[simp] theorem State.pop_poison (q : Nat) : (s.pop q).2.poison = s.poison := by
  unfold State.pop; split <;> simp

@[simp] theorem State.pop_padPoison (q : Nat) : (s.pop q).2.padPoison = s.padPoison := by
  unfold State.pop; split <;> simp

@[simp] theorem State.pop_blocks (q : Nat) : (s.pop q).2.blocks = s.blocks := by
  unfold State.pop; split <;> simp

@[simp] theorem State.pop_gts (q : Nat) : (s.pop q).2.gts = s.gts := by
  unfold State.pop; split <;> simp

@[simp] theorem State.pop_tlb (q : Nat) : (s.pop q).2.tlb = s.tlb := by
  unfold State.pop; split <;> simp

@[simp] theorem State.pop_contexts (q : Nat) : (s.pop q).2.contexts = s.contexts := by
  unfold State.pop; split <;> simp

@[simp] theorem State.pop_queues (q : Nat) : (s.pop q).2.queues = s.queues := by
  unfold State.pop; split <;> simp

@[simp] theorem State.pop_launches (q : Nat) : (s.pop q).2.launches = s.launches := by
  unfold State.pop; split <;> simp

@[simp] theorem State.pop_gens (q : Nat) : (s.pop q).2.gens = s.gens := by
  unfold State.pop; split <;> simp

@[simp] theorem State.pop_cmds (q : Nat) : (s.pop q).2.cmds = s.cmds := by
  unfold State.pop; split <;> simp

@[simp] theorem State.pop_statuses (q : Nat) : (s.pop q).2.statuses = s.statuses := by
  unfold State.pop; split <;> simp

@[simp] theorem State.pop_serials (q : Nat) : (s.pop q).2.serials = s.serials := by
  unfold State.pop; split <;> simp

@[simp] theorem State.pop_preloads (q : Nat) : (s.pop q).2.preloads = s.preloads := by
  unfold State.pop; split <;> simp

@[simp] theorem State.pop_nextUid (q : Nat) : (s.pop q).2.nextUid = s.nextUid := by
  unfold State.pop; split <;> simp

@[simp] theorem State.pop_cmdring (q : Nat) : (s.pop q).2.cmdring = s.cmdring := by
  unfold State.pop; split <;> simp

@[simp] theorem State.pop_fct (q : Nat) : (s.pop q).2.fct = s.fct := by
  unfold State.pop; split <;> simp

@[simp] theorem State.pop_holdoff (q : Nat) : (s.pop q).2.holdoff = s.holdoff := by
  unfold State.pop; split <;> simp

@[simp] theorem State.pop_regions (q : Nat) : (s.pop q).2.regions = s.regions := by
  unfold State.pop; split <;> simp

@[simp] theorem State.pop_cmdHead (q : Nat) : (s.pop q).2.cmdHead = s.cmdHead := by
  unfold State.pop; split <;> simp

@[simp] theorem State.pop_rings (q : Nat) : (s.pop q).2.rings = s.rings := by
  unfold State.pop; split <;> simp

@[simp] theorem State.pop_ringEntries (q : Nat) : (s.pop q).2.ringEntries = s.ringEntries := by
  unfold State.pop; split <;> simp

@[simp] theorem State.pop_erases (q : Nat) : (s.pop q).2.erases = s.erases := by
  unfold State.pop; split <;> simp

@[simp] theorem State.pop_counters (q : Nat) : (s.pop q).2.counters = s.counters := by
  unfold State.pop; split <;> simp

@[simp] theorem State.pop_plog (q : Nat) : (s.pop q).2.plog = s.plog := by
  unfold State.pop; split <;> simp

@[simp] theorem State.pop_overruns (q : Nat) : (s.pop q).2.overruns = s.overruns := by
  unfold State.pop; split <;> simp

@[simp] theorem State.pop_spares (q : Nat) : (s.pop q).2.spares = s.spares := by
  unfold State.pop; split <;> simp

@[simp] theorem State.pop_firmware (q : Nat) : (s.pop q).2.firmware = s.firmware := by
  unfold State.pop; split <;> simp

@[simp] theorem State.pop_platform (q : Nat) : (s.pop q).2.platform = s.platform := by
  unfold State.pop; split <;> simp

@[simp] theorem State.pop_reports (q : Nat) : (s.pop q).2.reports = s.reports := by
  unfold State.pop; split <;> simp

@[simp] theorem State.pop_stopped (q : Nat) : (s.pop q).2.stopped = s.stopped := by
  unfold State.pop; split <;> simp

@[simp] theorem State.pop_codeOld (q : Nat) : (s.pop q).2.codeOld = s.codeOld := by
  unfold State.pop; split <;> simp

@[simp] theorem State.pop_slice (q : Nat) : (s.pop q).2.slice = s.slice := by
  unfold State.pop; split <;> simp

@[simp] theorem State.pop_skips (q : Nat) : (s.pop q).2.skips = s.skips := by
  unfold State.pop; split <;> simp

@[simp] theorem State.pop_flash (q : Nat) : (s.pop q).2.flash = s.flash := by
  unfold State.pop; split <;> simp

@[simp] theorem State.pop_agents (q : Nat) : (s.pop q).2.agents = s.agents := by
  unfold State.pop; split <;> simp

@[simp] theorem State.pop_arrivals (q : Nat) : (s.pop q).2.arrivals = s.arrivals := by
  unfold State.pop; split <;> simp

@[simp] theorem State.pop_holds (q : Nat) : (s.pop q).2.holds = s.holds := by
  unfold State.pop; split <;> simp

@[simp] theorem State.pop_free (q : Nat) : (s.pop q).2.free = s.free := by
  unfold State.pop; split <;> simp

@[simp] theorem State.pop_inputs (q : Nat) : (s.pop q).2.inputs = s.inputs := by
  unfold State.pop; split <;> simp

@[simp] theorem State.push_thr (q : Nat) (v : Granule) (b : Bool) : (s.push q v b).thr = s.thr := rfl

@[simp] theorem State.push_vu (q : Nat) (v : Granule) (b : Bool) : (s.push q v b).vu = s.vu := rfl

@[simp] theorem State.push_peers (q : Nat) (v : Granule) (b : Bool) : (s.push q v b).peers = s.peers := rfl

@[simp] theorem State.push_vus (q : Nat) (v : Granule) (b : Bool) : (s.push q v b).vus = s.vus := rfl

@[simp] theorem State.push_tiles (q : Nat) (v : Granule) (b : Bool) : (s.push q v b).tiles = s.tiles := rfl

@[simp] theorem State.push_mem (q : Nat) (v : Granule) (b : Bool) : (s.push q v b).mem = s.mem := rfl

@[simp] theorem State.push_poison (q : Nat) (v : Granule) (b : Bool) : (s.push q v b).poison = s.poison := rfl

@[simp] theorem State.push_padPoison (q : Nat) (v : Granule) (b : Bool) : (s.push q v b).padPoison = s.padPoison := rfl

@[simp] theorem State.push_blocks (q : Nat) (v : Granule) (b : Bool) : (s.push q v b).blocks = s.blocks := rfl

@[simp] theorem State.push_gts (q : Nat) (v : Granule) (b : Bool) : (s.push q v b).gts = s.gts := rfl

@[simp] theorem State.push_tlb (q : Nat) (v : Granule) (b : Bool) : (s.push q v b).tlb = s.tlb := rfl

@[simp] theorem State.push_contexts (q : Nat) (v : Granule) (b : Bool) : (s.push q v b).contexts = s.contexts := rfl

@[simp] theorem State.push_queues (q : Nat) (v : Granule) (b : Bool) : (s.push q v b).queues = s.queues := rfl

@[simp] theorem State.push_launches (q : Nat) (v : Granule) (b : Bool) : (s.push q v b).launches = s.launches := rfl

@[simp] theorem State.push_gens (q : Nat) (v : Granule) (b : Bool) : (s.push q v b).gens = s.gens := rfl

@[simp] theorem State.push_cmds (q : Nat) (v : Granule) (b : Bool) : (s.push q v b).cmds = s.cmds := rfl

@[simp] theorem State.push_statuses (q : Nat) (v : Granule) (b : Bool) : (s.push q v b).statuses = s.statuses := rfl

@[simp] theorem State.push_serials (q : Nat) (v : Granule) (b : Bool) : (s.push q v b).serials = s.serials := rfl

@[simp] theorem State.push_preloads (q : Nat) (v : Granule) (b : Bool) : (s.push q v b).preloads = s.preloads := rfl

@[simp] theorem State.push_nextUid (q : Nat) (v : Granule) (b : Bool) : (s.push q v b).nextUid = s.nextUid := rfl

@[simp] theorem State.push_cmdring (q : Nat) (v : Granule) (b : Bool) : (s.push q v b).cmdring = s.cmdring := rfl

@[simp] theorem State.push_fct (q : Nat) (v : Granule) (b : Bool) : (s.push q v b).fct = s.fct := rfl

@[simp] theorem State.push_holdoff (q : Nat) (v : Granule) (b : Bool) : (s.push q v b).holdoff = s.holdoff := rfl

@[simp] theorem State.push_regions (q : Nat) (v : Granule) (b : Bool) : (s.push q v b).regions = s.regions := rfl

@[simp] theorem State.push_cmdHead (q : Nat) (v : Granule) (b : Bool) : (s.push q v b).cmdHead = s.cmdHead := rfl

@[simp] theorem State.push_rings (q : Nat) (v : Granule) (b : Bool) : (s.push q v b).rings = s.rings := rfl

@[simp] theorem State.push_ringEntries (q : Nat) (v : Granule) (b : Bool) : (s.push q v b).ringEntries = s.ringEntries := rfl

@[simp] theorem State.push_erases (q : Nat) (v : Granule) (b : Bool) : (s.push q v b).erases = s.erases := rfl

@[simp] theorem State.push_counters (q : Nat) (v : Granule) (b : Bool) : (s.push q v b).counters = s.counters := rfl

@[simp] theorem State.push_plog (q : Nat) (v : Granule) (b : Bool) : (s.push q v b).plog = s.plog := rfl

@[simp] theorem State.push_overruns (q : Nat) (v : Granule) (b : Bool) : (s.push q v b).overruns = s.overruns := rfl

@[simp] theorem State.push_spares (q : Nat) (v : Granule) (b : Bool) : (s.push q v b).spares = s.spares := rfl

@[simp] theorem State.push_firmware (q : Nat) (v : Granule) (b : Bool) : (s.push q v b).firmware = s.firmware := rfl

@[simp] theorem State.push_platform (q : Nat) (v : Granule) (b : Bool) : (s.push q v b).platform = s.platform := rfl

@[simp] theorem State.push_reports (q : Nat) (v : Granule) (b : Bool) : (s.push q v b).reports = s.reports := rfl

@[simp] theorem State.push_stopped (q : Nat) (v : Granule) (b : Bool) : (s.push q v b).stopped = s.stopped := rfl

@[simp] theorem State.push_codeOld (q : Nat) (v : Granule) (b : Bool) : (s.push q v b).codeOld = s.codeOld := rfl

@[simp] theorem State.push_slice (q : Nat) (v : Granule) (b : Bool) : (s.push q v b).slice = s.slice := rfl
@[simp] theorem State.push_skips (q : Nat) (v : Granule) (b : Bool) : (s.push q v b).skips = s.skips := rfl
@[simp] theorem State.push_flash (q : Nat) (v : Granule) (b : Bool) : (s.push q v b).flash = s.flash := rfl
@[simp] theorem State.push_agents (q : Nat) (v : Granule) (b : Bool) : (s.push q v b).agents = s.agents := rfl
@[simp] theorem State.push_arrivals (q : Nat) (v : Granule) (b : Bool) : (s.push q v b).arrivals = s.arrivals := rfl
@[simp] theorem State.push_holds (q : Nat) (v : Granule) (b : Bool) : (s.push q v b).holds = s.holds := rfl

@[simp] theorem State.push_free (q : Nat) (v : Granule) (b : Bool) : (s.push q v b).free = s.free := rfl

@[simp] theorem State.push_inputs (q : Nat) (v : Granule) (b : Bool) : (s.push q v b).inputs = s.inputs := rfl

/-! ## Operand fields -/

@[simp] theorem State.take_thr (r : RegNo) : (s.take r).2.thr = s.thr := by
  unfold State.take; split <;> simp

@[simp] theorem State.take_vu (r : RegNo) : (s.take r).2.vu = s.vu := by
  unfold State.take; split <;> simp

@[simp] theorem State.take_peers (r : RegNo) : (s.take r).2.peers = s.peers := by
  unfold State.take; split <;> simp

@[simp] theorem State.take_vus (r : RegNo) : (s.take r).2.vus = s.vus := by
  unfold State.take; split <;> simp

@[simp] theorem State.take_tiles (r : RegNo) : (s.take r).2.tiles = s.tiles := by
  unfold State.take; split <;> simp

@[simp] theorem State.take_mem (r : RegNo) : (s.take r).2.mem = s.mem := by
  unfold State.take; split <;> simp

@[simp] theorem State.take_poison (r : RegNo) : (s.take r).2.poison = s.poison := by
  unfold State.take; split <;> simp

@[simp] theorem State.take_padPoison (r : RegNo) : (s.take r).2.padPoison = s.padPoison := by
  unfold State.take; split <;> simp

@[simp] theorem State.take_blocks (r : RegNo) : (s.take r).2.blocks = s.blocks := by
  unfold State.take; split <;> simp

@[simp] theorem State.take_gts (r : RegNo) : (s.take r).2.gts = s.gts := by
  unfold State.take; split <;> simp

@[simp] theorem State.take_tlb (r : RegNo) : (s.take r).2.tlb = s.tlb := by
  unfold State.take; split <;> simp

@[simp] theorem State.take_contexts (r : RegNo) : (s.take r).2.contexts = s.contexts := by
  unfold State.take; split <;> simp

@[simp] theorem State.take_queues (r : RegNo) : (s.take r).2.queues = s.queues := by
  unfold State.take; split <;> simp

@[simp] theorem State.take_launches (r : RegNo) : (s.take r).2.launches = s.launches := by
  unfold State.take; split <;> simp

@[simp] theorem State.take_gens (r : RegNo) : (s.take r).2.gens = s.gens := by
  unfold State.take; split <;> simp

@[simp] theorem State.take_cmds (r : RegNo) : (s.take r).2.cmds = s.cmds := by
  unfold State.take; split <;> simp

@[simp] theorem State.take_statuses (r : RegNo) : (s.take r).2.statuses = s.statuses := by
  unfold State.take; split <;> simp

@[simp] theorem State.take_serials (r : RegNo) : (s.take r).2.serials = s.serials := by
  unfold State.take; split <;> simp

@[simp] theorem State.take_preloads (r : RegNo) : (s.take r).2.preloads = s.preloads := by
  unfold State.take; split <;> simp

@[simp] theorem State.take_nextUid (r : RegNo) : (s.take r).2.nextUid = s.nextUid := by
  unfold State.take; split <;> simp

@[simp] theorem State.take_cmdring (r : RegNo) : (s.take r).2.cmdring = s.cmdring := by
  unfold State.take; split <;> simp

@[simp] theorem State.take_fct (r : RegNo) : (s.take r).2.fct = s.fct := by
  unfold State.take; split <;> simp

@[simp] theorem State.take_holdoff (r : RegNo) : (s.take r).2.holdoff = s.holdoff := by
  unfold State.take; split <;> simp

@[simp] theorem State.take_regions (r : RegNo) : (s.take r).2.regions = s.regions := by
  unfold State.take; split <;> simp

@[simp] theorem State.take_cmdHead (r : RegNo) : (s.take r).2.cmdHead = s.cmdHead := by
  unfold State.take; split <;> simp

@[simp] theorem State.take_rings (r : RegNo) : (s.take r).2.rings = s.rings := by
  unfold State.take; split <;> simp

@[simp] theorem State.take_ringEntries (r : RegNo) : (s.take r).2.ringEntries = s.ringEntries := by
  unfold State.take; split <;> simp

@[simp] theorem State.take_erases (r : RegNo) : (s.take r).2.erases = s.erases := by
  unfold State.take; split <;> simp

@[simp] theorem State.take_counters (r : RegNo) : (s.take r).2.counters = s.counters := by
  unfold State.take; split <;> simp

@[simp] theorem State.take_plog (r : RegNo) : (s.take r).2.plog = s.plog := by
  unfold State.take; split <;> simp

@[simp] theorem State.take_overruns (r : RegNo) : (s.take r).2.overruns = s.overruns := by
  unfold State.take; split <;> simp

@[simp] theorem State.take_spares (r : RegNo) : (s.take r).2.spares = s.spares := by
  unfold State.take; split <;> simp

@[simp] theorem State.take_firmware (r : RegNo) : (s.take r).2.firmware = s.firmware := by
  unfold State.take; split <;> simp

@[simp] theorem State.take_platform (r : RegNo) : (s.take r).2.platform = s.platform := by
  unfold State.take; split <;> simp

@[simp] theorem State.take_reports (r : RegNo) : (s.take r).2.reports = s.reports := by
  unfold State.take; split <;> simp

@[simp] theorem State.take_stopped (r : RegNo) : (s.take r).2.stopped = s.stopped := by
  unfold State.take; split <;> simp

@[simp] theorem State.take_codeOld (r : RegNo) : (s.take r).2.codeOld = s.codeOld := by
  unfold State.take; split <;> simp

@[simp] theorem State.take_slice (r : RegNo) : (s.take r).2.slice = s.slice := by
  unfold State.take; split <;> simp

@[simp] theorem State.take_skips (r : RegNo) : (s.take r).2.skips = s.skips := by
  unfold State.take; split <;> simp

@[simp] theorem State.take_flash (r : RegNo) : (s.take r).2.flash = s.flash := by
  unfold State.take; split <;> simp

@[simp] theorem State.take_agents (r : RegNo) : (s.take r).2.agents = s.agents := by
  unfold State.take; split <;> simp

@[simp] theorem State.take_arrivals (r : RegNo) : (s.take r).2.arrivals = s.arrivals := by
  unfold State.take; split <;> simp

@[simp] theorem State.take_holds (r : RegNo) : (s.take r).2.holds = s.holds := by
  unfold State.take; split <;> simp

@[simp] theorem State.take_free (r : RegNo) : (s.take r).2.free = s.free := by
  unfold State.take; split <;> simp

@[simp] theorem State.take_inputs (r : RegNo) : (s.take r).2.inputs = s.inputs := by
  unfold State.take; split <;> simp

@[simp] theorem State.put_thr (r : RegNo) (v : Word) : (s.put r v).thr = s.thr := by
  unfold State.put; split <;> simp

@[simp] theorem State.put_vu (r : RegNo) (v : Word) : (s.put r v).vu = s.vu := by
  unfold State.put; split <;> simp

@[simp] theorem State.put_peers (r : RegNo) (v : Word) : (s.put r v).peers = s.peers := by
  unfold State.put; split <;> simp

@[simp] theorem State.put_vus (r : RegNo) (v : Word) : (s.put r v).vus = s.vus := by
  unfold State.put; split <;> simp

@[simp] theorem State.put_tiles (r : RegNo) (v : Word) : (s.put r v).tiles = s.tiles := by
  unfold State.put; split <;> simp

@[simp] theorem State.put_mem (r : RegNo) (v : Word) : (s.put r v).mem = s.mem := by
  unfold State.put; split <;> simp

@[simp] theorem State.put_poison (r : RegNo) (v : Word) : (s.put r v).poison = s.poison := by
  unfold State.put; split <;> simp

@[simp] theorem State.put_padPoison (r : RegNo) (v : Word) : (s.put r v).padPoison = s.padPoison := by
  unfold State.put; split <;> simp

@[simp] theorem State.put_blocks (r : RegNo) (v : Word) : (s.put r v).blocks = s.blocks := by
  unfold State.put; split <;> simp

@[simp] theorem State.put_gts (r : RegNo) (v : Word) : (s.put r v).gts = s.gts := by
  unfold State.put; split <;> simp

@[simp] theorem State.put_tlb (r : RegNo) (v : Word) : (s.put r v).tlb = s.tlb := by
  unfold State.put; split <;> simp

@[simp] theorem State.put_contexts (r : RegNo) (v : Word) : (s.put r v).contexts = s.contexts := by
  unfold State.put; split <;> simp

@[simp] theorem State.put_queues (r : RegNo) (v : Word) : (s.put r v).queues = s.queues := by
  unfold State.put; split <;> simp

@[simp] theorem State.put_launches (r : RegNo) (v : Word) : (s.put r v).launches = s.launches := by
  unfold State.put; split <;> simp

@[simp] theorem State.put_gens (r : RegNo) (v : Word) : (s.put r v).gens = s.gens := by
  unfold State.put; split <;> simp

@[simp] theorem State.put_cmds (r : RegNo) (v : Word) : (s.put r v).cmds = s.cmds := by
  unfold State.put; split <;> simp

@[simp] theorem State.put_statuses (r : RegNo) (v : Word) : (s.put r v).statuses = s.statuses := by
  unfold State.put; split <;> simp

@[simp] theorem State.put_serials (r : RegNo) (v : Word) : (s.put r v).serials = s.serials := by
  unfold State.put; split <;> simp

@[simp] theorem State.put_preloads (r : RegNo) (v : Word) : (s.put r v).preloads = s.preloads := by
  unfold State.put; split <;> simp

@[simp] theorem State.put_nextUid (r : RegNo) (v : Word) : (s.put r v).nextUid = s.nextUid := by
  unfold State.put; split <;> simp

@[simp] theorem State.put_cmdring (r : RegNo) (v : Word) : (s.put r v).cmdring = s.cmdring := by
  unfold State.put; split <;> simp

@[simp] theorem State.put_fct (r : RegNo) (v : Word) : (s.put r v).fct = s.fct := by
  unfold State.put; split <;> simp

@[simp] theorem State.put_holdoff (r : RegNo) (v : Word) : (s.put r v).holdoff = s.holdoff := by
  unfold State.put; split <;> simp

@[simp] theorem State.put_regions (r : RegNo) (v : Word) : (s.put r v).regions = s.regions := by
  unfold State.put; split <;> simp

@[simp] theorem State.put_cmdHead (r : RegNo) (v : Word) : (s.put r v).cmdHead = s.cmdHead := by
  unfold State.put; split <;> simp

@[simp] theorem State.put_rings (r : RegNo) (v : Word) : (s.put r v).rings = s.rings := by
  unfold State.put; split <;> simp

@[simp] theorem State.put_ringEntries (r : RegNo) (v : Word) : (s.put r v).ringEntries = s.ringEntries := by
  unfold State.put; split <;> simp

@[simp] theorem State.put_erases (r : RegNo) (v : Word) : (s.put r v).erases = s.erases := by
  unfold State.put; split <;> simp

@[simp] theorem State.put_counters (r : RegNo) (v : Word) : (s.put r v).counters = s.counters := by
  unfold State.put; split <;> simp

@[simp] theorem State.put_plog (r : RegNo) (v : Word) : (s.put r v).plog = s.plog := by
  unfold State.put; split <;> simp

@[simp] theorem State.put_overruns (r : RegNo) (v : Word) : (s.put r v).overruns = s.overruns := by
  unfold State.put; split <;> simp

@[simp] theorem State.put_spares (r : RegNo) (v : Word) : (s.put r v).spares = s.spares := by
  unfold State.put; split <;> simp

@[simp] theorem State.put_firmware (r : RegNo) (v : Word) : (s.put r v).firmware = s.firmware := by
  unfold State.put; split <;> simp

@[simp] theorem State.put_platform (r : RegNo) (v : Word) : (s.put r v).platform = s.platform := by
  unfold State.put; split <;> simp

@[simp] theorem State.put_reports (r : RegNo) (v : Word) : (s.put r v).reports = s.reports := by
  unfold State.put; split <;> simp

@[simp] theorem State.put_stopped (r : RegNo) (v : Word) : (s.put r v).stopped = s.stopped := by
  unfold State.put; split <;> simp

@[simp] theorem State.put_codeOld (r : RegNo) (v : Word) : (s.put r v).codeOld = s.codeOld := by
  unfold State.put; split <;> simp

@[simp] theorem State.put_slice (r : RegNo) (v : Word) : (s.put r v).slice = s.slice := by
  unfold State.put; split <;> simp

@[simp] theorem State.put_skips (r : RegNo) (v : Word) : (s.put r v).skips = s.skips := by
  unfold State.put; split <;> simp

@[simp] theorem State.put_flash (r : RegNo) (v : Word) : (s.put r v).flash = s.flash := by
  unfold State.put; split <;> simp

@[simp] theorem State.put_agents (r : RegNo) (v : Word) : (s.put r v).agents = s.agents := by
  unfold State.put; split <;> simp

@[simp] theorem State.put_arrivals (r : RegNo) (v : Word) : (s.put r v).arrivals = s.arrivals := by
  unfold State.put; split <;> simp

@[simp] theorem State.put_holds (r : RegNo) (v : Word) : (s.put r v).holds = s.holds := by
  unfold State.put; split <;> simp

@[simp] theorem State.put_free (r : RegNo) (v : Word) : (s.put r v).free = s.free := by
  unfold State.put; split <;> simp

@[simp] theorem State.put_inputs (r : RegNo) (v : Word) : (s.put r v).inputs = s.inputs := by
  unfold State.put; split <;> simp

@[simp] theorem State.endConvoy_thr : s.endConvoy.thr = s.thr := by
  unfold State.endConvoy; split <;> rfl

@[simp] theorem State.endConvoy_vu : s.endConvoy.vu = s.vu := by
  unfold State.endConvoy; split <;> rfl

@[simp] theorem State.endConvoy_peers : s.endConvoy.peers = s.peers := by
  unfold State.endConvoy; split <;> rfl

@[simp] theorem State.endConvoy_vus : s.endConvoy.vus = s.vus := by
  unfold State.endConvoy; split <;> rfl

@[simp] theorem State.endConvoy_tiles : s.endConvoy.tiles = s.tiles := by
  unfold State.endConvoy; split <;> rfl

@[simp] theorem State.endConvoy_mem : s.endConvoy.mem = s.mem := by
  unfold State.endConvoy; split <;> rfl

@[simp] theorem State.endConvoy_poison : s.endConvoy.poison = s.poison := by
  unfold State.endConvoy; split <;> rfl

@[simp] theorem State.endConvoy_padPoison : s.endConvoy.padPoison = s.padPoison := by
  unfold State.endConvoy; split <;> rfl

@[simp] theorem State.endConvoy_blocks : s.endConvoy.blocks = s.blocks := by
  unfold State.endConvoy; split <;> rfl

@[simp] theorem State.endConvoy_gts : s.endConvoy.gts = s.gts := by
  unfold State.endConvoy; split <;> rfl

@[simp] theorem State.endConvoy_tlb : s.endConvoy.tlb = s.tlb := by
  unfold State.endConvoy; split <;> rfl

@[simp] theorem State.endConvoy_contexts : s.endConvoy.contexts = s.contexts := by
  unfold State.endConvoy; split <;> rfl

@[simp] theorem State.endConvoy_queues : s.endConvoy.queues = s.queues := by
  unfold State.endConvoy; split <;> rfl

@[simp] theorem State.endConvoy_launches : s.endConvoy.launches = s.launches := by
  unfold State.endConvoy; split <;> rfl

@[simp] theorem State.endConvoy_gens : s.endConvoy.gens = s.gens := by
  unfold State.endConvoy; split <;> rfl

@[simp] theorem State.endConvoy_cmds : s.endConvoy.cmds = s.cmds := by
  unfold State.endConvoy; split <;> rfl

@[simp] theorem State.endConvoy_statuses : s.endConvoy.statuses = s.statuses := by
  unfold State.endConvoy; split <;> rfl

@[simp] theorem State.endConvoy_serials : s.endConvoy.serials = s.serials := by
  unfold State.endConvoy; split <;> rfl

@[simp] theorem State.endConvoy_preloads : s.endConvoy.preloads = s.preloads := by
  unfold State.endConvoy; split <;> rfl

@[simp] theorem State.endConvoy_nextUid : s.endConvoy.nextUid = s.nextUid := by
  unfold State.endConvoy; split <;> rfl

@[simp] theorem State.endConvoy_cmdring : s.endConvoy.cmdring = s.cmdring := by
  unfold State.endConvoy; split <;> rfl

@[simp] theorem State.endConvoy_fct : s.endConvoy.fct = s.fct := by
  unfold State.endConvoy; split <;> rfl

@[simp] theorem State.endConvoy_holdoff : s.endConvoy.holdoff = s.holdoff := by
  unfold State.endConvoy; split <;> rfl

@[simp] theorem State.endConvoy_regions : s.endConvoy.regions = s.regions := by
  unfold State.endConvoy; split <;> rfl

@[simp] theorem State.endConvoy_cmdHead : s.endConvoy.cmdHead = s.cmdHead := by
  unfold State.endConvoy; split <;> rfl

@[simp] theorem State.endConvoy_rings : s.endConvoy.rings = s.rings := by
  unfold State.endConvoy; split <;> rfl

@[simp] theorem State.endConvoy_ringEntries : s.endConvoy.ringEntries = s.ringEntries := by
  unfold State.endConvoy; split <;> rfl

@[simp] theorem State.endConvoy_erases : s.endConvoy.erases = s.erases := by
  unfold State.endConvoy; split <;> rfl

@[simp] theorem State.endConvoy_counters : s.endConvoy.counters = s.counters := by
  unfold State.endConvoy; split <;> rfl

@[simp] theorem State.endConvoy_plog : s.endConvoy.plog = s.plog := by
  unfold State.endConvoy; split <;> rfl

@[simp] theorem State.endConvoy_overruns : s.endConvoy.overruns = s.overruns := by
  unfold State.endConvoy; split <;> rfl

@[simp] theorem State.endConvoy_spares : s.endConvoy.spares = s.spares := by
  unfold State.endConvoy; split <;> rfl

@[simp] theorem State.endConvoy_firmware : s.endConvoy.firmware = s.firmware := by
  unfold State.endConvoy; split <;> rfl

@[simp] theorem State.endConvoy_platform : s.endConvoy.platform = s.platform := by
  unfold State.endConvoy; split <;> rfl

@[simp] theorem State.endConvoy_reports : s.endConvoy.reports = s.reports := by
  unfold State.endConvoy; split <;> rfl

@[simp] theorem State.endConvoy_stopped : s.endConvoy.stopped = s.stopped := by
  unfold State.endConvoy; split <;> rfl

@[simp] theorem State.endConvoy_codeOld : s.endConvoy.codeOld = s.codeOld := by
  unfold State.endConvoy; split <;> rfl

@[simp] theorem State.endConvoy_slice : s.endConvoy.slice = s.slice := by
  unfold State.endConvoy; split <;> rfl

@[simp] theorem State.endConvoy_skips : s.endConvoy.skips = s.skips := by
  unfold State.endConvoy; split <;> rfl

@[simp] theorem State.endConvoy_flash : s.endConvoy.flash = s.flash := by
  unfold State.endConvoy; split <;> rfl

@[simp] theorem State.endConvoy_agents : s.endConvoy.agents = s.agents := by
  unfold State.endConvoy; split <;> rfl

@[simp] theorem State.endConvoy_arrivals : s.endConvoy.arrivals = s.arrivals := by
  unfold State.endConvoy; split <;> rfl

@[simp] theorem State.endConvoy_holds : s.endConvoy.holds = s.holds := by
  unfold State.endConvoy; split <;> rfl

@[simp] theorem State.endConvoy_free : s.endConvoy.free = s.free := by
  unfold State.endConvoy; split <;> rfl

@[simp] theorem State.endConvoy_inputs : s.endConvoy.inputs = s.inputs := by
  unfold State.endConvoy; split <;> rfl

@[simp] theorem State.endConvoy_me_uid : s.endConvoy.me.uid = s.me.uid := by
  unfold State.endConvoy; split <;> rfl

@[simp] theorem State.endConvoy_me_status : s.endConvoy.me.status = s.me.status := by
  unfold State.endConvoy; split <;> rfl

@[simp] theorem State.endConvoy_me_ctx : s.endConvoy.me.ctx = s.me.ctx := by
  unfold State.endConvoy; split <;> rfl

@[simp] theorem State.endConvoy_me_launch : s.endConvoy.me.launch = s.me.launch := by
  unfold State.endConvoy; split <;> rfl

@[simp] theorem State.endConvoy_me_die : s.endConvoy.me.die = s.me.die := by
  unfold State.endConvoy; split <;> rfl

@[simp] theorem State.endConvoy_me_core : s.endConvoy.me.core = s.me.core := by
  unfold State.endConvoy; split <;> rfl

@[simp] theorem State.endConvoy_me_slot : s.endConvoy.me.slot = s.me.slot := by
  unfold State.endConvoy; split <;> rfl

@[simp] theorem State.endConvoy_me_eidx : s.endConvoy.me.eidx = s.me.eidx := by
  unfold State.endConvoy; split <;> rfl

@[simp] theorem State.endConvoy_me_jidx : s.endConvoy.me.jidx = s.me.jidx := by
  unfold State.endConvoy; split <;> rfl

@[simp] theorem State.endConvoy_me_cls : s.endConvoy.me.cls = s.me.cls := by
  unfold State.endConvoy; split <;> rfl

@[simp] theorem State.endConvoy_me_vregs : s.endConvoy.me.vregs = s.me.vregs := by
  unfold State.endConvoy; split <;> rfl

@[simp] theorem State.endConvoy_me_ntiles : s.endConvoy.me.ntiles = s.me.ntiles := by
  unfold State.endConvoy; split <;> rfl

@[simp] theorem State.endConvoy_me_scratch : s.endConvoy.me.scratch = s.me.scratch := by
  unfold State.endConvoy; split <;> rfl

@[simp] theorem State.endConvoy_me_lanestore : s.endConvoy.me.lanestore = s.me.lanestore := by
  unfold State.endConvoy; split <;> rfl

@[simp] theorem State.endConvoy_me_budget0 : s.endConvoy.me.budget0 = s.me.budget0 := by
  unfold State.endConvoy; split <;> rfl

@[simp] theorem State.endConvoy_me_save : s.endConvoy.me.save = s.me.save := by
  unfold State.endConvoy; split <;> rfl

@[simp] theorem State.endConvoy_me_bound : s.endConvoy.me.bound = s.me.bound := by
  unfold State.endConvoy; split <;> rfl

@[simp] theorem State.endConvoy_me_a : s.endConvoy.me.a = s.me.a := by
  unfold State.endConvoy; split <;> rfl

@[simp] theorem State.endConvoy_me_x : s.endConvoy.me.x = s.me.x := by
  unfold State.endConvoy; split <;> rfl

@[simp] theorem State.endConvoy_me_fcsr : s.endConvoy.me.fcsr = s.me.fcsr := by
  unfold State.endConvoy; split <;> rfl

@[simp] theorem State.endConvoy_me_lscale : s.endConvoy.me.lscale = s.me.lscale := by
  unfold State.endConvoy; split <;> rfl

@[simp] theorem State.endConvoy_me_tcols : s.endConvoy.me.tcols = s.me.tcols := by
  unfold State.endConvoy; split <;> rfl

@[simp] theorem State.endConvoy_me_kvpos : s.endConvoy.me.kvpos = s.me.kvpos := by
  unfold State.endConvoy; split <;> rfl

@[simp] theorem State.endConvoy_me_subn : s.endConvoy.me.subn = s.me.subn := by
  unfold State.endConvoy; split <;> rfl

@[simp] theorem State.endConvoy_me_xstate : s.endConvoy.me.xstate = s.me.xstate := by
  unfold State.endConvoy; split <;> rfl

@[simp] theorem State.endConvoy_me_event : s.endConvoy.me.event = s.me.event := by
  unfold State.endConvoy; split <;> rfl

@[simp] theorem State.endConvoy_me_budget : s.endConvoy.me.budget = s.me.budget := by
  unfold State.endConvoy; split <;> rfl

@[simp] theorem State.endConvoy_me_ydl : s.endConvoy.me.ydl = s.me.ydl := by
  unfold State.endConvoy; split <;> rfl

@[simp] theorem State.endConvoy_me_cfd : s.endConvoy.me.cfd = s.me.cfd := by
  unfold State.endConvoy; split <;> rfl

@[simp] theorem State.endConvoy_me_cf : s.endConvoy.me.cf = s.me.cf := by
  unfold State.endConvoy; split <;> rfl

@[simp] theorem State.endConvoy_me_queues : s.endConvoy.me.queues = s.me.queues := by
  unfold State.endConvoy; split <;> rfl

@[simp] theorem State.endConvoy_me_avTok : s.endConvoy.me.avTok = s.me.avTok := by
  unfold State.endConvoy; split <;> rfl

@[simp] theorem State.endConvoy_me_anext : s.endConvoy.me.anext = s.me.anext := by
  unfold State.endConvoy; split <;> rfl

@[simp] theorem State.endConvoy_me_vnext : s.endConvoy.me.vnext = s.me.vnext := by
  unfold State.endConvoy; split <;> rfl

@[simp] theorem State.endConvoy_me_vins : s.endConvoy.me.vins = s.me.vins := by
  unfold State.endConvoy; split <;> rfl

@[simp] theorem State.endConvoy_me_aops : s.endConvoy.me.aops = s.me.aops := by
  unfold State.endConvoy; split <;> rfl

@[simp] theorem State.endConvoy_me_vops : s.endConvoy.me.vops = s.me.vops := by
  unfold State.endConvoy; split <;> rfl

@[simp] theorem State.endConvoy_me_ahold : s.endConvoy.me.ahold = s.me.ahold := by
  unfold State.endConvoy; split <;> rfl

@[simp] theorem State.endConvoy_me_vhold : s.endConvoy.me.vhold = s.me.vhold := by
  unfold State.endConvoy; split <;> rfl

@[simp] theorem State.endConvoy_me_vfence : s.endConvoy.me.vfence = s.me.vfence := by
  unfold State.endConvoy; split <;> rfl

@[simp] theorem State.endConvoy_me_samples : s.endConvoy.me.samples = s.me.samples := by
  unfold State.endConvoy; split <;> rfl

@[simp] theorem State.endConvoy_me_sevs : s.endConvoy.me.sevs = s.me.sevs := by
  unfold State.endConvoy; split <;> rfl

@[simp] theorem State.endConvoy_me_waitTok : s.endConvoy.me.waitTok = s.me.waitTok := by
  unfold State.endConvoy; split <;> rfl

@[simp] theorem State.endConvoy_me_bars : s.endConvoy.me.bars = s.me.bars := by
  unfold State.endConvoy; split <;> rfl

@[simp] theorem State.endConvoy_me_savedConv : s.endConvoy.me.savedConv = s.me.savedConv := by
  unfold State.endConvoy; split <;> rfl

@[simp] theorem State.endConvoy_me_chA : s.endConvoy.me.chA = s.me.chA := by
  unfold State.endConvoy; split <;> rfl

@[simp] theorem State.endConvoy_me_chX : s.endConvoy.me.chX = s.me.chX := by
  unfold State.endConvoy; split <;> rfl

@[simp] theorem State.endConvoy_me_assists : s.endConvoy.me.assists = s.me.assists := by
  unfold State.endConvoy; split <;> rfl

@[simp] theorem State.endConvoy_me_resuming : s.endConvoy.me.resuming = s.me.resuming := by
  unfold State.endConvoy; split <;> rfl

@[simp] theorem State.endConvoy_me_resumeAt : s.endConvoy.me.resumeAt = s.me.resumeAt := by
  unfold State.endConvoy; split <;> rfl

@[simp] theorem State.endConvoy_me_stop : s.endConvoy.me.stop = s.me.stop := by
  unfold State.endConvoy; split <;> rfl

@[simp] theorem State.endConvoy_me_pad : s.endConvoy.me.pad = s.me.pad := by
  unfold State.endConvoy; split <;> rfl

@[simp] theorem State.endConvoy_me_lanes : s.endConvoy.me.lanes = s.me.lanes := by
  unfold State.endConvoy; split <;> rfl

@[simp] theorem State.endConvoy_me_since : s.endConvoy.me.since = s.me.since := by
  unfold State.endConvoy; split <;> rfl

@[simp] theorem State.endConvoy_me_append : s.endConvoy.me.append = s.me.append := by
  unfold State.endConvoy; split <;> rfl

@[simp] theorem State.endConvoy_me_kept : s.endConvoy.me.kept = s.me.kept := by
  unfold State.endConvoy; split <;> rfl

@[simp] theorem State.endConvoy_me_plans : s.endConvoy.me.plans = s.me.plans := by
  unfold State.endConvoy; split <;> rfl

@[simp] theorem State.endConvoy_me_stopping : s.endConvoy.me.stopping = s.me.stopping := by
  unfold State.endConvoy; split <;> rfl

@[simp] theorem State.endConvoy_me_stopped : s.endConvoy.me.stopped = s.me.stopped := by
  unfold State.endConvoy; split <;> rfl

@[simp] theorem State.endConvoy_me_ahead : s.endConvoy.me.ahead = s.me.ahead := by
  unfold State.endConvoy; split <;> rfl

@[simp] theorem State.endConvoy_me_half : s.endConvoy.me.half = s.me.half := by
  unfold State.endConvoy; split <;> rfl

@[simp] theorem State.endConvoy_me_codeSeen : s.endConvoy.me.codeSeen = s.me.codeSeen := by
  unfold State.endConvoy; split <;> rfl

@[simp] theorem State.endConvoy_me_restarts : s.endConvoy.me.restarts = s.me.restarts := by
  unfold State.endConvoy; split <;> rfl

@[simp] theorem State.endConvoy_me_ending : s.endConvoy.me.ending = s.me.ending := by
  unfold State.endConvoy; split <;> rfl

@[simp] theorem State.endConvoy_me_readyAt : s.endConvoy.me.readyAt = s.me.readyAt := by
  unfold State.endConvoy; split <;> rfl

/-! ## Memory and reports -/

@[simp] theorem State.setPoison_me (pa : Nat) (b : Bool) : (s.setPoison pa b).me = s.me := rfl

@[simp] theorem State.setPoison_thr (pa : Nat) (b : Bool) : (s.setPoison pa b).thr = s.thr := rfl

@[simp] theorem State.setPoison_vu (pa : Nat) (b : Bool) : (s.setPoison pa b).vu = s.vu := rfl

@[simp] theorem State.setPoison_peers (pa : Nat) (b : Bool) : (s.setPoison pa b).peers = s.peers := rfl

@[simp] theorem State.setPoison_vus (pa : Nat) (b : Bool) : (s.setPoison pa b).vus = s.vus := rfl

@[simp] theorem State.setPoison_tiles (pa : Nat) (b : Bool) : (s.setPoison pa b).tiles = s.tiles := rfl

@[simp] theorem State.setPoison_mem (pa : Nat) (b : Bool) : (s.setPoison pa b).mem = s.mem := rfl

@[simp] theorem State.setPoison_padPoison (pa : Nat) (b : Bool) : (s.setPoison pa b).padPoison = s.padPoison := rfl

@[simp] theorem State.setPoison_blocks (pa : Nat) (b : Bool) : (s.setPoison pa b).blocks = s.blocks := rfl

@[simp] theorem State.setPoison_gts (pa : Nat) (b : Bool) : (s.setPoison pa b).gts = s.gts := rfl

@[simp] theorem State.setPoison_tlb (pa : Nat) (b : Bool) : (s.setPoison pa b).tlb = s.tlb := rfl

@[simp] theorem State.setPoison_contexts (pa : Nat) (b : Bool) : (s.setPoison pa b).contexts = s.contexts := rfl

@[simp] theorem State.setPoison_queues (pa : Nat) (b : Bool) : (s.setPoison pa b).queues = s.queues := rfl

@[simp] theorem State.setPoison_launches (pa : Nat) (b : Bool) : (s.setPoison pa b).launches = s.launches := rfl

@[simp] theorem State.setPoison_gens (pa : Nat) (b : Bool) : (s.setPoison pa b).gens = s.gens := rfl

@[simp] theorem State.setPoison_cmds (pa : Nat) (b : Bool) : (s.setPoison pa b).cmds = s.cmds := rfl

@[simp] theorem State.setPoison_statuses (pa : Nat) (b : Bool) : (s.setPoison pa b).statuses = s.statuses := rfl

@[simp] theorem State.setPoison_serials (pa : Nat) (b : Bool) : (s.setPoison pa b).serials = s.serials := rfl

@[simp] theorem State.setPoison_preloads (pa : Nat) (b : Bool) : (s.setPoison pa b).preloads = s.preloads := rfl

@[simp] theorem State.setPoison_nextUid (pa : Nat) (b : Bool) : (s.setPoison pa b).nextUid = s.nextUid := rfl

@[simp] theorem State.setPoison_cmdring (pa : Nat) (b : Bool) : (s.setPoison pa b).cmdring = s.cmdring := rfl

@[simp] theorem State.setPoison_fct (pa : Nat) (b : Bool) : (s.setPoison pa b).fct = s.fct := rfl

@[simp] theorem State.setPoison_holdoff (pa : Nat) (b : Bool) : (s.setPoison pa b).holdoff = s.holdoff := rfl

@[simp] theorem State.setPoison_regions (pa : Nat) (b : Bool) : (s.setPoison pa b).regions = s.regions := rfl

@[simp] theorem State.setPoison_cmdHead (pa : Nat) (b : Bool) : (s.setPoison pa b).cmdHead = s.cmdHead := rfl

@[simp] theorem State.setPoison_rings (pa : Nat) (b : Bool) : (s.setPoison pa b).rings = s.rings := rfl

@[simp] theorem State.setPoison_ringEntries (pa : Nat) (b : Bool) : (s.setPoison pa b).ringEntries = s.ringEntries := rfl

@[simp] theorem State.setPoison_erases (pa : Nat) (b : Bool) : (s.setPoison pa b).erases = s.erases := rfl

@[simp] theorem State.setPoison_counters (pa : Nat) (b : Bool) : (s.setPoison pa b).counters = s.counters := rfl

@[simp] theorem State.setPoison_plog (pa : Nat) (b : Bool) : (s.setPoison pa b).plog = s.plog := rfl

@[simp] theorem State.setPoison_overruns (pa : Nat) (b : Bool) : (s.setPoison pa b).overruns = s.overruns := rfl

@[simp] theorem State.setPoison_spares (pa : Nat) (b : Bool) : (s.setPoison pa b).spares = s.spares := rfl

@[simp] theorem State.setPoison_firmware (pa : Nat) (b : Bool) : (s.setPoison pa b).firmware = s.firmware := rfl

@[simp] theorem State.setPoison_platform (pa : Nat) (b : Bool) : (s.setPoison pa b).platform = s.platform := rfl

@[simp] theorem State.setPoison_reports (pa : Nat) (b : Bool) : (s.setPoison pa b).reports = s.reports := rfl

@[simp] theorem State.setPoison_stopped (pa : Nat) (b : Bool) : (s.setPoison pa b).stopped = s.stopped := rfl

@[simp] theorem State.setPoison_codeOld (pa : Nat) (b : Bool) : (s.setPoison pa b).codeOld = s.codeOld := rfl

@[simp] theorem State.setPoison_slice (pa : Nat) (b : Bool) : (s.setPoison pa b).slice = s.slice := rfl
@[simp] theorem State.setPoison_skips (pa : Nat) (b : Bool) : (s.setPoison pa b).skips = s.skips := rfl
@[simp] theorem State.setPoison_flash (pa : Nat) (b : Bool) : (s.setPoison pa b).flash = s.flash := rfl
@[simp] theorem State.setPoison_agents (pa : Nat) (b : Bool) : (s.setPoison pa b).agents = s.agents := rfl
@[simp] theorem State.setPoison_arrivals (pa : Nat) (b : Bool) : (s.setPoison pa b).arrivals = s.arrivals := rfl
@[simp] theorem State.setPoison_holds (pa : Nat) (b : Bool) : (s.setPoison pa b).holds = s.holds := rfl

@[simp] theorem State.setPoison_free (pa : Nat) (b : Bool) : (s.setPoison pa b).free = s.free := rfl

@[simp] theorem State.setPoison_inputs (pa : Nat) (b : Bool) : (s.setPoison pa b).inputs = s.inputs := rfl

@[simp] theorem State.writePa_me (pa n v : Nat) : (s.writePa pa n v).me = s.me := by
  unfold State.writePa; dsimp only; split <;> rfl

@[simp] theorem State.writePa_thr (pa n v : Nat) : (s.writePa pa n v).thr = s.thr := by
  unfold State.writePa; dsimp only; split <;> rfl

@[simp] theorem State.writePa_vu (pa n v : Nat) : (s.writePa pa n v).vu = s.vu := by
  unfold State.writePa; dsimp only; split <;> rfl

@[simp] theorem State.writePa_peers (pa n v : Nat) : (s.writePa pa n v).peers = s.peers := by
  unfold State.writePa; dsimp only; split <;> rfl

@[simp] theorem State.writePa_vus (pa n v : Nat) : (s.writePa pa n v).vus = s.vus := by
  unfold State.writePa; dsimp only; split <;> rfl

@[simp] theorem State.writePa_tiles (pa n v : Nat) : (s.writePa pa n v).tiles = s.tiles := by
  unfold State.writePa; dsimp only; split <;> rfl

@[simp] theorem State.writePa_padPoison (pa n v : Nat) : (s.writePa pa n v).padPoison = s.padPoison := by
  unfold State.writePa; dsimp only; split <;> rfl

@[simp] theorem State.writePa_blocks (pa n v : Nat) : (s.writePa pa n v).blocks = s.blocks := by
  unfold State.writePa; dsimp only; split <;> rfl

@[simp] theorem State.writePa_gts (pa n v : Nat) : (s.writePa pa n v).gts = s.gts := by
  unfold State.writePa; dsimp only; split <;> rfl

@[simp] theorem State.writePa_tlb (pa n v : Nat) : (s.writePa pa n v).tlb = s.tlb := by
  unfold State.writePa; dsimp only; split <;> rfl

@[simp] theorem State.writePa_contexts (pa n v : Nat) : (s.writePa pa n v).contexts = s.contexts := by
  unfold State.writePa; dsimp only; split <;> rfl

@[simp] theorem State.writePa_queues (pa n v : Nat) : (s.writePa pa n v).queues = s.queues := by
  unfold State.writePa; dsimp only; split <;> rfl

@[simp] theorem State.writePa_launches (pa n v : Nat) : (s.writePa pa n v).launches = s.launches := by
  unfold State.writePa; dsimp only; split <;> rfl

@[simp] theorem State.writePa_gens (pa n v : Nat) : (s.writePa pa n v).gens = s.gens := by
  unfold State.writePa; dsimp only; split <;> rfl

@[simp] theorem State.writePa_cmds (pa n v : Nat) : (s.writePa pa n v).cmds = s.cmds := by
  unfold State.writePa; dsimp only; split <;> rfl

@[simp] theorem State.writePa_statuses (pa n v : Nat) : (s.writePa pa n v).statuses = s.statuses := by
  unfold State.writePa; dsimp only; split <;> rfl

@[simp] theorem State.writePa_serials (pa n v : Nat) : (s.writePa pa n v).serials = s.serials := by
  unfold State.writePa; dsimp only; split <;> rfl

@[simp] theorem State.writePa_preloads (pa n v : Nat) : (s.writePa pa n v).preloads = s.preloads := by
  unfold State.writePa; dsimp only; split <;> rfl

@[simp] theorem State.writePa_nextUid (pa n v : Nat) : (s.writePa pa n v).nextUid = s.nextUid := by
  unfold State.writePa; dsimp only; split <;> rfl

@[simp] theorem State.writePa_cmdring (pa n v : Nat) : (s.writePa pa n v).cmdring = s.cmdring := by
  unfold State.writePa; dsimp only; split <;> rfl

@[simp] theorem State.writePa_fct (pa n v : Nat) : (s.writePa pa n v).fct = s.fct := by
  unfold State.writePa; dsimp only; split <;> rfl

@[simp] theorem State.writePa_holdoff (pa n v : Nat) : (s.writePa pa n v).holdoff = s.holdoff := by
  unfold State.writePa; dsimp only; split <;> rfl

@[simp] theorem State.writePa_regions (pa n v : Nat) : (s.writePa pa n v).regions = s.regions := by
  unfold State.writePa; dsimp only; split <;> rfl

@[simp] theorem State.writePa_cmdHead (pa n v : Nat) : (s.writePa pa n v).cmdHead = s.cmdHead := by
  unfold State.writePa; dsimp only; split <;> rfl

@[simp] theorem State.writePa_rings (pa n v : Nat) : (s.writePa pa n v).rings = s.rings := by
  unfold State.writePa; dsimp only; split <;> rfl

@[simp] theorem State.writePa_ringEntries (pa n v : Nat) : (s.writePa pa n v).ringEntries = s.ringEntries := by
  unfold State.writePa; dsimp only; split <;> rfl

@[simp] theorem State.writePa_erases (pa n v : Nat) : (s.writePa pa n v).erases = s.erases := by
  unfold State.writePa; dsimp only; split <;> rfl

@[simp] theorem State.writePa_counters (pa n v : Nat) : (s.writePa pa n v).counters = s.counters := by
  unfold State.writePa; dsimp only; split <;> rfl

@[simp] theorem State.writePa_plog (pa n v : Nat) : (s.writePa pa n v).plog = s.plog := by
  unfold State.writePa; dsimp only; split <;> rfl

@[simp] theorem State.writePa_overruns (pa n v : Nat) : (s.writePa pa n v).overruns = s.overruns := by
  unfold State.writePa; dsimp only; split <;> rfl

@[simp] theorem State.writePa_spares (pa n v : Nat) : (s.writePa pa n v).spares = s.spares := by
  unfold State.writePa; dsimp only; split <;> rfl

@[simp] theorem State.writePa_firmware (pa n v : Nat) : (s.writePa pa n v).firmware = s.firmware := by
  unfold State.writePa; dsimp only; split <;> rfl

@[simp] theorem State.writePa_platform (pa n v : Nat) : (s.writePa pa n v).platform = s.platform := by
  unfold State.writePa; dsimp only; split <;> rfl

@[simp] theorem State.writePa_reports (pa n v : Nat) : (s.writePa pa n v).reports = s.reports := by
  unfold State.writePa; dsimp only; split <;> rfl

@[simp] theorem State.writePa_stopped (pa n v : Nat) : (s.writePa pa n v).stopped = s.stopped := by
  unfold State.writePa; dsimp only; split <;> rfl

@[simp] theorem State.writePa_codeOld (pa n v : Nat) : (s.writePa pa n v).codeOld = s.codeOld := by
  unfold State.writePa; dsimp only; split <;> rfl

@[simp] theorem State.writePa_slice (pa n v : Nat) : (s.writePa pa n v).slice = s.slice := by
  unfold State.writePa; dsimp only; split <;> rfl

@[simp] theorem State.writePa_skips (pa n v : Nat) : (s.writePa pa n v).skips = s.skips := by
  unfold State.writePa; dsimp only; split <;> rfl

@[simp] theorem State.writePa_flash (pa n v : Nat) : (s.writePa pa n v).flash = s.flash := by
  unfold State.writePa; dsimp only; split <;> rfl

@[simp] theorem State.writePa_agents (pa n v : Nat) : (s.writePa pa n v).agents = s.agents := by
  unfold State.writePa; dsimp only; split <;> rfl

@[simp] theorem State.writePa_arrivals (pa n v : Nat) : (s.writePa pa n v).arrivals = s.arrivals := by
  unfold State.writePa; dsimp only; split <;> rfl

@[simp] theorem State.writePa_holds (pa n v : Nat) : (s.writePa pa n v).holds = s.holds := by
  unfold State.writePa; dsimp only; split <;> rfl

@[simp] theorem State.writePa_free (pa n v : Nat) : (s.writePa pa n v).free = s.free := by
  unfold State.writePa; dsimp only; split <;> rfl

@[simp] theorem State.writePa_inputs (pa n v : Nat) : (s.writePa pa n v).inputs = s.inputs := by
  unfold State.writePa; dsimp only; split <;> rfl

@[simp] theorem State.report_me (r : Report) : (s.report r).me = s.me := rfl

@[simp] theorem State.report_thr (r : Report) : (s.report r).thr = s.thr := rfl

@[simp] theorem State.report_vu (r : Report) : (s.report r).vu = s.vu := rfl

@[simp] theorem State.report_peers (r : Report) : (s.report r).peers = s.peers := rfl

@[simp] theorem State.report_vus (r : Report) : (s.report r).vus = s.vus := rfl

@[simp] theorem State.report_tiles (r : Report) : (s.report r).tiles = s.tiles := rfl

@[simp] theorem State.report_mem (r : Report) : (s.report r).mem = s.mem := rfl

@[simp] theorem State.report_poison (r : Report) : (s.report r).poison = s.poison := rfl

@[simp] theorem State.report_padPoison (r : Report) : (s.report r).padPoison = s.padPoison := rfl

@[simp] theorem State.report_blocks (r : Report) : (s.report r).blocks = s.blocks := rfl

@[simp] theorem State.report_gts (r : Report) : (s.report r).gts = s.gts := rfl

@[simp] theorem State.report_tlb (r : Report) : (s.report r).tlb = s.tlb := rfl

@[simp] theorem State.report_contexts (r : Report) : (s.report r).contexts = s.contexts := rfl

@[simp] theorem State.report_queues (r : Report) : (s.report r).queues = s.queues := rfl

@[simp] theorem State.report_launches (r : Report) : (s.report r).launches = s.launches := rfl

@[simp] theorem State.report_gens (r : Report) : (s.report r).gens = s.gens := rfl

@[simp] theorem State.report_cmds (r : Report) : (s.report r).cmds = s.cmds := rfl

@[simp] theorem State.report_statuses (r : Report) : (s.report r).statuses = s.statuses := rfl

@[simp] theorem State.report_serials (r : Report) : (s.report r).serials = s.serials := rfl

@[simp] theorem State.report_preloads (r : Report) : (s.report r).preloads = s.preloads := rfl

@[simp] theorem State.report_nextUid (r : Report) : (s.report r).nextUid = s.nextUid := rfl

@[simp] theorem State.report_cmdring (r : Report) : (s.report r).cmdring = s.cmdring := rfl

@[simp] theorem State.report_fct (r : Report) : (s.report r).fct = s.fct := rfl

@[simp] theorem State.report_holdoff (r : Report) : (s.report r).holdoff = s.holdoff := rfl

@[simp] theorem State.report_regions (r : Report) : (s.report r).regions = s.regions := rfl

@[simp] theorem State.report_cmdHead (r : Report) : (s.report r).cmdHead = s.cmdHead := rfl

@[simp] theorem State.report_rings (r : Report) : (s.report r).rings = s.rings := rfl

@[simp] theorem State.report_ringEntries (r : Report) : (s.report r).ringEntries = s.ringEntries := rfl

@[simp] theorem State.report_erases (r : Report) : (s.report r).erases = s.erases := rfl

@[simp] theorem State.report_counters (r : Report) : (s.report r).counters = s.counters := rfl

@[simp] theorem State.report_plog (r : Report) : (s.report r).plog = s.plog := rfl

@[simp] theorem State.report_overruns (r : Report) : (s.report r).overruns = s.overruns := rfl

@[simp] theorem State.report_spares (r : Report) : (s.report r).spares = s.spares := rfl

@[simp] theorem State.report_firmware (r : Report) : (s.report r).firmware = s.firmware := rfl

@[simp] theorem State.report_platform (r : Report) : (s.report r).platform = s.platform := rfl

@[simp] theorem State.report_stopped (r : Report) : (s.report r).stopped = s.stopped := rfl

@[simp] theorem State.report_codeOld (r : Report) : (s.report r).codeOld = s.codeOld := rfl

@[simp] theorem State.report_slice (r : Report) : (s.report r).slice = s.slice := rfl
@[simp] theorem State.report_skips (r : Report) : (s.report r).skips = s.skips := rfl
@[simp] theorem State.report_flash (r : Report) : (s.report r).flash = s.flash := rfl
@[simp] theorem State.report_agents (r : Report) : (s.report r).agents = s.agents := rfl
@[simp] theorem State.report_arrivals (r : Report) : (s.report r).arrivals = s.arrivals := rfl
@[simp] theorem State.report_holds (r : Report) : (s.report r).holds = s.holds := rfl

@[simp] theorem State.report_free (r : Report) : (s.report r).free = s.free := rfl

@[simp] theorem State.report_inputs (r : Report) : (s.report r).inputs = s.inputs := rfl

@[simp] theorem State.ringWrite_me (e : Nat) : (s.ringWrite e).me = s.me := rfl

@[simp] theorem State.ringWrite_thr (e : Nat) : (s.ringWrite e).thr = s.thr := rfl

@[simp] theorem State.ringWrite_vu (e : Nat) : (s.ringWrite e).vu = s.vu := rfl

@[simp] theorem State.ringWrite_peers (e : Nat) : (s.ringWrite e).peers = s.peers := rfl

@[simp] theorem State.ringWrite_vus (e : Nat) : (s.ringWrite e).vus = s.vus := rfl

@[simp] theorem State.ringWrite_tiles (e : Nat) : (s.ringWrite e).tiles = s.tiles := rfl

@[simp] theorem State.ringWrite_mem (e : Nat) : (s.ringWrite e).mem = s.mem := rfl

@[simp] theorem State.ringWrite_poison (e : Nat) : (s.ringWrite e).poison = s.poison := rfl

@[simp] theorem State.ringWrite_padPoison (e : Nat) : (s.ringWrite e).padPoison = s.padPoison := rfl

@[simp] theorem State.ringWrite_blocks (e : Nat) : (s.ringWrite e).blocks = s.blocks := rfl

@[simp] theorem State.ringWrite_gts (e : Nat) : (s.ringWrite e).gts = s.gts := rfl

@[simp] theorem State.ringWrite_tlb (e : Nat) : (s.ringWrite e).tlb = s.tlb := rfl

@[simp] theorem State.ringWrite_contexts (e : Nat) : (s.ringWrite e).contexts = s.contexts := rfl

@[simp] theorem State.ringWrite_queues (e : Nat) : (s.ringWrite e).queues = s.queues := rfl

@[simp] theorem State.ringWrite_launches (e : Nat) : (s.ringWrite e).launches = s.launches := rfl

@[simp] theorem State.ringWrite_gens (e : Nat) : (s.ringWrite e).gens = s.gens := rfl

@[simp] theorem State.ringWrite_cmds (e : Nat) : (s.ringWrite e).cmds = s.cmds := rfl

@[simp] theorem State.ringWrite_statuses (e : Nat) : (s.ringWrite e).statuses = s.statuses := rfl

@[simp] theorem State.ringWrite_serials (e : Nat) : (s.ringWrite e).serials = s.serials := rfl

@[simp] theorem State.ringWrite_preloads (e : Nat) : (s.ringWrite e).preloads = s.preloads := rfl

@[simp] theorem State.ringWrite_nextUid (e : Nat) : (s.ringWrite e).nextUid = s.nextUid := rfl

@[simp] theorem State.ringWrite_cmdring (e : Nat) : (s.ringWrite e).cmdring = s.cmdring := rfl

@[simp] theorem State.ringWrite_fct (e : Nat) : (s.ringWrite e).fct = s.fct := rfl

@[simp] theorem State.ringWrite_holdoff (e : Nat) : (s.ringWrite e).holdoff = s.holdoff := rfl

@[simp] theorem State.ringWrite_regions (e : Nat) : (s.ringWrite e).regions = s.regions := rfl

@[simp] theorem State.ringWrite_cmdHead (e : Nat) : (s.ringWrite e).cmdHead = s.cmdHead := rfl

@[simp] theorem State.ringWrite_erases (e : Nat) : (s.ringWrite e).erases = s.erases := rfl

@[simp] theorem State.ringWrite_counters (e : Nat) : (s.ringWrite e).counters = s.counters := rfl

@[simp] theorem State.ringWrite_plog (e : Nat) : (s.ringWrite e).plog = s.plog := rfl

@[simp] theorem State.ringWrite_overruns (e : Nat) : (s.ringWrite e).overruns = s.overruns := rfl

@[simp] theorem State.ringWrite_spares (e : Nat) : (s.ringWrite e).spares = s.spares := rfl

@[simp] theorem State.ringWrite_firmware (e : Nat) : (s.ringWrite e).firmware = s.firmware := rfl

@[simp] theorem State.ringWrite_platform (e : Nat) : (s.ringWrite e).platform = s.platform := rfl

@[simp] theorem State.ringWrite_reports (e : Nat) : (s.ringWrite e).reports = s.reports := rfl

@[simp] theorem State.ringWrite_stopped (e : Nat) : (s.ringWrite e).stopped = s.stopped := rfl

@[simp] theorem State.ringWrite_codeOld (e : Nat) : (s.ringWrite e).codeOld = s.codeOld := rfl

@[simp] theorem State.ringWrite_slice (e : Nat) : (s.ringWrite e).slice = s.slice := rfl
@[simp] theorem State.ringWrite_skips (e : Nat) : (s.ringWrite e).skips = s.skips := rfl
@[simp] theorem State.ringWrite_flash (e : Nat) : (s.ringWrite e).flash = s.flash := rfl
@[simp] theorem State.ringWrite_agents (e : Nat) : (s.ringWrite e).agents = s.agents := rfl
@[simp] theorem State.ringWrite_arrivals (e : Nat) : (s.ringWrite e).arrivals = s.arrivals := rfl
@[simp] theorem State.ringWrite_holds (e : Nat) : (s.ringWrite e).holds = s.holds := rfl

@[simp] theorem State.ringWrite_free (e : Nat) : (s.ringWrite e).free = s.free := rfl

@[simp] theorem State.ringWrite_inputs (e : Nat) : (s.ringWrite e).inputs = s.inputs := rfl

end Sys2Proof.Machine
end

