-- ==== Sys2Proof/Laws/Ops.lean ====
section
/-!
SUPPORT. What the shared operations can do, said once: `perform`, the scalar operand forms, the vector operand form, taking a
trap and returning from one.
-/

namespace Sys2Proof.Machine

/-! ## Checks (R110) -/

/-- Running a checked word always gives a next state. -/
theorem perform_cases (w : IWord) (s : State) (body : State → Res) :
    perform w s body = .next (body s).state ∨ ∃ c b v, checks w s = some (c, b, v) ∧
      perform w s body = .next (s.takeTrap (s.trapAt c b (v.zeroExtend 64))) := by
  unfold perform
  split
  · rename_i c b v h; exact .inr ⟨c, b, v, h, rfl⟩
  · exact .inl rfl

theorem perform_pass {w : IWord} {s : State} (h : checks w s = none) (body : State → Res) :
    perform w s body = .next (body s).state := by unfold perform; rw [h]

theorem perform_fail {w : IWord} {s : State} {c b : Nat} {v : IWord} (h : checks w s = some (c, b, v)) (body : State → Res) :
    perform w s body = .next (s.takeTrap (s.trapAt c b (v.zeroExtend 64))) := by unfold perform; rw [h]

theorem checks_of_passes {s : State} {i : Instr} (h : s.passes i = true) : checks (encode i) s = none := by
  simpa [State.passes] using h

/-- A scalar word passes when its thread, its queue and its privilege are right and its unit is there. -/
theorem checks_scalar {w : IWord} {s : State} (hv : wMaj w < 0x20) (hc : (column w).admits s.thr = true)
    (hd : dirOk w s.thr = true) (hs : needsS w = false ∨ s.cur.priv = .s)
    (hx : needsVec w = false ∨ s.me.xstate.getLsbD 0 = true) : checks w s = none := by
  have ht : needsTile w = false := by unfold needsTile; simp; omega
  have hi : isVec w = false := by unfold isVec; simp; omega
  have h1 : ¬ (32 ≤ wMaj w) := by omega
  have ha : aloneChecks w s = none := by
    unfold aloneChecks wordChecks
    have hx : needsVec w = false ∨ s.me.xstate[0] = true := hx
    rcases hs with hs | hs <;> rcases hx with hx | hx <;> simp [hc, hd, hs, hx, ht, h1]
  unfold checks
  rw [ha]; simp [hi]

/-! ## The scalar operand forms -/

theorem gate_of_atHand {s : State} {srcs : List RegNo} {dst : Option RegNo} (h : s.atHand srcs dst = true) :
    s.gate srcs dst = .ok () := by
  unfold State.atHand at h
  split at h
  · rename_i u e; exact e
  · contradiction

theorem scalarOp_none {w : IWord} {s : State} {dst : Option RegNo} (hc : checks w s = none)
    (hg : s.atHand [] dst = true) (body : State → Word → Word → Word → Res) :
    scalarOp w [] dst s body = .next (body s.endConvoy 0 0 0).state := by
  unfold scalarOp; rw [perform_pass hc]; rw [gate_of_atHand hg]; rfl

theorem scalarOp_one {w : IWord} {s : State} {a : RegNo} {dst : Option RegNo} (hc : checks w s = none)
    (hg : s.atHand [a] dst = true) (body : State → Word → Word → Word → Res) :
    scalarOp w [a] dst s body = .next (body (s.after1 a) (s.val1 a) 0 0).state := by
  unfold scalarOp; rw [perform_pass hc]; rw [gate_of_atHand hg]; rfl

theorem scalarOp_two {w : IWord} {s : State} {a b : RegNo} {dst : Option RegNo} (hc : checks w s = none)
    (hg : s.atHand [a, b] dst = true) (body : State → Word → Word → Word → Res) :
    scalarOp w [a, b] dst s body = .next (body (s.after2 a b) (s.val1 a) (s.val2 a b) 0).state := by
  unfold scalarOp; rw [perform_pass hc]; rw [gate_of_atHand hg]; rfl

theorem scalarOp_three {w : IWord} {s : State} {a b c : RegNo} {dst : Option RegNo} (hc : checks w s = none)
    (hg : s.atHand [a, b, c] dst = true) (body : State → Word → Word → Word → Res) :
    scalarOp w [a, b, c] dst s body = .next (body (s.after3 a b c) (s.val1 a) (s.val2 a b) (s.val3 a b c)).state := by
  unfold scalarOp; rw [perform_pass hc]; rw [gate_of_atHand hg]; rfl

theorem regOp_none {w : IWord} {s : State} {d : RegNo} (hc : checks w s = none) (hg : s.atHand [] (some d) = true)
    (f : Word → Word → Word) : regOp w [] d s f = .next (s.endConvoy.wrote1 d (f 0 0)) := by
  unfold regOp; rw [scalarOp_none hc hg]; rfl

theorem regOp_one {w : IWord} {s : State} {d a : RegNo} (hc : checks w s = none) (hg : s.atHand [a] (some d) = true)
    (f : Word → Word → Word) : regOp w [a] d s f = .next ((s.after1 a).wrote1 d (f (s.val1 a) 0)) := by
  unfold regOp; rw [scalarOp_one hc hg]; rfl

theorem regOp_two {w : IWord} {s : State} {d a b : RegNo} (hc : checks w s = none) (hg : s.atHand [a, b] (some d) = true)
    (f : Word → Word → Word) : regOp w [a, b] d s f = .next ((s.after2 a b).wrote1 d (f (s.val1 a) (s.val2 a b))) := by
  unfold regOp; rw [scalarOp_two hc hg]; rfl

/-- A scalar word that is not taken may wait or trap, but it always gives a next state. -/
theorem scalarOp_next (w : IWord) (srcs : List RegNo) (dst : Option RegNo) (s : State)
    (body : State → Word → Word → Word → Res) : ∃ t, scalarOp w srcs dst s body = .next t := by
  unfold scalarOp
  rcases perform_cases w s _ with h | ⟨_, _, _, _, h⟩ <;> exact ⟨_, h⟩

/-! ## The vector operand form -/

/-- A vector word that passes its checks answers what its body does. -/
theorem vperform_pass {w : IWord} {s : State} (h : checks w s = none) (body : State → Res) :
    vperform w s body = .next (s.vfinish w (body s)) := by
  unfold vperform; rw [h]

/-- A vector word that fails a check traps, with its history entry; any other answers what its body does. -/
theorem vperform_next (w : IWord) (s : State) (body : State → Res) : ∃ t, vperform w s body = .next t := by
  unfold vperform; split <;> exact ⟨_, rfl⟩

@[simp] theorem vfinish_done (s t : State) (w : IWord) : s.vfinish w (.done t) = t := rfl
@[simp] theorem vfinish_stall (s t : State) (w : IWord) (k : Wait) : s.vfinish w (.stall k t) = (Res.stall k t).state := rfl

/-- A word that traps alone takes its trap: none before it has stopped, and none is in flight behind it. -/
theorem vfinish_trap {s : State} (h : s.me.stopping = false) (g : s.me.ahead = []) (w : IWord) (t : Trap) (u : State) :
    s.vfinish w (.trap t u) = u.takeTrap t := by
  unfold State.vfinish; simp [h, g]

/-- Without words in flight around it, a vector word leaves what its body answers. -/
theorem vfinish_alone {s : State} (h : s.me.stopping = false) (g : s.me.ahead = []) (w : IWord) (r : Res) :
    s.vfinish w r = r.state := by
  cases r with
  | done t => rfl
  | stall k t => rfl
  | trap t u => exact vfinish_trap h g w t u

/-- A vector word always gives a next state. -/
theorem vecOp_next (w : IWord) (xs : List RegNo) (dst : Option RegNo) (s : State)
    (body : State → Convoy → Word → Word → Res) : ∃ t, vecOp w xs dst s body = .next t := vperform_next w s _

theorem vecReady_parts {s : State} {i : Instr} {xs : List RegNo} {dst : Option RegNo} (h : s.vecReady i xs dst = true) :
    checks (encode i) s = none ∧
    s.vBusy (shape (encode i) (s.cap (encode i)).et (s.cap (encode i)).g).groups
      ((shape (encode i) (s.cap (encode i)).et (s.cap (encode i)).g).scaled ||
        (wMaj (encode i) == 0x31 && wFn5 (encode i) == 3)) = false ∧
    s.held = none ∧ s.note = none ∧ s.me.stop = [] ∧ s.me.stopping = false ∧ s.me.ahead = [] ∧
    (takesEntry (encode i) && !s.flightRoom) = false ∧ s.atHand xs dst = true := by
  unfold State.vecReady at h
  simp only [Bool.and_eq_true, Bool.not_eq_true', Option.isNone_iff_eq_none, List.isEmpty_iff] at h
  obtain ⟨⟨⟨⟨⟨⟨⟨⟨h1, h2⟩, h3⟩, hn⟩, h4⟩, hs⟩, ha⟩, h5⟩, h6⟩ := h
  refine ⟨checks_of_passes h1, h2, h3, hn, h4, hs, ha, ?_, h6⟩
  cases hw : takesEntry (encode i) <;> simp_all

theorem vecOp_none {i : Instr} {s : State} {dst : Option RegNo} (h : s.vecReady i [] dst = true)
    (body : State → Convoy → Word → Word → Res) :
    vecOp (encode i) [] dst s body = .next (body (s.inConvoy (s.cap (encode i))) (s.cap (encode i)) 0 0).state := by
  obtain ⟨hc, hb, hh, -, -, hs, ha, hr, hg⟩ := vecReady_parts h
  unfold vecOp; rw [vperform_pass hc, vfinish_alone hs ha]
  simp only [hb, hh, hr, gate_of_atHand hg, Bool.false_eq_true, if_false]

theorem vecOp_one {i : Instr} {s : State} {a : RegNo} {dst : Option RegNo} (h : s.vecReady i [a] dst = true)
    (body : State → Convoy → Word → Word → Res) :
    vecOp (encode i) [a] dst s body =
      .next (body ((s.inConvoy (s.cap (encode i))).take a).2 (s.cap (encode i))
        ((s.inConvoy (s.cap (encode i))).take a).1 0).state := by
  obtain ⟨hc, hb, hh, -, -, hs, ha, hr, hg⟩ := vecReady_parts h
  unfold vecOp; rw [vperform_pass hc, vfinish_alone hs ha]
  simp only [hb, hh, hr, gate_of_atHand hg, Bool.false_eq_true, if_false]

/-! ## Taking a trap (R129, R271, R272) -/

/-- A machine check, and any trap in S mode, makes the strand faulted. -/
theorem takeTrap_faulted {s : State} {t : Trap} (h : t.cause = 0x13 ∨ s.cur.priv = .s) :
    s.takeTrap t = s.makeFaulted s.me.uid t.cause t.tval := by
  unfold State.takeTrap
  by_cases hc : t.cause = 0x13
  · rw [if_pos hc, hc]
  · rw [if_neg hc]
    rcases h with h | h
    · exact absurd h hc
    · simp [h]

/-! ## `vlkv` -/

/-- The loop of R148 stands once it is over. -/
theorem kvLoop_done (c : Convoy) (b : KvBlock) (list : Word) (r lim : Nat) (note : KvNote) (n : Nat) (k : KvRun)
    (h : k.more b lim = false) : kvLoop c b list r lim note n k = k := by
  cases n with
  | zero => rfl
  | succ n => simp [kvLoop, h]
/-- A loop of R148 that one pass ends does no more. -/
theorem kvLoop_once {c : Convoy} {b : KvBlock} {list : Word} {r lim : Nat} {note : KvNote} {k : KvRun}
    (h : (kvLoop c b list r lim note 1 k).more b lim = false) (n : Nat) :
    kvLoop c b list r lim note (n + 1) k = kvLoop c b list r lim note 1 k := by
  unfold kvLoop at h ⊢
  split
  · rfl
  · rename_i hm
    rw [if_neg hm] at h
    dsimp only at h ⊢
    split
    · rfl
    · rename_i he
      rw [if_neg he] at h
      simp only [kvLoop] at h ⊢
      exact kvLoop_done _ _ _ _ _ _ _ _ h

end Sys2Proof.Machine
end

