-- ==== Sys2Proof/Laws/PerInstr.lean ====
section
/-!
SUPPORT. Decoding what `encode` gives, one lemma per constructor.
-/

namespace Sys2Proof

theorem decode_of_check {w : IWord} {i : Instr} (hf : fields w = some true)
    (hk : (w.extractLsb' 26 6 == 0x20#6 && w[25]) = false)
    (hq : (w.extractLsb' 26 6 == 0x17#6 && w.extractLsb' 5 6 == 5#6 && w.extractLsb' 11 5 != 12#5) = false)
    (hp : pick w = some i) : decode w = .ok i := by
  have hk' : (w.extractLsb' 26 6 == 0x20#6 && w.getLsbD 25) = false := hk
  unfold decode check
  rw [hf, hp]
  simp only [hk', hq, Bool.false_eq_true, if_false]

theorem decode01 {w : IWord} {i : Instr} (hm : w.extractLsb' 26 6 = 0x01#6)
    (hf : fields01 w = some true) (hp : pick01 w = some i) : decode w = .ok i :=
  decode_of_check ((by unfold fields; rw [hm]; rfl : fields w = fields01 w).trans hf) (by rw [hm]; rfl) (by rw [hm]; rfl)
    ((by unfold pick; rw [hm]; rfl : pick w = pick01 w).trans hp)

theorem decode0A {w : IWord} {i : Instr} (hm : w.extractLsb' 26 6 = 0x0A#6)
    (hf : fields0A w = some true) (hp : pick0A w = some i) : decode w = .ok i :=
  decode_of_check ((by unfold fields; rw [hm]; rfl : fields w = fields0A w).trans hf) (by rw [hm]; rfl) (by rw [hm]; rfl)
    ((by unfold pick; rw [hm]; rfl : pick w = pick0A w).trans hp)

theorem decode0B {w : IWord} {i : Instr} (hm : w.extractLsb' 26 6 = 0x0B#6)
    (hf : fields0B w = some true) (hp : pick0B w = some i) : decode w = .ok i :=
  decode_of_check ((by unfold fields; rw [hm]; rfl : fields w = fields0B w).trans hf) (by rw [hm]; rfl) (by rw [hm]; rfl)
    ((by unfold pick; rw [hm]; rfl : pick w = pick0B w).trans hp)

theorem decode0C {w : IWord} {i : Instr} (hm : w.extractLsb' 26 6 = 0x0C#6)
    (hf : fields0C w = some true) (hp : pick0C w = some i) : decode w = .ok i :=
  decode_of_check ((by unfold fields; rw [hm]; rfl : fields w = fields0C w).trans hf) (by rw [hm]; rfl) (by rw [hm]; rfl)
    ((by unfold pick; rw [hm]; rfl : pick w = pick0C w).trans hp)

theorem decode0D {w : IWord} {i : Instr} (hm : w.extractLsb' 26 6 = 0x0D#6)
    (hf : fields0D w = some true) (hp : pick0D w = some i) : decode w = .ok i :=
  decode_of_check ((by unfold fields; rw [hm]; rfl : fields w = fields0D w).trans hf) (by rw [hm]; rfl) (by rw [hm]; rfl)
    ((by unfold pick; rw [hm]; rfl : pick w = pick0D w).trans hp)

theorem decode16 {w : IWord} {i : Instr} (hm : w.extractLsb' 26 6 = 0x16#6)
    (hf : fields16 w = some true) (hp : pick16 w = some i) : decode w = .ok i :=
  decode_of_check ((by unfold fields; rw [hm]; rfl : fields w = fields16 w).trans hf) (by rw [hm]; rfl) (by rw [hm]; rfl)
    ((by unfold pick; rw [hm]; rfl : pick w = pick16 w).trans hp)

theorem decode17 {w : IWord} {i : Instr} (hm : w.extractLsb' 26 6 = 0x17#6) (hq : (w.extractLsb' 5 6 == 5#6 && w.extractLsb' 11 5 != 12#5) = false)
    (hf : fields17 w = some true) (hp : pick17 w = some i) : decode w = .ok i :=
  decode_of_check ((by unfold fields; rw [hm]; rfl : fields w = fields17 w).trans hf) (by rw [hm]; rfl) (by rw [hm, Bool.and_assoc, hq]; rfl)
    ((by unfold pick; rw [hm]; rfl : pick w = pick17 w).trans hp)

theorem decode18 {w : IWord} {i : Instr} (hm : w.extractLsb' 26 6 = 0x18#6)
    (hf : fields18 w = some true) (hp : pick18 w = some i) : decode w = .ok i :=
  decode_of_check ((by unfold fields; rw [hm]; rfl : fields w = fields18 w).trans hf) (by rw [hm]; rfl) (by rw [hm]; rfl)
    ((by unfold pick; rw [hm]; rfl : pick w = pick18 w).trans hp)

theorem decode19 {w : IWord} {i : Instr} (hm : w.extractLsb' 26 6 = 0x19#6)
    (hf : fields19 w = some true) (hp : pick19 w = some i) : decode w = .ok i :=
  decode_of_check ((by unfold fields; rw [hm]; rfl : fields w = fields19 w).trans hf) (by rw [hm]; rfl) (by rw [hm]; rfl)
    ((by unfold pick; rw [hm]; rfl : pick w = pick19 w).trans hp)

theorem decode1A {w : IWord} {i : Instr} (hm : w.extractLsb' 26 6 = 0x1A#6)
    (hf : fields1A w = some true) (hp : pick1A w = some i) : decode w = .ok i :=
  decode_of_check ((by unfold fields; rw [hm]; rfl : fields w = fields1A w).trans hf) (by rw [hm]; rfl) (by rw [hm]; rfl)
    ((by unfold pick; rw [hm]; rfl : pick w = pick1A w).trans hp)

theorem decode1B {w : IWord} {i : Instr} (hm : w.extractLsb' 26 6 = 0x1B#6)
    (hf : fields1B w = some true) (hp : pick1B w = some i) : decode w = .ok i :=
  decode_of_check ((by unfold fields; rw [hm]; rfl : fields w = fields1B w).trans hf) (by rw [hm]; rfl) (by rw [hm]; rfl)
    ((by unfold pick; rw [hm]; rfl : pick w = pick1B w).trans hp)

theorem decode1C {w : IWord} {i : Instr} (hm : w.extractLsb' 26 6 = 0x1C#6)
    (hf : fields1C w = some true) (hp : pick1C w = some i) : decode w = .ok i :=
  decode_of_check ((by unfold fields; rw [hm]; rfl : fields w = fields1C w).trans hf) (by rw [hm]; rfl) (by rw [hm]; rfl)
    ((by unfold pick; rw [hm]; rfl : pick w = pick1C w).trans hp)

theorem decode1D {w : IWord} {i : Instr} (hm : w.extractLsb' 26 6 = 0x1D#6)
    (hf : fields1D w = some true) (hp : pick1D w = some i) : decode w = .ok i :=
  decode_of_check ((by unfold fields; rw [hm]; rfl : fields w = fields1D w).trans hf) (by rw [hm]; rfl) (by rw [hm]; rfl)
    ((by unfold pick; rw [hm]; rfl : pick w = pick1D w).trans hp)

theorem decode20 {w : IWord} {i : Instr} (hm : w.extractLsb' 26 6 = 0x20#6) (hk : w[25] = false)
    (hf : fields20 w = some true) (hp : pick20 w = some i) : decode w = .ok i :=
  decode_of_check ((by unfold fields; rw [hm]; rfl : fields w = fields20 w).trans hf) (by rw [hk]; simp) (by rw [hm]; rfl)
    ((by unfold pick; rw [hm]; rfl : pick w = pick20 w).trans hp)

theorem decode21 {w : IWord} {i : Instr} (hm : w.extractLsb' 26 6 = 0x21#6)
    (hf : fields21 w = some true) (hp : pick21 w = some i) : decode w = .ok i :=
  decode_of_check ((by unfold fields; rw [hm]; rfl : fields w = fields21 w).trans hf) (by rw [hm]; rfl) (by rw [hm]; rfl)
    ((by unfold pick; rw [hm]; rfl : pick w = pick21 w).trans hp)

theorem decode22 {w : IWord} {i : Instr} (hm : w.extractLsb' 26 6 = 0x22#6)
    (hf : fields22 w = some true) (hp : pick22 w = some i) : decode w = .ok i :=
  decode_of_check ((by unfold fields; rw [hm]; rfl : fields w = fields22 w).trans hf) (by rw [hm]; rfl) (by rw [hm]; rfl)
    ((by unfold pick; rw [hm]; rfl : pick w = pick22 w).trans hp)

theorem decode23 {w : IWord} {i : Instr} (hm : w.extractLsb' 26 6 = 0x23#6)
    (hf : fields23 w = some true) (hp : pick23 w = some i) : decode w = .ok i :=
  decode_of_check ((by unfold fields; rw [hm]; rfl : fields w = fields23 w).trans hf) (by rw [hm]; rfl) (by rw [hm]; rfl)
    ((by unfold pick; rw [hm]; rfl : pick w = pick23 w).trans hp)

theorem decode24 {w : IWord} {i : Instr} (hm : w.extractLsb' 26 6 = 0x24#6)
    (hf : fields24 w = some true) (hp : pick24 w = some i) : decode w = .ok i :=
  decode_of_check ((by unfold fields; rw [hm]; rfl : fields w = fields24 w).trans hf) (by rw [hm]; rfl) (by rw [hm]; rfl)
    ((by unfold pick; rw [hm]; rfl : pick w = pick24 w).trans hp)

theorem decode25 {w : IWord} {i : Instr} (hm : w.extractLsb' 26 6 = 0x25#6)
    (hf : fields25 w = some true) (hp : pick25 w = some i) : decode w = .ok i :=
  decode_of_check ((by unfold fields; rw [hm]; rfl : fields w = fields25 w).trans hf) (by rw [hm]; rfl) (by rw [hm]; rfl)
    ((by unfold pick; rw [hm]; rfl : pick w = pick25 w).trans hp)

theorem decode26 {w : IWord} {i : Instr} (hm : w.extractLsb' 26 6 = 0x26#6)
    (hf : fields26 w = some true) (hp : pick26 w = some i) : decode w = .ok i :=
  decode_of_check ((by unfold fields; rw [hm]; rfl : fields w = fields26 w).trans hf) (by rw [hm]; rfl) (by rw [hm]; rfl)
    ((by unfold pick; rw [hm]; rfl : pick w = pick26 w).trans hp)

theorem decode27 {w : IWord} {i : Instr} (hm : w.extractLsb' 26 6 = 0x27#6)
    (hf : fields27 w = some true) (hp : pick27 w = some i) : decode w = .ok i :=
  decode_of_check ((by unfold fields; rw [hm]; rfl : fields w = fields27 w).trans hf) (by rw [hm]; rfl) (by rw [hm]; rfl)
    ((by unfold pick; rw [hm]; rfl : pick w = pick27 w).trans hp)

theorem decode28 {w : IWord} {i : Instr} (hm : w.extractLsb' 26 6 = 0x28#6)
    (hf : fields28 w = some true) (hp : pick28 w = some i) : decode w = .ok i :=
  decode_of_check ((by unfold fields; rw [hm]; rfl : fields w = fields28 w).trans hf) (by rw [hm]; rfl) (by rw [hm]; rfl)
    ((by unfold pick; rw [hm]; rfl : pick w = pick28 w).trans hp)

theorem decode29 {w : IWord} {i : Instr} (hm : w.extractLsb' 26 6 = 0x29#6)
    (hf : fields29 w = some true) (hp : pick29 w = some i) : decode w = .ok i :=
  decode_of_check ((by unfold fields; rw [hm]; rfl : fields w = fields29 w).trans hf) (by rw [hm]; rfl) (by rw [hm]; rfl)
    ((by unfold pick; rw [hm]; rfl : pick w = pick29 w).trans hp)

theorem decode2A {w : IWord} {i : Instr} (hm : w.extractLsb' 26 6 = 0x2A#6)
    (hf : fields2A w = some true) (hp : pick2A w = some i) : decode w = .ok i :=
  decode_of_check ((by unfold fields; rw [hm]; rfl : fields w = fields2A w).trans hf) (by rw [hm]; rfl) (by rw [hm]; rfl)
    ((by unfold pick; rw [hm]; rfl : pick w = pick2A w).trans hp)

theorem decode2B {w : IWord} {i : Instr} (hm : w.extractLsb' 26 6 = 0x2B#6)
    (hf : fields2B w = some true) (hp : pick2B w = some i) : decode w = .ok i :=
  decode_of_check ((by unfold fields; rw [hm]; rfl : fields w = fields2B w).trans hf) (by rw [hm]; rfl) (by rw [hm]; rfl)
    ((by unfold pick; rw [hm]; rfl : pick w = pick2B w).trans hp)

theorem decode2C {w : IWord} {i : Instr} (hm : w.extractLsb' 26 6 = 0x2C#6)
    (hf : fields2C w = some true) (hp : pick2C w = some i) : decode w = .ok i :=
  decode_of_check ((by unfold fields; rw [hm]; rfl : fields w = fields2C w).trans hf) (by rw [hm]; rfl) (by rw [hm]; rfl)
    ((by unfold pick; rw [hm]; rfl : pick w = pick2C w).trans hp)

theorem decode2D {w : IWord} {i : Instr} (hm : w.extractLsb' 26 6 = 0x2D#6)
    (hf : fields2D w = some true) (hp : pick2D w = some i) : decode w = .ok i :=
  decode_of_check ((by unfold fields; rw [hm]; rfl : fields w = fields2D w).trans hf) (by rw [hm]; rfl) (by rw [hm]; rfl)
    ((by unfold pick; rw [hm]; rfl : pick w = pick2D w).trans hp)

theorem decode2E {w : IWord} {i : Instr} (hm : w.extractLsb' 26 6 = 0x2E#6)
    (hf : fields2E w = some true) (hp : pick2E w = some i) : decode w = .ok i :=
  decode_of_check ((by unfold fields; rw [hm]; rfl : fields w = fields2E w).trans hf) (by rw [hm]; rfl) (by rw [hm]; rfl)
    ((by unfold pick; rw [hm]; rfl : pick w = pick2E w).trans hp)

theorem decode2F {w : IWord} {i : Instr} (hm : w.extractLsb' 26 6 = 0x2F#6)
    (hf : fields2F w = some true) (hp : pick2F w = some i) : decode w = .ok i :=
  decode_of_check ((by unfold fields; rw [hm]; rfl : fields w = fields2F w).trans hf) (by rw [hm]; rfl) (by rw [hm]; rfl)
    ((by unfold pick; rw [hm]; rfl : pick w = pick2F w).trans hp)

theorem decode30 {w : IWord} {i : Instr} (hm : w.extractLsb' 26 6 = 0x30#6)
    (hf : fields30 w = some true) (hp : pick30 w = some i) : decode w = .ok i :=
  decode_of_check ((by unfold fields; rw [hm]; rfl : fields w = fields30 w).trans hf) (by rw [hm]; rfl) (by rw [hm]; rfl)
    ((by unfold pick; rw [hm]; rfl : pick w = pick30 w).trans hp)

theorem decode31 {w : IWord} {i : Instr} (hm : w.extractLsb' 26 6 = 0x31#6)
    (hf : fields31 w = some true) (hp : pick31 w = some i) : decode w = .ok i :=
  decode_of_check ((by unfold fields; rw [hm]; rfl : fields w = fields31 w).trans hf) (by rw [hm]; rfl) (by rw [hm]; rfl)
    ((by unfold pick; rw [hm]; rfl : pick w = pick31 w).trans hp)

theorem decode32 {w : IWord} {i : Instr} (hm : w.extractLsb' 26 6 = 0x32#6)
    (hf : fields32 w = some true) (hp : pick32 w = some i) : decode w = .ok i :=
  decode_of_check ((by unfold fields; rw [hm]; rfl : fields w = fields32 w).trans hf) (by rw [hm]; rfl) (by rw [hm]; rfl)
    ((by unfold pick; rw [hm]; rfl : pick w = pick32 w).trans hp)

theorem decode33 {w : IWord} {i : Instr} (hm : w.extractLsb' 26 6 = 0x33#6)
    (hf : fields33 w = some true) (hp : pick33 w = some i) : decode w = .ok i :=
  decode_of_check ((by unfold fields; rw [hm]; rfl : fields w = fields33 w).trans hf) (by rw [hm]; rfl) (by rw [hm]; rfl)
    ((by unfold pick; rw [hm]; rfl : pick w = pick33 w).trans hp)

end Sys2Proof

namespace Sys2Proof.Laws.RoundTrip

section
set_option Elab.async false

/-- Decoding the word of a well-formed instruction gives the instruction back. An event has no word: `encode` gives it 0, which
is no instruction's word. -/
def Statement (i : Instr) : Prop := i.wellFormed = true → encode i ≠ 0#32 → decode (encode i) = .ok i

theorem loadPerform : ∀ x0, Statement (.loadPerform x0) := by
  intros; exact fun _ h => absurd rfl h

theorem storeDrain : Statement (.storeDrain) := fun _ h => absurd rfl h

theorem amoPerform : ∀ x0, Statement (.amoPerform x0) := by
  intros; exact fun _ h => absurd rfl h

theorem vOperationPerform : ∀ x0, Statement (.vOperationPerform x0) := by
  intros; exact fun _ h => absurd rfl h

theorem fenceAllComplete : Statement (.fenceAllComplete) := fun _ h => absurd rfl h

theorem subnormalAssist : Statement (.subnormalAssist) := fun _ h => absurd rfl h

theorem barrierArrival : ∀ x0 x1, Statement (.barrierArrival x0 x1) := by
  intros; exact fun _ h => absurd rfl h

theorem eventDelivery : ∀ x0, Statement (.eventDelivery x0) := by
  intros; exact fun _ h => absurd rfl h

theorem vappendCommit : Statement (.vappendCommit) := fun _ h => absurd rfl h

theorem engineStart : ∀ x0, Statement (.engineStart x0) := by
  intros; exact fun _ h => absurd rfl h

theorem engineUnit : ∀ x0 x1 x2 x3, Statement (.engineUnit x0 x1 x2 x3) := by
  intros; exact fun _ h => absurd rfl h

theorem engineTokenComplete : ∀ x0, Statement (.engineTokenComplete x0) := by
  intros; exact fun _ h => absurd rfl h

theorem absentFaultResolve : ∀ x0 x1 x2, Statement (.absentFaultResolve x0 x1 x2) := by
  intros; exact fun _ h => absurd rfl h

theorem engineInternalError : ∀ x0, Statement (.engineInternalError x0) := by
  intros; exact fun _ h => absurd rfl h

theorem pubFlip : ∀ x0, Statement (.pubFlip x0) := by
  intros; exact fun _ h => absurd rfl h

theorem tokwWatchdog : Statement (.tokwWatchdog) := fun _ h => absurd rfl h

theorem pageMove : ∀ x0, Statement (.pageMove x0) := by
  intros; exact fun _ h => absurd rfl h

theorem pageWalk : ∀ x0 x1 x2 x3, Statement (.pageWalk x0 x1 x2 x3) := by
  intros; exact fun _ h => absurd rfl h

theorem walkRetry : Statement (.walkRetry) := fun _ h => absurd rfl h

theorem kvPageInComplete : ∀ x0, Statement (.kvPageInComplete x0) := by
  intros; exact fun _ h => absurd rfl h

theorem kvretFrameFree : ∀ x0, Statement (.kvretFrameFree x0) := by
  intros; exact fun _ h => absurd rfl h

theorem chainStart : Statement (.chainStart) := fun _ h => absurd rfl h

theorem callComplete : Statement (.callComplete) := fun _ h => absurd rfl h

theorem caskCopyComplete : Statement (.caskCopyComplete) := fun _ h => absurd rfl h

theorem abortUnwind : Statement (.abortUnwind) := fun _ h => absurd rfl h

theorem rendezvousMismatch : Statement (.rendezvousMismatch) := fun _ h => absurd rfl h

theorem dispatcherWake : ∀ x0, Statement (.dispatcherWake x0) := by
  intros; exact fun _ h => absurd rfl h

theorem launchRecord : ∀ x0, Statement (.launchRecord x0) := by
  intros; exact fun _ h => absurd rfl h

theorem rerun : ∀ x0, Statement (.rerun x0) := by
  intros; exact fun _ h => absurd rfl h

theorem launchEligible : ∀ x0, Statement (.launchEligible x0) := by
  intros; exact fun _ h => absurd rfl h

theorem launchTokenComplete : ∀ x0, Statement (.launchTokenComplete x0) := by
  intros; exact fun _ h => absurd rfl h

theorem placement : ∀ x0 x1 x2, Statement (.placement x0 x1 x2) := by
  intros; exact fun _ h => absurd rfl h

theorem preload : ∀ x0 x1 x2 x3, Statement (.preload x0 x1 x2 x3) := by
  intros; exact fun _ h => absurd rfl h

theorem aging : Statement (.aging) := fun _ h => absurd rfl h

theorem budgetTick : Statement (.budgetTick) := fun _ h => absurd rfl h

theorem graceWindowEnd : Statement (.graceWindowEnd) := fun _ h => absurd rfl h

theorem yieldResolve : Statement (.yieldResolve) := fun _ h => absurd rfl h

theorem preEmption : ∀ x0 x1 x2 x3, Statement (.preEmption x0 x1 x2 x3) := by
  intros; exact fun _ h => absurd rfl h

theorem divertedArrival : ∀ x0 x1 x2 x3, Statement (.divertedArrival x0 x1 x2 x3) := by
  intros; exact fun _ h => absurd rfl h

theorem mergeOnResume : ∀ x0, Statement (.mergeOnResume x0) := by
  intros; exact fun _ h => absurd rfl h

theorem machineCheck : ∀ x0, Statement (.machineCheck x0) := by
  intros; exact fun _ h => absurd rfl h

theorem hostAccess : ∀ x0 x1 x2 x3, Statement (.hostAccess x0 x1 x2 x3) := by
  intros; exact fun _ h => absurd rfl h

theorem remoteAccess : ∀ x0 x1 x2 x3 x4, Statement (.remoteAccess x0 x1 x2 x3 x4) := by
  intros; exact fun _ h => absurd rfl h

theorem fabricTimeout : ∀ x0, Statement (.fabricTimeout x0) := by
  intros; exact fun _ h => absurd rfl h

theorem cellarerWake : Statement (.cellarerWake) := fun _ h => absurd rfl h

theorem createContext : ∀ x0, Statement (.createContext x0) := by
  intros; exact fun _ h => absurd rfl h

theorem destroyContext : ∀ x0, Statement (.destroyContext x0) := by
  intros; exact fun _ h => absurd rfl h

theorem registerLaunchQueue : ∀ x0 x1, Statement (.registerLaunchQueue x0 x1) := by
  intros; exact fun _ h => absurd rfl h

theorem unregisterLaunchQueue : ∀ x0, Statement (.unregisterLaunchQueue x0) := by
  intros; exact fun _ h => absurd rfl h

theorem invalidate : ∀ x0 x1, Statement (.invalidate x0 x1) := by
  intros; exact fun _ h => absurd rfl h

theorem mapWindow : ∀ x0 x1 x2, Statement (.mapWindow x0 x1 x2) := by
  intros; exact fun _ h => absurd rfl h

theorem loadFirmware : ∀ x0 x1, Statement (.loadFirmware x0 x1) := by
  intros; exact fun _ h => absurd rfl h

theorem strandDisposition : ∀ x0 x1 x2 x3 x4, Statement (.strandDisposition x0 x1 x2 x3 x4) := by
  intros; exact fun _ h => absurd rfl h

theorem moduleControlWrite : ∀ x0 x1 x2, Statement (.moduleControlWrite x0 x1 x2) := by
  intros; exact fun _ h => absurd rfl h

theorem coldReset : ∀ x0, Statement (.coldReset x0) := by
  intros; exact fun _ h => absurd rfl h

theorem functionLevelReset : Statement (.functionLevelReset) := fun _ h => absurd rfl h

theorem powerClamp : ∀ x0, Statement (.powerClamp x0) := by
  intros; exact fun _ h => absurd rfl h

theorem thermalThrottle : ∀ x0, Statement (.thermalThrottle x0) := by
  intros; exact fun _ h => absurd rfl h

theorem thermalShutdown : ∀ x0, Statement (.thermalShutdown x0) := by
  intros; exact fun _ h => absurd rfl h

theorem sensorEvent : ∀ x0 x1, Statement (.sensorEvent x0 x1) := by
  intros; exact fun _ h => absurd rfl h

theorem spdmRequest : ∀ x0, Statement (.spdmRequest x0) := by
  intros; exact fun _ h => absurd rfl h

theorem pldmRequest : ∀ x0, Statement (.pldmRequest x0) := by
  intros; exact fun _ h => absurd rfl h

theorem flashErase : ∀ x0 x1, Statement (.flashErase x0 x1) := by
  intros; exact fun _ h => absurd rfl h

theorem illegalInstruction : ∀ x0, Statement (.illegalInstruction x0) := by
  intros; exact fun _ h => absurd rfl h

theorem engineFaultResolution : ∀ x0 x1, Statement (.engineFaultResolution x0 x1) := by
  intros; exact fun _ h => absurd rfl h

theorem firmwareDisposition : ∀ x0 x1, Statement (.firmwareDisposition x0 x1) := by
  intros; exact fun _ h => absurd rfl h

theorem firmwarePolicyChange : ∀ x0 x1 x2, Statement (.firmwarePolicyChange x0 x1 x2) := by
  intros; exact fun _ h => absurd rfl h

theorem gtsSlewing : ∀ x0, Statement (.gtsSlewing x0) := by
  intros; exact fun _ h => absurd rfl h

theorem fabricLinkChange : ∀ x0, Statement (.fabricLinkChange x0) := by
  intros; exact fun _ h => absurd rfl h

theorem hostLinkTraining : ∀ x0 x1, Statement (.hostLinkTraining x0 x1) := by
  intros; exact fun _ h => absurd rfl h

theorem add : ∀ d a b, Statement (.add d a b) := by
  intro d a b w _
  show decode (packS3 0x01#6 d a b 0#6 0#5) = _
  exact decode01 (packS3_26_6 ..) (by simp [fields01]) (by simp [pick01])

theorem sub : ∀ d a b, Statement (.sub d a b) := by
  intro d a b w _
  show decode (packS3 0x01#6 d a b 1#6 0#5) = _
  exact decode01 (packS3_26_6 ..) (by simp [fields01]) (by simp [pick01])

theorem and : ∀ d a b, Statement (.and d a b) := by
  intro d a b w _
  show decode (packS3 0x01#6 d a b 2#6 0#5) = _
  exact decode01 (packS3_26_6 ..) (by simp [fields01]) (by simp [pick01])

theorem or : ∀ d a b, Statement (.or d a b) := by
  intro d a b w _
  show decode (packS3 0x01#6 d a b 3#6 0#5) = _
  exact decode01 (packS3_26_6 ..) (by simp [fields01]) (by simp [pick01])

theorem xor : ∀ d a b, Statement (.xor d a b) := by
  intro d a b w _
  show decode (packS3 0x01#6 d a b 4#6 0#5) = _
  exact decode01 (packS3_26_6 ..) (by simp [fields01]) (by simp [pick01])

theorem andn : ∀ d a b, Statement (.andn d a b) := by
  intro d a b w _
  show decode (packS3 0x01#6 d a b 5#6 0#5) = _
  exact decode01 (packS3_26_6 ..) (by simp [fields01]) (by simp [pick01])

theorem sll : ∀ d a b, Statement (.sll d a b) := by
  intro d a b w _
  show decode (packS3 0x01#6 d a b 6#6 0#5) = _
  exact decode01 (packS3_26_6 ..) (by simp [fields01]) (by simp [pick01])

theorem srl : ∀ d a b, Statement (.srl d a b) := by
  intro d a b w _
  show decode (packS3 0x01#6 d a b 7#6 0#5) = _
  exact decode01 (packS3_26_6 ..) (by simp [fields01]) (by simp [pick01])

theorem sra : ∀ d a b, Statement (.sra d a b) := by
  intro d a b w _
  show decode (packS3 0x01#6 d a b 8#6 0#5) = _
  exact decode01 (packS3_26_6 ..) (by simp [fields01]) (by simp [pick01])

theorem rol : ∀ d a b, Statement (.rol d a b) := by
  intro d a b w _
  show decode (packS3 0x01#6 d a b 9#6 0#5) = _
  exact decode01 (packS3_26_6 ..) (by simp [fields01]) (by simp [pick01])

theorem ror : ∀ d a b, Statement (.ror d a b) := by
  intro d a b w _
  show decode (packS3 0x01#6 d a b 10#6 0#5) = _
  exact decode01 (packS3_26_6 ..) (by simp [fields01]) (by simp [pick01])

theorem slt : ∀ d a b, Statement (.slt d a b) := by
  intro d a b w _
  show decode (packS3 0x01#6 d a b 11#6 0#5) = _
  exact decode01 (packS3_26_6 ..) (by simp [fields01]) (by simp [pick01])

theorem sltn : ∀ d a b, Statement (.sltn d a b) := by
  intro d a b w _
  show decode (packS3 0x01#6 d a b 12#6 0#5) = _
  exact decode01 (packS3_26_6 ..) (by simp [fields01]) (by simp [pick01])

theorem min : ∀ d a b, Statement (.min d a b) := by
  intro d a b w _
  show decode (packS3 0x01#6 d a b 13#6 0#5) = _
  exact decode01 (packS3_26_6 ..) (by simp [fields01]) (by simp [pick01])

theorem max : ∀ d a b, Statement (.max d a b) := by
  intro d a b w _
  show decode (packS3 0x01#6 d a b 14#6 0#5) = _
  exact decode01 (packS3_26_6 ..) (by simp [fields01]) (by simp [pick01])

theorem minn : ∀ d a b, Statement (.minn d a b) := by
  intro d a b w _
  show decode (packS3 0x01#6 d a b 15#6 0#5) = _
  exact decode01 (packS3_26_6 ..) (by simp [fields01]) (by simp [pick01])

theorem maxn : ∀ d a b, Statement (.maxn d a b) := by
  intro d a b w _
  show decode (packS3 0x01#6 d a b 16#6 0#5) = _
  exact decode01 (packS3_26_6 ..) (by simp [fields01]) (by simp [pick01])

theorem mul : ∀ d a b, Statement (.mul d a b) := by
  intro d a b w _
  show decode (packS3 0x01#6 d a b 17#6 0#5) = _
  exact decode01 (packS3_26_6 ..) (by simp [fields01]) (by simp [pick01])

theorem mulh : ∀ d a b, Statement (.mulh d a b) := by
  intro d a b w _
  show decode (packS3 0x01#6 d a b 18#6 0#5) = _
  exact decode01 (packS3_26_6 ..) (by simp [fields01]) (by simp [pick01])

theorem mulhn : ∀ d a b, Statement (.mulhn d a b) := by
  intro d a b w _
  show decode (packS3 0x01#6 d a b 19#6 0#5) = _
  exact decode01 (packS3_26_6 ..) (by simp [fields01]) (by simp [pick01])

theorem div : ∀ d a b, Statement (.div d a b) := by
  intro d a b w _
  show decode (packS3 0x01#6 d a b 20#6 0#5) = _
  exact decode01 (packS3_26_6 ..) (by simp [fields01]) (by simp [pick01])

theorem divn : ∀ d a b, Statement (.divn d a b) := by
  intro d a b w _
  show decode (packS3 0x01#6 d a b 21#6 0#5) = _
  exact decode01 (packS3_26_6 ..) (by simp [fields01]) (by simp [pick01])

theorem rem : ∀ d a b, Statement (.rem d a b) := by
  intro d a b w _
  show decode (packS3 0x01#6 d a b 22#6 0#5) = _
  exact decode01 (packS3_26_6 ..) (by simp [fields01]) (by simp [pick01])

theorem remn : ∀ d a b, Statement (.remn d a b) := by
  intro d a b w _
  show decode (packS3 0x01#6 d a b 23#6 0#5) = _
  exact decode01 (packS3_26_6 ..) (by simp [fields01]) (by simp [pick01])

theorem clz : ∀ d a, Statement (.clz d a) := by
  intro d a w _
  show decode (packS3 0x01#6 d a 0#5 24#6 0#5) = _
  exact decode01 (packS3_26_6 ..) (by simp [fields01]) (by simp [pick01])

theorem ctz : ∀ d a, Statement (.ctz d a) := by
  intro d a w _
  show decode (packS3 0x01#6 d a 0#5 25#6 0#5) = _
  exact decode01 (packS3_26_6 ..) (by simp [fields01]) (by simp [pick01])

theorem popc : ∀ d a, Statement (.popc d a) := by
  intro d a w _
  show decode (packS3 0x01#6 d a 0#5 26#6 0#5) = _
  exact decode01 (packS3_26_6 ..) (by simp [fields01]) (by simp [pick01])

theorem sextB : ∀ d a, Statement (.sextB d a) := by
  intro d a w _
  show decode (packS3 0x01#6 d a 0#5 27#6 0#5) = _
  exact decode01 (packS3_26_6 ..) (by simp [fields01]) (by simp [pick01])

theorem sextH : ∀ d a, Statement (.sextH d a) := by
  intro d a w _
  show decode (packS3 0x01#6 d a 0#5 28#6 0#5) = _
  exact decode01 (packS3_26_6 ..) (by simp [fields01]) (by simp [pick01])

theorem sextW : ∀ d a, Statement (.sextW d a) := by
  intro d a w _
  show decode (packS3 0x01#6 d a 0#5 29#6 0#5) = _
  exact decode01 (packS3_26_6 ..) (by simp [fields01]) (by simp [pick01])

theorem zextW : ∀ d a, Statement (.zextW d a) := by
  intro d a w _
  show decode (packS3 0x01#6 d a 0#5 30#6 0#5) = _
  exact decode01 (packS3_26_6 ..) (by simp [fields01]) (by simp [pick01])

theorem slli : ∀ d a s, Statement (.slli d a s) := by
  intro d a s w _
  show decode (packS3 0x01#6 d a (s.extractLsb' 0 5) 31#6 (0#4 ++ (s.extractLsb' 5 1))) = _
  exact decode01 (packS3_26_6 ..) (by simp [fields01]) (by simp [pick01])

theorem srli : ∀ d a s, Statement (.srli d a s) := by
  intro d a s w _
  show decode (packS3 0x01#6 d a (s.extractLsb' 0 5) 32#6 (0#4 ++ (s.extractLsb' 5 1))) = _
  exact decode01 (packS3_26_6 ..) (by simp [fields01]) (by simp [pick01])

theorem srai : ∀ d a s, Statement (.srai d a s) := by
  intro d a s w _
  show decode (packS3 0x01#6 d a (s.extractLsb' 0 5) 33#6 (0#4 ++ (s.extractLsb' 5 1))) = _
  exact decode01 (packS3_26_6 ..) (by simp [fields01]) (by simp [pick01])

theorem addi : ∀ d a i, Statement (.addi d a i) := by
  intro d a i w _
  show decode (packSI 0x02#6 d a i) = _
  exact decode_of_check (by unfold fields; rw [packSI_26_6]; rfl) (by rw [packSI_26_6]; rfl) (by rw [packSI_26_6]; rfl)
    (by unfold pick; rw [packSI_26_6]; simp)

theorem andi : ∀ d a i, Statement (.andi d a i) := by
  intro d a i w _
  show decode (packSI 0x03#6 d a i) = _
  exact decode_of_check (by unfold fields; rw [packSI_26_6]; rfl) (by rw [packSI_26_6]; rfl) (by rw [packSI_26_6]; rfl)
    (by unfold pick; rw [packSI_26_6]; simp)

theorem ori : ∀ d a i, Statement (.ori d a i) := by
  intro d a i w _
  show decode (packSI 0x04#6 d a i) = _
  exact decode_of_check (by unfold fields; rw [packSI_26_6]; rfl) (by rw [packSI_26_6]; rfl) (by rw [packSI_26_6]; rfl)
    (by unfold pick; rw [packSI_26_6]; simp)

theorem xori : ∀ d a i, Statement (.xori d a i) := by
  intro d a i w _
  show decode (packSI 0x05#6 d a i) = _
  exact decode_of_check (by unfold fields; rw [packSI_26_6]; rfl) (by rw [packSI_26_6]; rfl) (by rw [packSI_26_6]; rfl)
    (by unfold pick; rw [packSI_26_6]; simp)

theorem slti : ∀ d a i, Statement (.slti d a i) := by
  intro d a i w _
  show decode (packSI 0x06#6 d a i) = _
  exact decode_of_check (by unfold fields; rw [packSI_26_6]; rfl) (by rw [packSI_26_6]; rfl) (by rw [packSI_26_6]; rfl)
    (by unfold pick; rw [packSI_26_6]; simp)

theorem sltni : ∀ d a i, Statement (.sltni d a i) := by
  intro d a i w _
  show decode (packSI 0x07#6 d a i) = _
  exact decode_of_check (by unfold fields; rw [packSI_26_6]; rfl) (by rw [packSI_26_6]; rfl) (by rw [packSI_26_6]; rfl)
    (by unfold pick; rw [packSI_26_6]; simp)

theorem immh : ∀ d i, Statement (.immh d i) := by
  intro d i w _
  show decode (packSU 0x08#6 d i) = _
  exact decode_of_check (by unfold fields; rw [packSU_26_6]; rfl) (by rw [packSU_26_6]; rfl) (by rw [packSU_26_6]; rfl)
    (by unfold pick; rw [packSU_26_6]; simp)

theorem apc : ∀ d i, Statement (.apc d i) := by
  intro d i w _
  show decode (packSU 0x09#6 d i) = _
  exact decode_of_check (by unfold fields; rw [packSU_26_6]; rfl) (by rw [packSU_26_6]; rfl) (by rw [packSU_26_6]; rfl)
    (by unfold pick; rw [packSU_26_6]; simp)

theorem ldb : ∀ d a o, Statement (.ldb d a o) := by
  intro d a o w _
  show decode (packSM 0x0a#6 d a 0#3 o) = _
  exact decode0A (packSM_26_6 ..) (by simp [fields0A]) (by simp [pick0A])

theorem ldbn : ∀ d a o, Statement (.ldbn d a o) := by
  intro d a o w _
  show decode (packSM 0x0a#6 d a 1#3 o) = _
  exact decode0A (packSM_26_6 ..) (by simp [fields0A]) (by simp [pick0A])

theorem ldh : ∀ d a o, Statement (.ldh d a o) := by
  intro d a o w _
  show decode (packSM 0x0a#6 d a 2#3 o) = _
  exact decode0A (packSM_26_6 ..) (by simp [fields0A]) (by simp [pick0A])

theorem ldhn : ∀ d a o, Statement (.ldhn d a o) := by
  intro d a o w _
  show decode (packSM 0x0a#6 d a 3#3 o) = _
  exact decode0A (packSM_26_6 ..) (by simp [fields0A]) (by simp [pick0A])

theorem ldw : ∀ d a o, Statement (.ldw d a o) := by
  intro d a o w _
  show decode (packSM 0x0a#6 d a 4#3 o) = _
  exact decode0A (packSM_26_6 ..) (by simp [fields0A]) (by simp [pick0A])

theorem ldwn : ∀ d a o, Statement (.ldwn d a o) := by
  intro d a o w _
  show decode (packSM 0x0a#6 d a 5#3 o) = _
  exact decode0A (packSM_26_6 ..) (by simp [fields0A]) (by simp [pick0A])

theorem ldd : ∀ d a o, Statement (.ldd d a o) := by
  intro d a o w _
  show decode (packSM 0x0a#6 d a 6#3 o) = _
  exact decode0A (packSM_26_6 ..) (by simp [fields0A]) (by simp [pick0A])

theorem stb : ∀ s a o, Statement (.stb s a o) := by
  intro s a o w _
  show decode (packSM 0x0b#6 s a 0#3 o) = _
  exact decode0B (packSM_26_6 ..) (by simp [fields0B]) (by simp [pick0B])

theorem sth : ∀ s a o, Statement (.sth s a o) := by
  intro s a o w _
  show decode (packSM 0x0b#6 s a 1#3 o) = _
  exact decode0B (packSM_26_6 ..) (by simp [fields0B]) (by simp [pick0B])

theorem stw : ∀ s a o, Statement (.stw s a o) := by
  intro s a o w _
  show decode (packSM 0x0b#6 s a 2#3 o) = _
  exact decode0B (packSM_26_6 ..) (by simp [fields0B]) (by simp [pick0B])

theorem std : ∀ s a o, Statement (.std s a o) := by
  intro s a o w _
  show decode (packSM 0x0b#6 s a 3#3 o) = _
  exact decode0B (packSM_26_6 ..) (by simp [fields0B]) (by simp [pick0B])

theorem amoAdd : ∀ d a b o s w0, Statement (.amoAdd d a b o s w0) := by
  intro d a b o s w0 w _
  show decode (packS3 0x0c#6 d a b 0#6 (o ++ s ++ (BitVec.ofBool w0))) = _
  exact decode0C (packS3_26_6 ..) (by simp [fields0C]) (by simp [pick0C])

theorem amoAnd : ∀ d a b o s w0, Statement (.amoAnd d a b o s w0) := by
  intro d a b o s w0 w _
  show decode (packS3 0x0c#6 d a b 1#6 (o ++ s ++ (BitVec.ofBool w0))) = _
  exact decode0C (packS3_26_6 ..) (by simp [fields0C]) (by simp [pick0C])

theorem amoOr : ∀ d a b o s w0, Statement (.amoOr d a b o s w0) := by
  intro d a b o s w0 w _
  show decode (packS3 0x0c#6 d a b 2#6 (o ++ s ++ (BitVec.ofBool w0))) = _
  exact decode0C (packS3_26_6 ..) (by simp [fields0C]) (by simp [pick0C])

theorem amoXor : ∀ d a b o s w0, Statement (.amoXor d a b o s w0) := by
  intro d a b o s w0 w _
  show decode (packS3 0x0c#6 d a b 3#6 (o ++ s ++ (BitVec.ofBool w0))) = _
  exact decode0C (packS3_26_6 ..) (by simp [fields0C]) (by simp [pick0C])

theorem amoMin : ∀ d a b o s w0, Statement (.amoMin d a b o s w0) := by
  intro d a b o s w0 w _
  show decode (packS3 0x0c#6 d a b 4#6 (o ++ s ++ (BitVec.ofBool w0))) = _
  exact decode0C (packS3_26_6 ..) (by simp [fields0C]) (by simp [pick0C])

theorem amoMax : ∀ d a b o s w0, Statement (.amoMax d a b o s w0) := by
  intro d a b o s w0 w _
  show decode (packS3 0x0c#6 d a b 5#6 (o ++ s ++ (BitVec.ofBool w0))) = _
  exact decode0C (packS3_26_6 ..) (by simp [fields0C]) (by simp [pick0C])

theorem amoMinn : ∀ d a b o s w0, Statement (.amoMinn d a b o s w0) := by
  intro d a b o s w0 w _
  show decode (packS3 0x0c#6 d a b 6#6 (o ++ s ++ (BitVec.ofBool w0))) = _
  exact decode0C (packS3_26_6 ..) (by simp [fields0C]) (by simp [pick0C])

theorem amoMaxn : ∀ d a b o s w0, Statement (.amoMaxn d a b o s w0) := by
  intro d a b o s w0 w _
  show decode (packS3 0x0c#6 d a b 7#6 (o ++ s ++ (BitVec.ofBool w0))) = _
  exact decode0C (packS3_26_6 ..) (by simp [fields0C]) (by simp [pick0C])

theorem amoSwap : ∀ d a b o s w0, Statement (.amoSwap d a b o s w0) := by
  intro d a b o s w0 w _
  show decode (packS3 0x0c#6 d a b 8#6 (o ++ s ++ (BitVec.ofBool w0))) = _
  exact decode0C (packS3_26_6 ..) (by simp [fields0C]) (by simp [pick0C])

theorem amoCas : ∀ d a b o s w0, Statement (.amoCas d a b o s w0) := by
  intro d a b o s w0 w _
  show decode (packS3 0x0c#6 d a b 9#6 (o ++ s ++ (BitVec.ofBool w0))) = _
  exact decode0C (packS3_26_6 ..) (by simp [fields0C]) (by simp [pick0C])

theorem ldAcq : ∀ d a s w0, Statement (.ldAcq d a s w0) := by
  intro d a s w0 w _
  show decode (packS3 0x0c#6 d a 0#5 10#6 (1#2 ++ s ++ (BitVec.ofBool w0))) = _
  exact decode0C (packS3_26_6 ..) (by simp [fields0C]) (by simp [pick0C])

theorem stRel : ∀ a b s w0, Statement (.stRel a b s w0) := by
  intro a b s w0 w _
  show decode (packS3 0x0c#6 0#5 a b 11#6 (2#2 ++ s ++ (BitVec.ofBool w0))) = _
  exact decode0C (packS3_26_6 ..) (by simp [fields0C]) (by simp [pick0C])

theorem fadd : ∀ d a b, Statement (.fadd d a b) := by
  intro d a b w _
  show decode (packS3 0x0d#6 d a b 0#6 0#5) = _
  exact decode0D (packS3_26_6 ..) (by simp [fields0D]) (by simp [pick0D])

theorem fsub : ∀ d a b, Statement (.fsub d a b) := by
  intro d a b w _
  show decode (packS3 0x0d#6 d a b 1#6 0#5) = _
  exact decode0D (packS3_26_6 ..) (by simp [fields0D]) (by simp [pick0D])

theorem fmul : ∀ d a b, Statement (.fmul d a b) := by
  intro d a b w _
  show decode (packS3 0x0d#6 d a b 2#6 0#5) = _
  exact decode0D (packS3_26_6 ..) (by simp [fields0D]) (by simp [pick0D])

theorem fdiv : ∀ d a b, Statement (.fdiv d a b) := by
  intro d a b w _
  show decode (packS3 0x0d#6 d a b 3#6 0#5) = _
  exact decode0D (packS3_26_6 ..) (by simp [fields0D]) (by simp [pick0D])

theorem fsqrt : ∀ d a, Statement (.fsqrt d a) := by
  intro d a w _
  show decode (packS3 0x0d#6 d a 0#5 4#6 0#5) = _
  exact decode0D (packS3_26_6 ..) (by simp [fields0D]) (by simp [pick0D])

theorem fmin : ∀ d a b, Statement (.fmin d a b) := by
  intro d a b w _
  show decode (packS3 0x0d#6 d a b 5#6 0#5) = _
  exact decode0D (packS3_26_6 ..) (by simp [fields0D]) (by simp [pick0D])

theorem fmax : ∀ d a b, Statement (.fmax d a b) := by
  intro d a b w _
  show decode (packS3 0x0d#6 d a b 6#6 0#5) = _
  exact decode0D (packS3_26_6 ..) (by simp [fields0D]) (by simp [pick0D])

theorem fmac : ∀ d a b, Statement (.fmac d a b) := by
  intro d a b w _
  show decode (packS3 0x0d#6 d a b 7#6 0#5) = _
  exact decode0D (packS3_26_6 ..) (by simp [fields0D]) (by simp [pick0D])

theorem fcvtfi : ∀ d a, Statement (.fcvtfi d a) := by
  intro d a w _
  show decode (packS3 0x0d#6 d a 0#5 8#6 0#5) = _
  exact decode0D (packS3_26_6 ..) (by simp [fields0D]) (by simp [pick0D])

theorem fcvtif : ∀ d a, Statement (.fcvtif d a) := by
  intro d a w _
  show decode (packS3 0x0d#6 d a 0#5 9#6 0#5) = _
  exact decode0D (packS3_26_6 ..) (by simp [fields0D]) (by simp [pick0D])

theorem feq : ∀ d a b, Statement (.feq d a b) := by
  intro d a b w _
  show decode (packS3 0x0d#6 d a b 10#6 0#5) = _
  exact decode0D (packS3_26_6 ..) (by simp [fields0D]) (by simp [pick0D])

theorem flt : ∀ d a b, Statement (.flt d a b) := by
  intro d a b w _
  show decode (packS3 0x0d#6 d a b 11#6 0#5) = _
  exact decode0D (packS3_26_6 ..) (by simp [fields0D]) (by simp [pick0D])

theorem fle : ∀ d a b, Statement (.fle d a b) := by
  intro d a b w _
  show decode (packS3 0x0d#6 d a b 12#6 0#5) = _
  exact decode0D (packS3_26_6 ..) (by simp [fields0D]) (by simp [pick0D])

theorem fkind : ∀ d a, Statement (.fkind d a) := by
  intro d a w _
  show decode (packS3 0x0d#6 d a 0#5 13#6 0#5) = _
  exact decode0D (packS3_26_6 ..) (by simp [fields0D]) (by simp [pick0D])

theorem fcvtbf : ∀ d a, Statement (.fcvtbf d a) := by
  intro d a w _
  show decode (packS3 0x0d#6 d a 0#5 14#6 0#5) = _
  exact decode0D (packS3_26_6 ..) (by simp [fields0D]) (by simp [pick0D])

theorem fmvbf : ∀ d a, Statement (.fmvbf d a) := by
  intro d a w _
  show decode (packS3 0x0d#6 d a 0#5 15#6 0#5) = _
  exact decode0D (packS3_26_6 ..) (by simp [fields0D]) (by simp [pick0D])

theorem beq : ∀ a b o, Statement (.beq a b o) := by
  intro a b o w _
  show decode (packSI 0x0e#6 a b o) = _
  exact decode_of_check (by unfold fields; rw [packSI_26_6]; rfl) (by rw [packSI_26_6]; rfl) (by rw [packSI_26_6]; rfl)
    (by unfold pick; rw [packSI_26_6]; simp)

theorem bne : ∀ a b o, Statement (.bne a b o) := by
  intro a b o w _
  show decode (packSI 0x0f#6 a b o) = _
  exact decode_of_check (by unfold fields; rw [packSI_26_6]; rfl) (by rw [packSI_26_6]; rfl) (by rw [packSI_26_6]; rfl)
    (by unfold pick; rw [packSI_26_6]; simp)

theorem blt : ∀ a b o, Statement (.blt a b o) := by
  intro a b o w _
  show decode (packSI 0x10#6 a b o) = _
  exact decode_of_check (by unfold fields; rw [packSI_26_6]; rfl) (by rw [packSI_26_6]; rfl) (by rw [packSI_26_6]; rfl)
    (by unfold pick; rw [packSI_26_6]; simp)

theorem bge : ∀ a b o, Statement (.bge a b o) := by
  intro a b o w _
  show decode (packSI 0x11#6 a b o) = _
  exact decode_of_check (by unfold fields; rw [packSI_26_6]; rfl) (by rw [packSI_26_6]; rfl) (by rw [packSI_26_6]; rfl)
    (by unfold pick; rw [packSI_26_6]; simp)

theorem bltn : ∀ a b o, Statement (.bltn a b o) := by
  intro a b o w _
  show decode (packSI 0x12#6 a b o) = _
  exact decode_of_check (by unfold fields; rw [packSI_26_6]; rfl) (by rw [packSI_26_6]; rfl) (by rw [packSI_26_6]; rfl)
    (by unfold pick; rw [packSI_26_6]; simp)

theorem bgen : ∀ a b o, Statement (.bgen a b o) := by
  intro a b o w _
  show decode (packSI 0x13#6 a b o) = _
  exact decode_of_check (by unfold fields; rw [packSI_26_6]; rfl) (by rw [packSI_26_6]; rfl) (by rw [packSI_26_6]; rfl)
    (by unfold pick; rw [packSI_26_6]; simp)

theorem jal : ∀ d o, Statement (.jal d o) := by
  intro d o w _
  show decode (packSU 0x14#6 d o) = _
  exact decode_of_check (by unfold fields; rw [packSU_26_6]; rfl) (by rw [packSU_26_6]; rfl) (by rw [packSU_26_6]; rfl)
    (by unfold pick; rw [packSU_26_6]; simp)

theorem jalr : ∀ d a i, Statement (.jalr d a i) := by
  intro d a i w _
  show decode (packSI 0x15#6 d a i) = _
  exact decode_of_check (by unfold fields; rw [packSI_26_6]; rfl) (by rw [packSI_26_6]; rfl) (by rw [packSI_26_6]; rfl)
    (by unfold pick; rw [packSI_26_6]; simp)

theorem loopSet : ∀ l, Statement (.loopSet l) := by
  intro l w _
  simp [Instr.wellFormed, Instr.numbersOk, Instr.fieldsOk] at w
  show decode (packSL 0x16#6 0#2 l 0#5 0#16) = _
  exact decode16 (packSL_26_6 ..) (by simp [fields16, w]) (by simp [pick16])

theorem loopEnd : ∀ l o, Statement (.loopEnd l o) := by
  intro l o w _
  simp [Instr.wellFormed, Instr.numbersOk, Instr.fieldsOk] at w
  show decode (packSL 0x16#6 1#2 l 0#5 o) = _
  exact decode16 (packSL_26_6 ..) (by simp [fields16, w]) (by simp [pick16])

theorem loopIdx : ∀ l d, Statement (.loopIdx l d) := by
  intro l d w _
  simp [Instr.wellFormed, Instr.numbersOk, Instr.fieldsOk] at w
  show decode (packSL 0x16#6 2#2 l d 0#16) = _
  exact decode16 (packSL_26_6 ..) (by simp [fields16, w]) (by simp [pick16])

theorem loopBrk : ∀ l o, Statement (.loopBrk l o) := by
  intro l o w _
  simp [Instr.wellFormed, Instr.numbersOk, Instr.fieldsOk] at w
  show decode (packSL 0x16#6 3#2 l 0#5 o) = _
  exact decode16 (packSL_26_6 ..) (by simp [fields16, w]) (by simp [pick16])

theorem qpush : ∀ a q, Statement (.qpush a q) := by
  intro a q w _
  show decode (packS3 0x17#6 0#5 a q 0#6 0#5) = _
  exact decode17 (packS3_26_6 ..) (by simp) (by simp [fields17]) (by simp [pick17])

theorem qpop : ∀ d q, Statement (.qpop d q) := by
  intro d q w _
  show decode (packS3 0x17#6 d 0#5 q 1#6 0#5) = _
  exact decode17 (packS3_26_6 ..) (by simp) (by simp [fields17]) (by simp [pick17])

theorem qpeek : ∀ d q, Statement (.qpeek d q) := by
  intro d q w _
  show decode (packS3 0x17#6 d 0#5 q 2#6 0#5) = _
  exact decode17 (packS3_26_6 ..) (by simp) (by simp [fields17]) (by simp [pick17])

theorem qtest : ∀ d q, Statement (.qtest d q) := by
  intro d q w _
  show decode (packS3 0x17#6 d 0#5 q 3#6 0#5) = _
  exact decode17 (packS3_26_6 ..) (by simp) (by simp [fields17]) (by simp [pick17])

theorem qclose : ∀ q, Statement (.qclose q) := by
  intro q w _
  show decode (packS3 0x17#6 0#5 0#5 q 4#6 0#5) = _
  exact decode17 (packS3_26_6 ..) (by simp) (by simp [fields17]) (by simp [pick17])

theorem bpush : ∀ a, Statement (.bpush a) := by
  intro a w _
  show decode (packS3 0x17#6 0#5 a 12#5 5#6 0#5) = _
  exact decode17 (packS3_26_6 ..) (by simp) (by simp [fields17]) (by simp [pick17])

theorem qbr : ∀ o, Statement (.qbr o) := by
  intro o w _
  show decode (packS3 0x17#6 (o.extractLsb' 15 5) (o.extractLsb' 10 5) (o.extractLsb' 5 5) 6#6 (o.extractLsb' 0 5)) = _
  exact decode17 (packS3_26_6 ..) (by simp) (by simp [fields17]) (by simp [pick17])

theorem sprd : ∀ d a q, Statement (.sprd d a q) := by
  intro d a q w _
  show decode (packS3 0x17#6 d a q 7#6 0#5) = _
  exact decode17 (packS3_26_6 ..) (by simp) (by simp [fields17]) (by simp [pick17])

theorem spwr : ∀ d a q, Statement (.spwr d a q) := by
  intro d a q w _
  show decode (packS3 0x17#6 d a q 8#6 0#5) = _
  exact decode17 (packS3_26_6 ..) (by simp) (by simp [fields17]) (by simp [pick17])

theorem qflush : ∀ q, Statement (.qflush q) := by
  intro q w _
  show decode (packS3 0x17#6 0#5 0#5 q 9#6 0#5) = _
  exact decode17 (packS3_26_6 ..) (by simp) (by simp [fields17]) (by simp [pick17])

theorem qdepth : ∀ d q, Statement (.qdepth d q) := by
  intro d q w _
  show decode (packS3 0x17#6 d 0#5 q 10#6 0#5) = _
  exact decode17 (packS3_26_6 ..) (by simp) (by simp [fields17]) (by simp [pick17])

theorem csrr : ∀ d c, Statement (.csrr d c) := by
  intro d c w _
  simp [Instr.wellFormed, Instr.numbersOk, Instr.fieldsOk] at w
  show decode (packCS 0x18#6 d 0#5 0#2 0#2 c) = _
  exact decode18 (packCS_26_6 ..) (by simp [fields18, w]) (by simp [pick18])

theorem csrw : ∀ d a c, Statement (.csrw d a c) := by
  intro d a c w _
  simp [Instr.wellFormed, Instr.numbersOk, Instr.fieldsOk] at w
  show decode (packCS 0x18#6 d a 1#2 0#2 c) = _
  exact decode18 (packCS_26_6 ..) (by simp [fields18, w]) (by simp [pick18])

theorem csrs : ∀ d a c, Statement (.csrs d a c) := by
  intro d a c w _
  simp [Instr.wellFormed, Instr.numbersOk, Instr.fieldsOk] at w
  show decode (packCS 0x18#6 d a 2#2 0#2 c) = _
  exact decode18 (packCS_26_6 ..) (by simp [fields18, w]) (by simp [pick18])

theorem csrc : ∀ d a c, Statement (.csrc d a c) := by
  intro d a c w _
  simp [Instr.wellFormed, Instr.numbersOk, Instr.fieldsOk] at w
  show decode (packCS 0x18#6 d a 3#2 0#2 c) = _
  exact decode18 (packCS_26_6 ..) (by simp [fields18, w]) (by simp [pick18])

theorem fenceAv : ∀ s, Statement (.fenceAv s) := by
  intro s w _
  show decode (packS3 0x19#6 0#5 0#5 0#5 0#6 (0#2 ++ s ++ 0#1)) = _
  exact decode19 (packS3_26_6 ..) (by simp [fields19]) (by simp [pick19])

theorem fenceVa : ∀ s, Statement (.fenceVa s) := by
  intro s w _
  show decode (packS3 0x19#6 0#5 0#5 0#5 1#6 (0#2 ++ s ++ 0#1)) = _
  exact decode19 (packS3_26_6 ..) (by simp [fields19]) (by simp [pick19])

theorem fenceVV : ∀ s, Statement (.fenceVV s) := by
  intro s w _
  show decode (packS3 0x19#6 0#5 0#5 0#5 2#6 (0#2 ++ s ++ 0#1)) = _
  exact decode19 (packS3_26_6 ..) (by simp [fields19]) (by simp [pick19])

theorem fenceAll : ∀ s, Statement (.fenceAll s) := by
  intro s w _
  show decode (packS3 0x19#6 0#5 0#5 0#5 3#6 (0#2 ++ s ++ 0#1)) = _
  exact decode19 (packS3_26_6 ..) (by simp [fields19]) (by simp [pick19])

theorem barArv : ∀ b s, Statement (.barArv b s) := by
  intro b s w _
  simp [Instr.wellFormed, Instr.numbersOk, Instr.fieldsOk] at w
  show decode (packS3 0x19#6 0#5 0#5 b 4#6 (0#2 ++ s ++ 0#1)) = _
  exact decode19 (packS3_26_6 ..) (by simp [fields19, w]) (by simp [pick19])

theorem barWt : ∀ b s, Statement (.barWt b s) := by
  intro b s w _
  simp [Instr.wellFormed, Instr.numbersOk, Instr.fieldsOk] at w
  show decode (packS3 0x19#6 0#5 0#5 b 5#6 (0#2 ++ s ++ 0#1)) = _
  exact decode19 (packS3_26_6 ..) (by simp [fields19, w]) (by simp [pick19])

theorem barSync : ∀ b s, Statement (.barSync b s) := by
  intro b s w _
  simp [Instr.wellFormed, Instr.numbersOk, Instr.fieldsOk] at w
  show decode (packS3 0x19#6 0#5 0#5 b 6#6 (0#2 ++ s ++ 0#1)) = _
  exact decode19 (packS3_26_6 ..) (by simp [fields19, w]) (by simp [pick19])

theorem yield : Statement (.yield) := by
  intro w _
  show decode (packS3 0x19#6 0#5 0#5 0#5 7#6 0#5) = _
  exact decode19 (packS3_26_6 ..) (by simp [fields19]) (by simp [pick19])

theorem wfe : Statement (.wfe) := by
  intro w _
  show decode (packS3 0x19#6 0#5 0#5 0#5 8#6 0#5) = _
  exact decode19 (packS3_26_6 ..) (by simp [fields19]) (by simp [pick19])

theorem sev : ∀ a s, Statement (.sev a s) := by
  intro a s w _
  show decode (packS3 0x19#6 0#5 a 0#5 9#6 (0#2 ++ s ++ 0#1)) = _
  exact decode19 (packS3_26_6 ..) (by simp [fields19]) (by simp [pick19])

theorem trap : ∀ a, Statement (.trap a) := by
  intro a w _
  show decode (packS3 0x1a#6 0#5 a 0#5 0#6 0#5) = _
  exact decode1A (packS3_26_6 ..) (by simp [fields1A]) (by simp [pick1A])

theorem svc : ∀ a, Statement (.svc a) := by
  intro a w _
  show decode (packS3 0x1a#6 0#5 a 0#5 1#6 0#5) = _
  exact decode1A (packS3_26_6 ..) (by simp [fields1A]) (by simp [pick1A])

theorem tret : Statement (.tret) := by
  intro w _
  show decode (packS3 0x1a#6 0#5 0#5 0#5 2#6 0#5) = _
  exact decode1A (packS3_26_6 ..) (by simp [fields1A]) (by simp [pick1A])

theorem halt : Statement (.halt) := by
  intro w _
  show decode (packS3 0x1a#6 0#5 0#5 0#5 3#6 0#5) = _
  exact decode1A (packS3_26_6 ..) (by simp [fields1A]) (by simp [pick1A])

theorem dbrk : Statement (.dbrk) := by
  intro w _
  show decode (packS3 0x1a#6 0#5 0#5 0#5 4#6 0#5) = _
  exact decode1A (packS3_26_6 ..) (by simp [fields1A]) (by simp [pick1A])

theorem tlbi : ∀ a b, Statement (.tlbi a b) := by
  intro a b w _
  show decode (packS3 0x1a#6 0#5 a b 5#6 0#5) = _
  exact decode1A (packS3_26_6 ..) (by simp [fields1A]) (by simp [pick1A])

theorem vsave : ∀ a b, Statement (.vsave a b) := by
  intro a b w _
  show decode (packS3 0x1a#6 0#5 a b 6#6 0#5) = _
  exact decode1A (packS3_26_6 ..) (by simp [fields1A]) (by simp [pick1A])

theorem vrest : ∀ a b, Statement (.vrest a b) := by
  intro a b w _
  show decode (packS3 0x1a#6 0#5 a b 7#6 0#5) = _
  exact decode1A (packS3_26_6 ..) (by simp [fields1A]) (by simp [pick1A])

theorem wfi : Statement (.wfi) := by
  intro w _
  show decode (packS3 0x1a#6 0#5 0#5 0#5 8#6 0#5) = _
  exact decode1A (packS3_26_6 ..) (by simp [fields1A]) (by simp [pick1A])

theorem cpy : ∀ d p s t k, Statement (.cpy d p s t k) := by
  intro d p s t k w _
  show decode (packE 0x1b#6 d p 0#5 0#6 s (0#1 ++ (BitVec.ofBool t) ++ (BitVec.ofBool k))) = _
  exact decode1B (packE_26_6 ..) (by simp [fields1B]) (by simp [pick1B])

theorem cpyq : ∀ d p s, Statement (.cpyq d p s) := by
  intro d p s w _
  show decode (packE 0x1b#6 d p 0#5 1#6 s 0#3) = _
  exact decode1B (packE_26_6 ..) (by simp [fields1B]) (by simp [pick1B])

theorem cpys : ∀ d p s, Statement (.cpys d p s) := by
  intro d p s w _
  show decode (packE 0x1b#6 d p 0#5 2#6 s 0#3) = _
  exact decode1B (packE_26_6 ..) (by simp [fields1B]) (by simp [pick1B])

theorem gath : ∀ d p s q i, Statement (.gath d p s q i) := by
  intro d p s q i w _
  show decode (packE 0x1b#6 d p 0#5 3#6 s (0#1 ++ (BitVec.ofBool q) ++ (BitVec.ofBool i))) = _
  exact decode1B (packE_26_6 ..) (by simp [fields1B]) (by simp [pick1B])

theorem scad : ∀ d p s v i, Statement (.scad d p s v i) := by
  intro d p s v i w _
  show decode (packE 0x1b#6 d p 0#5 4#6 s (0#1 ++ (BitVec.ofBool v) ++ (BitVec.ofBool i))) = _
  exact decode1B (packE_26_6 ..) (by simp [fields1B]) (by simp [pick1B])

theorem coll : ∀ d p s, Statement (.coll d p s) := by
  intro d p s w _
  simp [Instr.wellFormed, Instr.numbersOk, Instr.fieldsOk] at w
  show decode (packE 0x1b#6 d p 0#5 5#6 s 0#3) = _
  exact decode1B (packE_26_6 ..) (by simp [fields1B, w]) (by simp [pick1B])

theorem pub : ∀ d p s, Statement (.pub d p s) := by
  intro d p s w _
  simp [Instr.wellFormed, Instr.numbersOk, Instr.fieldsOk] at w
  show decode (packE 0x1b#6 d p 0#5 6#6 s 0#3) = _
  exact decode1B (packE_26_6 ..) (by simp [fields1B, w]) (by simp [pick1B])

theorem tokw : ∀ d p, Statement (.tokw d p) := by
  intro d p w _
  show decode (packE 0x1b#6 d p 0#5 7#6 0#2 0#3) = _
  exact decode1B (packE_26_6 ..) (by simp [fields1B]) (by simp [pick1B])

theorem toks : ∀ d p, Statement (.toks d p) := by
  intro d p w _
  show decode (packE 0x1b#6 d p 0#5 8#6 0#2 0#3) = _
  exact decode1B (packE_26_6 ..) (by simp [fields1B]) (by simp [pick1B])

theorem mig : ∀ d p, Statement (.mig d p) := by
  intro d p w _
  show decode (packE 0x1b#6 d p 0#5 9#6 0#2 0#3) = _
  exact decode1B (packE_26_6 ..) (by simp [fields1B]) (by simp [pick1B])

theorem kvfork : ∀ d p n s, Statement (.kvfork d p n s) := by
  intro d p n s w _
  simp [Instr.wellFormed, Instr.numbersOk, Instr.fieldsOk] at w
  show decode (packE 0x1c#6 d p n 0#6 s 0#3) = _
  exact decode1C (packE_26_6 ..) (by simp [fields1C, w]) (by simp [pick1C])

theorem kvapp : ∀ d p n s, Statement (.kvapp d p n s) := by
  intro d p n s w _
  simp [Instr.wellFormed, Instr.numbersOk, Instr.fieldsOk] at w
  show decode (packE 0x1c#6 d p n 1#6 s 0#3) = _
  exact decode1C (packE_26_6 ..) (by simp [fields1C, w]) (by simp [pick1C])

theorem kvtag : ∀ d p n s, Statement (.kvtag d p n s) := by
  intro d p n s w _
  simp [Instr.wellFormed, Instr.numbersOk, Instr.fieldsOk] at w
  show decode (packE 0x1c#6 d p n 2#6 s 0#3) = _
  exact decode1C (packE_26_6 ..) (by simp [fields1C, w]) (by simp [pick1C])

theorem kvret : ∀ d p n s, Statement (.kvret d p n s) := by
  intro d p n s w _
  simp [Instr.wellFormed, Instr.numbersOk, Instr.fieldsOk] at w
  show decode (packE 0x1c#6 d p n 3#6 s 0#3) = _
  exact decode1C (packE_26_6 ..) (by simp [fields1C, w]) (by simp [pick1C])

theorem kvres : ∀ d p n s, Statement (.kvres d p n s) := by
  intro d p n s w _
  simp [Instr.wellFormed, Instr.numbersOk, Instr.fieldsOk] at w
  show decode (packE 0x1c#6 d p n 4#6 s 0#3) = _
  exact decode1C (packE_26_6 ..) (by simp [fields1C, w]) (by simp [pick1C])

theorem kvpin : ∀ d p n s ev un pin, Statement (.kvpin d p n s ev un pin) := by
  intro d p n s ev un pin w _
  simp [Instr.wellFormed, Instr.numbersOk, Instr.fieldsOk] at w
  show decode (packE 0x1c#6 d p n 5#6 s ((BitVec.ofBool ev) ++ (BitVec.ofBool un) ++ (BitVec.ofBool pin))) = _
  exact decode1C (packE_26_6 ..) (by simp [fields1C, w]) (by simp [pick1C])

theorem kvlook : ∀ d p n s, Statement (.kvlook d p n s) := by
  intro d p n s w _
  simp [Instr.wellFormed, Instr.numbersOk, Instr.fieldsOk] at w
  show decode (packE 0x1c#6 d p n 6#6 s 0#3) = _
  exact decode1C (packE_26_6 ..) (by simp [fields1C, w]) (by simp [pick1C])

theorem rvchain : ∀ p, Statement (.rvchain p) := by
  intro p w _
  show decode (packE 0x1d#6 0#5 p 0#5 0#6 0#2 0#3) = _
  exact decode1D (packE_26_6 ..) (by simp [fields1D]) (by simp [pick1D])

theorem rvret : Statement (.rvret) := by
  intro w _
  show decode (packE 0x1d#6 0#5 0#5 0#5 1#6 0#2 0#3) = _
  exact decode1D (packE_26_6 ..) (by simp [fields1D]) (by simp [pick1D])

theorem rvq : ∀ d, Statement (.rvq d) := by
  intro d w _
  show decode (packE 0x1d#6 d 0#5 0#5 2#6 0#2 0#3) = _
  exact decode1D (packE_26_6 ..) (by simp [fields1D]) (by simp [pick1D])

theorem rvabort : ∀ n, Statement (.rvabort n) := by
  intro n w _
  show decode (packE 0x1d#6 0#5 0#5 n 3#6 0#2 0#3) = _
  exact decode1D (packE_26_6 ..) (by simp [fields1D]) (by simp [pick1D])

theorem vcfg : ∀ d a b, Statement (.vcfg d a b) := by
  intro d a b w _
  show decode (packVC 0x20#6 0#1 d a (b ++ 0#5) 0#5) = _
  exact decode20 (packVC_26_6 ..) (by simp) (by simp [fields20]) (by simp [pick20])

theorem vcfgi : ∀ d a t, Statement (.vcfgi d a t) := by
  intro d a t w _
  show decode (packVC 0x20#6 0#1 d a t 1#5) = _
  exact decode20 (packVC_26_6 ..) (by simp) (by simp [fields20]) (by simp [pick20])

theorem vreconf : ∀ c, Statement (.vreconf c) := by
  intro c w _
  show decode (packVC 0x20#6 0#1 0#5 0#5 (0#3 ++ c ++ 0#5) 2#5) = _
  exact decode20 (packVC_26_6 ..) (by simp) (by simp [fields20]) (by simp [pick20])

theorem vle : ∀ k d x mask, Statement (.vle k d x mask) := by
  intro k d x mask w _
  show decode (packV 0x21#6 (BitVec.ofBool k) d x 0#5 0#1 0#1 (maskMe mask) (maskMk mask) 0#5) = _
  cases mask <;>
    exact decode21 (packV_26_6 ..) (by simp [fields21, maskMe, maskMk, maskWordOk]) (by simp [pick21, maskMe, maskMk, maskOf])

theorem vlse : ∀ k d x s mask, Statement (.vlse k d x s mask) := by
  intro k d x s mask w _
  simp [Instr.wellFormed, Instr.numbersOk, Instr.fieldsOk] at w
  show decode (packV 0x21#6 (BitVec.ofBool k) d x s 0#1 0#1 (maskMe mask) (maskMk mask) 1#5) = _
  cases mask <;>
    exact decode21 (packV_26_6 ..) (by simp [fields21, maskMe, maskMk, maskWordOk]) (by simp [pick21, maskMe, maskMk, maskOf])

theorem vlseg : ∀ k d x f mask, Statement (.vlseg k d x f mask) := by
  intro k d x f mask w _
  simp [Instr.wellFormed, Instr.numbersOk, Instr.fieldsOk] at w
  show decode (packV 0x21#6 (BitVec.ofBool k) d x (0#2 ++ f) 0#1 0#1 (maskMe mask) (maskMk mask) 2#5) = _
  cases mask <;>
    exact decode21 (packV_26_6 ..) (by simp [fields21, maskMe, maskMk, maskWordOk, w]) (by simp [pick21, maskMe, maskMk, maskOf])

theorem vlx : ∀ k d x i mask, Statement (.vlx k d x i mask) := by
  intro k d x i mask w _
  show decode (packV 0x21#6 (BitVec.ofBool k) d x i 0#1 0#1 (maskMe mask) (maskMk mask) 3#5) = _
  cases mask <;>
    exact decode21 (packV_26_6 ..) (by simp [fields21, maskMe, maskMk, maskWordOk]) (by simp [pick21, maskMe, maskMk, maskOf])

theorem vlb : ∀ k d x o mask, Statement (.vlb k d x o mask) := by
  intro k d x o mask w _
  show decode (packV 0x21#6 (BitVec.ofBool k) d x o 0#1 0#1 (maskMe mask) (maskMk mask) 4#5) = _
  cases mask <;>
    exact decode21 (packV_26_6 ..) (by simp [fields21, maskMe, maskMk, maskWordOk]) (by simp [pick21, maskMe, maskMk, maskOf])

theorem vlkv : ∀ k d x p, Statement (.vlkv k d x p) := by
  intro k d x p w _
  show decode (packV 0x21#6 (BitVec.ofBool k) d x p 0#1 0#1 0#1 0#2 5#5) = _
  exact decode21 (packV_26_6 ..) (by simp [fields21]) (by simp [pick21])

theorem vlsc : ∀ k d x, Statement (.vlsc k d x) := by
  intro k d x w _
  show decode (packV 0x21#6 (BitVec.ofBool k) d x 0#5 0#1 0#1 0#1 0#2 6#5) = _
  exact decode21 (packV_26_6 ..) (by simp [fields21]) (by simp [pick21])

theorem vse : ∀ k v x c mask, Statement (.vse k v x c mask) := by
  intro k v x c mask w _
  show decode (packV 0x22#6 (BitVec.ofBool k) v x 0#5 (BitVec.ofBool c) 0#1 (maskMe mask) (maskMk mask) 0#5) = _
  cases mask <;>
    exact decode22 (packV_26_6 ..) (by simp [fields22, maskMe, maskMk, maskWordOk]) (by simp [pick22, maskMe, maskMk, maskOf])

theorem vsse : ∀ k v x s c mask, Statement (.vsse k v x s c mask) := by
  intro k v x s c mask w _
  simp [Instr.wellFormed, Instr.numbersOk, Instr.fieldsOk] at w
  show decode (packV 0x22#6 (BitVec.ofBool k) v x s (BitVec.ofBool c) 0#1 (maskMe mask) (maskMk mask) 1#5) = _
  cases mask <;>
    exact decode22 (packV_26_6 ..) (by simp [fields22, maskMe, maskMk, maskWordOk]) (by simp [pick22, maskMe, maskMk, maskOf])

theorem vsseg : ∀ k v x f c mask, Statement (.vsseg k v x f c mask) := by
  intro k v x f c mask w _
  simp [Instr.wellFormed, Instr.numbersOk, Instr.fieldsOk] at w
  show decode (packV 0x22#6 (BitVec.ofBool k) v x (0#2 ++ f) (BitVec.ofBool c) 0#1 (maskMe mask) (maskMk mask) 2#5) = _
  cases mask <;>
    exact decode22 (packV_26_6 ..) (by simp [fields22, maskMe, maskMk, maskWordOk, w]) (by simp [pick22, maskMe, maskMk, maskOf])

theorem vsx : ∀ k v x i c mask, Statement (.vsx k v x i c mask) := by
  intro k v x i c mask w _
  show decode (packV 0x22#6 (BitVec.ofBool k) v x i (BitVec.ofBool c) 0#1 (maskMe mask) (maskMk mask) 3#5) = _
  cases mask <;>
    exact decode22 (packV_26_6 ..) (by simp [fields22, maskMe, maskMk, maskWordOk]) (by simp [pick22, maskMe, maskMk, maskOf])

theorem vsxo : ∀ k v x i c mask, Statement (.vsxo k v x i c mask) := by
  intro k v x i c mask w _
  show decode (packV 0x22#6 (BitVec.ofBool k) v x i (BitVec.ofBool c) 0#1 (maskMe mask) (maskMk mask) 4#5) = _
  cases mask <;>
    exact decode22 (packV_26_6 ..) (by simp [fields22, maskMe, maskMk, maskWordOk]) (by simp [pick22, maskMe, maskMk, maskOf])

theorem vsb : ∀ k v x o c mask, Statement (.vsb k v x o c mask) := by
  intro k v x o c mask w _
  show decode (packV 0x22#6 (BitVec.ofBool k) v x o (BitVec.ofBool c) 0#1 (maskMe mask) (maskMk mask) 5#5) = _
  cases mask <;>
    exact decode22 (packV_26_6 ..) (by simp [fields22, maskMe, maskMk, maskWordOk]) (by simp [pick22, maskMe, maskMk, maskOf])

theorem vssc : ∀ k v x, Statement (.vssc k v x) := by
  intro k v x w _
  show decode (packV 0x22#6 (BitVec.ofBool k) v x 0#5 0#1 0#1 0#1 0#2 6#5) = _
  exact decode22 (packV_26_6 ..) (by simp [fields22]) (by simp [pick22])

theorem vlld : ∀ k d x i mask, Statement (.vlld k d x i mask) := by
  intro k d x i mask w _
  show decode (packV 0x23#6 (BitVec.ofBool k) d x i 0#1 0#1 (maskMe mask) (maskMk mask) 0#5) = _
  cases mask <;>
    exact decode23 (packV_26_6 ..) (by simp [fields23, maskMe, maskMk, maskWordOk]) (by simp [pick23, maskMe, maskMk, maskOf])

theorem vlst : ∀ k v x i c mask, Statement (.vlst k v x i c mask) := by
  intro k v x i c mask w _
  show decode (packV 0x23#6 (BitVec.ofBool k) v x i (BitVec.ofBool c) 0#1 (maskMe mask) (maskMk mask) 1#5) = _
  cases mask <;>
    exact decode23 (packV_26_6 ..) (by simp [fields23, maskMe, maskMk, maskWordOk]) (by simp [pick23, maskMe, maskMk, maskOf])

theorem vlla : ∀ k d x i mask, Statement (.vlla k d x i mask) := by
  intro k d x i mask w _
  show decode (packV 0x23#6 (BitVec.ofBool k) d x i 0#1 0#1 (maskMe mask) (maskMk mask) 2#5) = _
  cases mask <;>
    exact decode23 (packV_26_6 ..) (by simp [fields23, maskMe, maskMk, maskWordOk]) (by simp [pick23, maskMe, maskMk, maskOf])

theorem vaddVV : ∀ k d s t a b mask, Statement (.vaddVV k d s t a b mask) := by
  intro k d s t a b mask w _
  show decode (packV 0x24#6 (BitVec.ofBool k) d s t (BitVec.ofBool a) (BitVec.ofBool b) (maskMe mask) (maskMk mask) 0#5) = _
  cases mask <;>
    exact decode24 (packV_26_6 ..) (by simp [fields24, maskMe, maskMk, maskWordOk]) (by simp [pick24, maskMe, maskMk, maskOf])

theorem vsubVV : ∀ k d s t a b mask, Statement (.vsubVV k d s t a b mask) := by
  intro k d s t a b mask w _
  show decode (packV 0x24#6 (BitVec.ofBool k) d s t (BitVec.ofBool a) (BitVec.ofBool b) (maskMe mask) (maskMk mask) 1#5) = _
  cases mask <;>
    exact decode24 (packV_26_6 ..) (by simp [fields24, maskMe, maskMk, maskWordOk]) (by simp [pick24, maskMe, maskMk, maskOf])

theorem vmulVV : ∀ k d s t a b mask, Statement (.vmulVV k d s t a b mask) := by
  intro k d s t a b mask w _
  show decode (packV 0x24#6 (BitVec.ofBool k) d s t (BitVec.ofBool a) (BitVec.ofBool b) (maskMe mask) (maskMk mask) 2#5) = _
  cases mask <;>
    exact decode24 (packV_26_6 ..) (by simp [fields24, maskMe, maskMk, maskWordOk]) (by simp [pick24, maskMe, maskMk, maskOf])

theorem vmulh : ∀ k d s t a b mask, Statement (.vmulh k d s t a b mask) := by
  intro k d s t a b mask w _
  show decode (packV 0x24#6 (BitVec.ofBool k) d s t (BitVec.ofBool a) (BitVec.ofBool b) (maskMe mask) (maskMk mask) 3#5) = _
  cases mask <;>
    exact decode24 (packV_26_6 ..) (by simp [fields24, maskMe, maskMk, maskWordOk]) (by simp [pick24, maskMe, maskMk, maskOf])

theorem vmulhn : ∀ k d s t a b mask, Statement (.vmulhn k d s t a b mask) := by
  intro k d s t a b mask w _
  show decode (packV 0x24#6 (BitVec.ofBool k) d s t (BitVec.ofBool a) (BitVec.ofBool b) (maskMe mask) (maskMk mask) 4#5) = _
  cases mask <;>
    exact decode24 (packV_26_6 ..) (by simp [fields24, maskMe, maskMk, maskWordOk]) (by simp [pick24, maskMe, maskMk, maskOf])

theorem vdiv : ∀ k d s t a b mask, Statement (.vdiv k d s t a b mask) := by
  intro k d s t a b mask w _
  show decode (packV 0x24#6 (BitVec.ofBool k) d s t (BitVec.ofBool a) (BitVec.ofBool b) (maskMe mask) (maskMk mask) 5#5) = _
  cases mask <;>
    exact decode24 (packV_26_6 ..) (by simp [fields24, maskMe, maskMk, maskWordOk]) (by simp [pick24, maskMe, maskMk, maskOf])

theorem vdivn : ∀ k d s t a b mask, Statement (.vdivn k d s t a b mask) := by
  intro k d s t a b mask w _
  show decode (packV 0x24#6 (BitVec.ofBool k) d s t (BitVec.ofBool a) (BitVec.ofBool b) (maskMe mask) (maskMk mask) 6#5) = _
  cases mask <;>
    exact decode24 (packV_26_6 ..) (by simp [fields24, maskMe, maskMk, maskWordOk]) (by simp [pick24, maskMe, maskMk, maskOf])

theorem vrem : ∀ k d s t a b mask, Statement (.vrem k d s t a b mask) := by
  intro k d s t a b mask w _
  show decode (packV 0x24#6 (BitVec.ofBool k) d s t (BitVec.ofBool a) (BitVec.ofBool b) (maskMe mask) (maskMk mask) 7#5) = _
  cases mask <;>
    exact decode24 (packV_26_6 ..) (by simp [fields24, maskMe, maskMk, maskWordOk]) (by simp [pick24, maskMe, maskMk, maskOf])

theorem vremn : ∀ k d s t a b mask, Statement (.vremn k d s t a b mask) := by
  intro k d s t a b mask w _
  show decode (packV 0x24#6 (BitVec.ofBool k) d s t (BitVec.ofBool a) (BitVec.ofBool b) (maskMe mask) (maskMk mask) 8#5) = _
  cases mask <;>
    exact decode24 (packV_26_6 ..) (by simp [fields24, maskMe, maskMk, maskWordOk]) (by simp [pick24, maskMe, maskMk, maskOf])

theorem vandVV : ∀ k d s t a b mask, Statement (.vandVV k d s t a b mask) := by
  intro k d s t a b mask w _
  show decode (packV 0x24#6 (BitVec.ofBool k) d s t (BitVec.ofBool a) (BitVec.ofBool b) (maskMe mask) (maskMk mask) 9#5) = _
  cases mask <;>
    exact decode24 (packV_26_6 ..) (by simp [fields24, maskMe, maskMk, maskWordOk]) (by simp [pick24, maskMe, maskMk, maskOf])

theorem vorVV : ∀ k d s t a b mask, Statement (.vorVV k d s t a b mask) := by
  intro k d s t a b mask w _
  show decode (packV 0x24#6 (BitVec.ofBool k) d s t (BitVec.ofBool a) (BitVec.ofBool b) (maskMe mask) (maskMk mask) 10#5) = _
  cases mask <;>
    exact decode24 (packV_26_6 ..) (by simp [fields24, maskMe, maskMk, maskWordOk]) (by simp [pick24, maskMe, maskMk, maskOf])

theorem vxorVV : ∀ k d s t a b mask, Statement (.vxorVV k d s t a b mask) := by
  intro k d s t a b mask w _
  show decode (packV 0x24#6 (BitVec.ofBool k) d s t (BitVec.ofBool a) (BitVec.ofBool b) (maskMe mask) (maskMk mask) 11#5) = _
  cases mask <;>
    exact decode24 (packV_26_6 ..) (by simp [fields24, maskMe, maskMk, maskWordOk]) (by simp [pick24, maskMe, maskMk, maskOf])

theorem vsllVV : ∀ k d s t a b mask, Statement (.vsllVV k d s t a b mask) := by
  intro k d s t a b mask w _
  show decode (packV 0x24#6 (BitVec.ofBool k) d s t (BitVec.ofBool a) (BitVec.ofBool b) (maskMe mask) (maskMk mask) 12#5) = _
  cases mask <;>
    exact decode24 (packV_26_6 ..) (by simp [fields24, maskMe, maskMk, maskWordOk]) (by simp [pick24, maskMe, maskMk, maskOf])

theorem vsrlVV : ∀ k d s t a b mask, Statement (.vsrlVV k d s t a b mask) := by
  intro k d s t a b mask w _
  show decode (packV 0x24#6 (BitVec.ofBool k) d s t (BitVec.ofBool a) (BitVec.ofBool b) (maskMe mask) (maskMk mask) 13#5) = _
  cases mask <;>
    exact decode24 (packV_26_6 ..) (by simp [fields24, maskMe, maskMk, maskWordOk]) (by simp [pick24, maskMe, maskMk, maskOf])

theorem vsraVV : ∀ k d s t a b mask, Statement (.vsraVV k d s t a b mask) := by
  intro k d s t a b mask w _
  show decode (packV 0x24#6 (BitVec.ofBool k) d s t (BitVec.ofBool a) (BitVec.ofBool b) (maskMe mask) (maskMk mask) 14#5) = _
  cases mask <;>
    exact decode24 (packV_26_6 ..) (by simp [fields24, maskMe, maskMk, maskWordOk]) (by simp [pick24, maskMe, maskMk, maskOf])

theorem vminVV : ∀ k d s t a b mask, Statement (.vminVV k d s t a b mask) := by
  intro k d s t a b mask w _
  show decode (packV 0x24#6 (BitVec.ofBool k) d s t (BitVec.ofBool a) (BitVec.ofBool b) (maskMe mask) (maskMk mask) 15#5) = _
  cases mask <;>
    exact decode24 (packV_26_6 ..) (by simp [fields24, maskMe, maskMk, maskWordOk]) (by simp [pick24, maskMe, maskMk, maskOf])

theorem vmaxVV : ∀ k d s t a b mask, Statement (.vmaxVV k d s t a b mask) := by
  intro k d s t a b mask w _
  show decode (packV 0x24#6 (BitVec.ofBool k) d s t (BitVec.ofBool a) (BitVec.ofBool b) (maskMe mask) (maskMk mask) 16#5) = _
  cases mask <;>
    exact decode24 (packV_26_6 ..) (by simp [fields24, maskMe, maskMk, maskWordOk]) (by simp [pick24, maskMe, maskMk, maskOf])

theorem vminn : ∀ k d s t a b mask, Statement (.vminn k d s t a b mask) := by
  intro k d s t a b mask w _
  show decode (packV 0x24#6 (BitVec.ofBool k) d s t (BitVec.ofBool a) (BitVec.ofBool b) (maskMe mask) (maskMk mask) 17#5) = _
  cases mask <;>
    exact decode24 (packV_26_6 ..) (by simp [fields24, maskMe, maskMk, maskWordOk]) (by simp [pick24, maskMe, maskMk, maskOf])

theorem vmaxn : ∀ k d s t a b mask, Statement (.vmaxn k d s t a b mask) := by
  intro k d s t a b mask w _
  show decode (packV 0x24#6 (BitVec.ofBool k) d s t (BitVec.ofBool a) (BitVec.ofBool b) (maskMe mask) (maskMk mask) 18#5) = _
  cases mask <;>
    exact decode24 (packV_26_6 ..) (by simp [fields24, maskMe, maskMk, maskWordOk]) (by simp [pick24, maskMe, maskMk, maskOf])

theorem vmaccVV : ∀ k d s t a b mask, Statement (.vmaccVV k d s t a b mask) := by
  intro k d s t a b mask w _
  show decode (packV 0x24#6 (BitVec.ofBool k) d s t (BitVec.ofBool a) (BitVec.ofBool b) (maskMe mask) (maskMk mask) 19#5) = _
  cases mask <;>
    exact decode24 (packV_26_6 ..) (by simp [fields24, maskMe, maskMk, maskWordOk]) (by simp [pick24, maskMe, maskMk, maskOf])

theorem vwadd : ∀ k d s t a b mask, Statement (.vwadd k d s t a b mask) := by
  intro k d s t a b mask w _
  show decode (packV 0x24#6 (BitVec.ofBool k) d s t (BitVec.ofBool a) (BitVec.ofBool b) (maskMe mask) (maskMk mask) 20#5) = _
  cases mask <;>
    exact decode24 (packV_26_6 ..) (by simp [fields24, maskMe, maskMk, maskWordOk]) (by simp [pick24, maskMe, maskMk, maskOf])

theorem vwmul : ∀ k d s t a b mask, Statement (.vwmul k d s t a b mask) := by
  intro k d s t a b mask w _
  show decode (packV 0x24#6 (BitVec.ofBool k) d s t (BitVec.ofBool a) (BitVec.ofBool b) (maskMe mask) (maskMk mask) 21#5) = _
  cases mask <;>
    exact decode24 (packV_26_6 ..) (by simp [fields24, maskMe, maskMk, maskWordOk]) (by simp [pick24, maskMe, maskMk, maskOf])

theorem vwmacc : ∀ k d s t a b mask, Statement (.vwmacc k d s t a b mask) := by
  intro k d s t a b mask w _
  show decode (packV 0x24#6 (BitVec.ofBool k) d s t (BitVec.ofBool a) (BitVec.ofBool b) (maskMe mask) (maskMk mask) 22#5) = _
  cases mask <;>
    exact decode24 (packV_26_6 ..) (by simp [fields24, maskMe, maskMk, maskWordOk]) (by simp [pick24, maskMe, maskMk, maskOf])

theorem vnsra : ∀ k d s t a b mask, Statement (.vnsra k d s t a b mask) := by
  intro k d s t a b mask w _
  show decode (packV 0x24#6 (BitVec.ofBool k) d s t (BitVec.ofBool a) (BitVec.ofBool b) (maskMe mask) (maskMk mask) 23#5) = _
  cases mask <;>
    exact decode24 (packV_26_6 ..) (by simp [fields24, maskMe, maskMk, maskWordOk]) (by simp [pick24, maskMe, maskMk, maskOf])

theorem vsadd : ∀ k d s t a b mask, Statement (.vsadd k d s t a b mask) := by
  intro k d s t a b mask w _
  show decode (packV 0x24#6 (BitVec.ofBool k) d s t (BitVec.ofBool a) (BitVec.ofBool b) (maskMe mask) (maskMk mask) 24#5) = _
  cases mask <;>
    exact decode24 (packV_26_6 ..) (by simp [fields24, maskMe, maskMk, maskWordOk]) (by simp [pick24, maskMe, maskMk, maskOf])

theorem vssub : ∀ k d s t a b mask, Statement (.vssub k d s t a b mask) := by
  intro k d s t a b mask w _
  show decode (packV 0x24#6 (BitVec.ofBool k) d s t (BitVec.ofBool a) (BitVec.ofBool b) (maskMe mask) (maskMk mask) 25#5) = _
  cases mask <;>
    exact decode24 (packV_26_6 ..) (by simp [fields24, maskMe, maskMk, maskWordOk]) (by simp [pick24, maskMe, maskMk, maskOf])

theorem vaddVX : ∀ k d x t b mask, Statement (.vaddVX k d x t b mask) := by
  intro k d x t b mask w _
  show decode (packV 0x25#6 (BitVec.ofBool k) d x t 0#1 (BitVec.ofBool b) (maskMe mask) (maskMk mask) 0#5) = _
  cases mask <;>
    exact decode25 (packV_26_6 ..) (by simp [fields25, maskMe, maskMk, maskWordOk]) (by simp [pick25, maskMe, maskMk, maskOf])

theorem vsubVX : ∀ k d x t b mask, Statement (.vsubVX k d x t b mask) := by
  intro k d x t b mask w _
  show decode (packV 0x25#6 (BitVec.ofBool k) d x t 0#1 (BitVec.ofBool b) (maskMe mask) (maskMk mask) 1#5) = _
  cases mask <;>
    exact decode25 (packV_26_6 ..) (by simp [fields25, maskMe, maskMk, maskWordOk]) (by simp [pick25, maskMe, maskMk, maskOf])

theorem vmulVX : ∀ k d x t b mask, Statement (.vmulVX k d x t b mask) := by
  intro k d x t b mask w _
  show decode (packV 0x25#6 (BitVec.ofBool k) d x t 0#1 (BitVec.ofBool b) (maskMe mask) (maskMk mask) 2#5) = _
  cases mask <;>
    exact decode25 (packV_26_6 ..) (by simp [fields25, maskMe, maskMk, maskWordOk]) (by simp [pick25, maskMe, maskMk, maskOf])

theorem vandVX : ∀ k d x t b mask, Statement (.vandVX k d x t b mask) := by
  intro k d x t b mask w _
  show decode (packV 0x25#6 (BitVec.ofBool k) d x t 0#1 (BitVec.ofBool b) (maskMe mask) (maskMk mask) 3#5) = _
  cases mask <;>
    exact decode25 (packV_26_6 ..) (by simp [fields25, maskMe, maskMk, maskWordOk]) (by simp [pick25, maskMe, maskMk, maskOf])

theorem vorVX : ∀ k d x t b mask, Statement (.vorVX k d x t b mask) := by
  intro k d x t b mask w _
  show decode (packV 0x25#6 (BitVec.ofBool k) d x t 0#1 (BitVec.ofBool b) (maskMe mask) (maskMk mask) 4#5) = _
  cases mask <;>
    exact decode25 (packV_26_6 ..) (by simp [fields25, maskMe, maskMk, maskWordOk]) (by simp [pick25, maskMe, maskMk, maskOf])

theorem vxorVX : ∀ k d x t b mask, Statement (.vxorVX k d x t b mask) := by
  intro k d x t b mask w _
  show decode (packV 0x25#6 (BitVec.ofBool k) d x t 0#1 (BitVec.ofBool b) (maskMe mask) (maskMk mask) 5#5) = _
  cases mask <;>
    exact decode25 (packV_26_6 ..) (by simp [fields25, maskMe, maskMk, maskWordOk]) (by simp [pick25, maskMe, maskMk, maskOf])

theorem vsllVX : ∀ k d x t b mask, Statement (.vsllVX k d x t b mask) := by
  intro k d x t b mask w _
  show decode (packV 0x25#6 (BitVec.ofBool k) d x t 0#1 (BitVec.ofBool b) (maskMe mask) (maskMk mask) 6#5) = _
  cases mask <;>
    exact decode25 (packV_26_6 ..) (by simp [fields25, maskMe, maskMk, maskWordOk]) (by simp [pick25, maskMe, maskMk, maskOf])

theorem vsrlVX : ∀ k d x t b mask, Statement (.vsrlVX k d x t b mask) := by
  intro k d x t b mask w _
  show decode (packV 0x25#6 (BitVec.ofBool k) d x t 0#1 (BitVec.ofBool b) (maskMe mask) (maskMk mask) 7#5) = _
  cases mask <;>
    exact decode25 (packV_26_6 ..) (by simp [fields25, maskMe, maskMk, maskWordOk]) (by simp [pick25, maskMe, maskMk, maskOf])

theorem vsraVX : ∀ k d x t b mask, Statement (.vsraVX k d x t b mask) := by
  intro k d x t b mask w _
  show decode (packV 0x25#6 (BitVec.ofBool k) d x t 0#1 (BitVec.ofBool b) (maskMe mask) (maskMk mask) 8#5) = _
  cases mask <;>
    exact decode25 (packV_26_6 ..) (by simp [fields25, maskMe, maskMk, maskWordOk]) (by simp [pick25, maskMe, maskMk, maskOf])

theorem vminVX : ∀ k d x t b mask, Statement (.vminVX k d x t b mask) := by
  intro k d x t b mask w _
  show decode (packV 0x25#6 (BitVec.ofBool k) d x t 0#1 (BitVec.ofBool b) (maskMe mask) (maskMk mask) 9#5) = _
  cases mask <;>
    exact decode25 (packV_26_6 ..) (by simp [fields25, maskMe, maskMk, maskWordOk]) (by simp [pick25, maskMe, maskMk, maskOf])

theorem vmaxVX : ∀ k d x t b mask, Statement (.vmaxVX k d x t b mask) := by
  intro k d x t b mask w _
  show decode (packV 0x25#6 (BitVec.ofBool k) d x t 0#1 (BitVec.ofBool b) (maskMe mask) (maskMk mask) 10#5) = _
  cases mask <;>
    exact decode25 (packV_26_6 ..) (by simp [fields25, maskMe, maskMk, maskWordOk]) (by simp [pick25, maskMe, maskMk, maskOf])

theorem vmaccVX : ∀ k d x t b mask, Statement (.vmaccVX k d x t b mask) := by
  intro k d x t b mask w _
  show decode (packV 0x25#6 (BitVec.ofBool k) d x t 0#1 (BitVec.ofBool b) (maskMe mask) (maskMk mask) 11#5) = _
  cases mask <;>
    exact decode25 (packV_26_6 ..) (by simp [fields25, maskMe, maskMk, maskWordOk]) (by simp [pick25, maskMe, maskMk, maskOf])

theorem vaddVI : ∀ k d i t b mask, Statement (.vaddVI k d i t b mask) := by
  intro k d i t b mask w _
  show decode (packV 0x26#6 (BitVec.ofBool k) d i t 0#1 (BitVec.ofBool b) (maskMe mask) (maskMk mask) 0#5) = _
  cases mask <;>
    exact decode26 (packV_26_6 ..) (by simp [fields26, maskMe, maskMk, maskWordOk]) (by simp [pick26, maskMe, maskMk, maskOf])

theorem vandVI : ∀ k d i t b mask, Statement (.vandVI k d i t b mask) := by
  intro k d i t b mask w _
  show decode (packV 0x26#6 (BitVec.ofBool k) d i t 0#1 (BitVec.ofBool b) (maskMe mask) (maskMk mask) 1#5) = _
  cases mask <;>
    exact decode26 (packV_26_6 ..) (by simp [fields26, maskMe, maskMk, maskWordOk]) (by simp [pick26, maskMe, maskMk, maskOf])

theorem vorVI : ∀ k d i t b mask, Statement (.vorVI k d i t b mask) := by
  intro k d i t b mask w _
  show decode (packV 0x26#6 (BitVec.ofBool k) d i t 0#1 (BitVec.ofBool b) (maskMe mask) (maskMk mask) 2#5) = _
  cases mask <;>
    exact decode26 (packV_26_6 ..) (by simp [fields26, maskMe, maskMk, maskWordOk]) (by simp [pick26, maskMe, maskMk, maskOf])

theorem vxorVI : ∀ k d i t b mask, Statement (.vxorVI k d i t b mask) := by
  intro k d i t b mask w _
  show decode (packV 0x26#6 (BitVec.ofBool k) d i t 0#1 (BitVec.ofBool b) (maskMe mask) (maskMk mask) 3#5) = _
  cases mask <;>
    exact decode26 (packV_26_6 ..) (by simp [fields26, maskMe, maskMk, maskWordOk]) (by simp [pick26, maskMe, maskMk, maskOf])

theorem vsllVI : ∀ k d i t b mask, Statement (.vsllVI k d i t b mask) := by
  intro k d i t b mask w _
  show decode (packV 0x26#6 (BitVec.ofBool k) d i t 0#1 (BitVec.ofBool b) (maskMe mask) (maskMk mask) 4#5) = _
  cases mask <;>
    exact decode26 (packV_26_6 ..) (by simp [fields26, maskMe, maskMk, maskWordOk]) (by simp [pick26, maskMe, maskMk, maskOf])

theorem vsrlVI : ∀ k d i t b mask, Statement (.vsrlVI k d i t b mask) := by
  intro k d i t b mask w _
  show decode (packV 0x26#6 (BitVec.ofBool k) d i t 0#1 (BitVec.ofBool b) (maskMe mask) (maskMk mask) 5#5) = _
  cases mask <;>
    exact decode26 (packV_26_6 ..) (by simp [fields26, maskMe, maskMk, maskWordOk]) (by simp [pick26, maskMe, maskMk, maskOf])

theorem vsraVI : ∀ k d i t b mask, Statement (.vsraVI k d i t b mask) := by
  intro k d i t b mask w _
  show decode (packV 0x26#6 (BitVec.ofBool k) d i t 0#1 (BitVec.ofBool b) (maskMe mask) (maskMk mask) 6#5) = _
  cases mask <;>
    exact decode26 (packV_26_6 ..) (by simp [fields26, maskMe, maskMk, maskWordOk]) (by simp [pick26, maskMe, maskMk, maskOf])

theorem vfaddVV : ∀ k d s t a b mask, Statement (.vfaddVV k d s t a b mask) := by
  intro k d s t a b mask w _
  show decode (packV 0x27#6 (BitVec.ofBool k) d s t (BitVec.ofBool a) (BitVec.ofBool b) (maskMe mask) (maskMk mask) 0#5) = _
  cases mask <;>
    exact decode27 (packV_26_6 ..) (by simp [fields27, maskMe, maskMk, maskWordOk]) (by simp [pick27, maskMe, maskMk, maskOf])

theorem vfsubVV : ∀ k d s t a b mask, Statement (.vfsubVV k d s t a b mask) := by
  intro k d s t a b mask w _
  show decode (packV 0x27#6 (BitVec.ofBool k) d s t (BitVec.ofBool a) (BitVec.ofBool b) (maskMe mask) (maskMk mask) 1#5) = _
  cases mask <;>
    exact decode27 (packV_26_6 ..) (by simp [fields27, maskMe, maskMk, maskWordOk]) (by simp [pick27, maskMe, maskMk, maskOf])

theorem vfmulVV : ∀ k d s t a b mask, Statement (.vfmulVV k d s t a b mask) := by
  intro k d s t a b mask w _
  show decode (packV 0x27#6 (BitVec.ofBool k) d s t (BitVec.ofBool a) (BitVec.ofBool b) (maskMe mask) (maskMk mask) 2#5) = _
  cases mask <;>
    exact decode27 (packV_26_6 ..) (by simp [fields27, maskMe, maskMk, maskWordOk]) (by simp [pick27, maskMe, maskMk, maskOf])

theorem vfdiv : ∀ k d s t a b mask, Statement (.vfdiv k d s t a b mask) := by
  intro k d s t a b mask w _
  show decode (packV 0x27#6 (BitVec.ofBool k) d s t (BitVec.ofBool a) (BitVec.ofBool b) (maskMe mask) (maskMk mask) 3#5) = _
  cases mask <;>
    exact decode27 (packV_26_6 ..) (by simp [fields27, maskMe, maskMk, maskWordOk]) (by simp [pick27, maskMe, maskMk, maskOf])

theorem vfsqrt : ∀ k d t b mask, Statement (.vfsqrt k d t b mask) := by
  intro k d t b mask w _
  show decode (packV 0x27#6 (BitVec.ofBool k) d 0#5 t 0#1 (BitVec.ofBool b) (maskMe mask) (maskMk mask) 4#5) = _
  cases mask <;>
    exact decode27 (packV_26_6 ..) (by simp [fields27, maskMe, maskMk, maskWordOk]) (by simp [pick27, maskMe, maskMk, maskOf])

theorem vfminVV : ∀ k d s t a b mask, Statement (.vfminVV k d s t a b mask) := by
  intro k d s t a b mask w _
  show decode (packV 0x27#6 (BitVec.ofBool k) d s t (BitVec.ofBool a) (BitVec.ofBool b) (maskMe mask) (maskMk mask) 5#5) = _
  cases mask <;>
    exact decode27 (packV_26_6 ..) (by simp [fields27, maskMe, maskMk, maskWordOk]) (by simp [pick27, maskMe, maskMk, maskOf])

theorem vfmaxVV : ∀ k d s t a b mask, Statement (.vfmaxVV k d s t a b mask) := by
  intro k d s t a b mask w _
  show decode (packV 0x27#6 (BitVec.ofBool k) d s t (BitVec.ofBool a) (BitVec.ofBool b) (maskMe mask) (maskMk mask) 6#5) = _
  cases mask <;>
    exact decode27 (packV_26_6 ..) (by simp [fields27, maskMe, maskMk, maskWordOk]) (by simp [pick27, maskMe, maskMk, maskOf])

theorem vfmaccVV : ∀ k d s t a b mask, Statement (.vfmaccVV k d s t a b mask) := by
  intro k d s t a b mask w _
  show decode (packV 0x27#6 (BitVec.ofBool k) d s t (BitVec.ofBool a) (BitVec.ofBool b) (maskMe mask) (maskMk mask) 7#5) = _
  cases mask <;>
    exact decode27 (packV_26_6 ..) (by simp [fields27, maskMe, maskMk, maskWordOk]) (by simp [pick27, maskMe, maskMk, maskOf])

theorem vfsubm : ∀ k d s t a b mask, Statement (.vfsubm k d s t a b mask) := by
  intro k d s t a b mask w _
  show decode (packV 0x27#6 (BitVec.ofBool k) d s t (BitVec.ofBool a) (BitVec.ofBool b) (maskMe mask) (maskMk mask) 8#5) = _
  cases mask <;>
    exact decode27 (packV_26_6 ..) (by simp [fields27, maskMe, maskMk, maskWordOk]) (by simp [pick27, maskMe, maskMk, maskOf])

theorem vfwadd : ∀ k d s t a b mask, Statement (.vfwadd k d s t a b mask) := by
  intro k d s t a b mask w _
  show decode (packV 0x27#6 (BitVec.ofBool k) d s t (BitVec.ofBool a) (BitVec.ofBool b) (maskMe mask) (maskMk mask) 9#5) = _
  cases mask <;>
    exact decode27 (packV_26_6 ..) (by simp [fields27, maskMe, maskMk, maskWordOk]) (by simp [pick27, maskMe, maskMk, maskOf])

theorem vfwmul : ∀ k d s t a b mask, Statement (.vfwmul k d s t a b mask) := by
  intro k d s t a b mask w _
  show decode (packV 0x27#6 (BitVec.ofBool k) d s t (BitVec.ofBool a) (BitVec.ofBool b) (maskMe mask) (maskMk mask) 10#5) = _
  cases mask <;>
    exact decode27 (packV_26_6 ..) (by simp [fields27, maskMe, maskMk, maskWordOk]) (by simp [pick27, maskMe, maskMk, maskOf])

theorem vfwmacc : ∀ k d s t a b mask, Statement (.vfwmacc k d s t a b mask) := by
  intro k d s t a b mask w _
  show decode (packV 0x27#6 (BitVec.ofBool k) d s t (BitVec.ofBool a) (BitVec.ofBool b) (maskMe mask) (maskMk mask) 11#5) = _
  cases mask <;>
    exact decode27 (packV_26_6 ..) (by simp [fields27, maskMe, maskMk, maskWordOk]) (by simp [pick27, maskMe, maskMk, maskOf])

theorem vfexp : ∀ k d t b mask, Statement (.vfexp k d t b mask) := by
  intro k d t b mask w _
  show decode (packV 0x27#6 (BitVec.ofBool k) d 0#5 t 0#1 (BitVec.ofBool b) (maskMe mask) (maskMk mask) 12#5) = _
  cases mask <;>
    exact decode27 (packV_26_6 ..) (by simp [fields27, maskMe, maskMk, maskWordOk]) (by simp [pick27, maskMe, maskMk, maskOf])

theorem vflog : ∀ k d t b mask, Statement (.vflog k d t b mask) := by
  intro k d t b mask w _
  show decode (packV 0x27#6 (BitVec.ofBool k) d 0#5 t 0#1 (BitVec.ofBool b) (maskMe mask) (maskMk mask) 13#5) = _
  cases mask <;>
    exact decode27 (packV_26_6 ..) (by simp [fields27, maskMe, maskMk, maskWordOk]) (by simp [pick27, maskMe, maskMk, maskOf])

theorem vfrec : ∀ k d t b mask, Statement (.vfrec k d t b mask) := by
  intro k d t b mask w _
  show decode (packV 0x27#6 (BitVec.ofBool k) d 0#5 t 0#1 (BitVec.ofBool b) (maskMe mask) (maskMk mask) 14#5) = _
  cases mask <;>
    exact decode27 (packV_26_6 ..) (by simp [fields27, maskMe, maskMk, maskWordOk]) (by simp [pick27, maskMe, maskMk, maskOf])

theorem vfrsq : ∀ k d t b mask, Statement (.vfrsq k d t b mask) := by
  intro k d t b mask w _
  show decode (packV 0x27#6 (BitVec.ofBool k) d 0#5 t 0#1 (BitVec.ofBool b) (maskMe mask) (maskMk mask) 15#5) = _
  cases mask <;>
    exact decode27 (packV_26_6 ..) (by simp [fields27, maskMe, maskMk, maskWordOk]) (by simp [pick27, maskMe, maskMk, maskOf])

theorem vfcsgn : ∀ k d s t a b mask, Statement (.vfcsgn k d s t a b mask) := by
  intro k d s t a b mask w _
  show decode (packV 0x27#6 (BitVec.ofBool k) d s t (BitVec.ofBool a) (BitVec.ofBool b) (maskMe mask) (maskMk mask) 16#5) = _
  cases mask <;>
    exact decode27 (packV_26_6 ..) (by simp [fields27, maskMe, maskMk, maskWordOk]) (by simp [pick27, maskMe, maskMk, maskOf])

theorem vfkind : ∀ k d t b mask, Statement (.vfkind k d t b mask) := by
  intro k d t b mask w _
  show decode (packV 0x27#6 (BitVec.ofBool k) d 0#5 t 0#1 (BitVec.ofBool b) (maskMe mask) (maskMk mask) 17#5) = _
  cases mask <;>
    exact decode27 (packV_26_6 ..) (by simp [fields27, maskMe, maskMk, maskWordOk]) (by simp [pick27, maskMe, maskMk, maskOf])

theorem vfaddVX : ∀ k d x t b mask, Statement (.vfaddVX k d x t b mask) := by
  intro k d x t b mask w _
  show decode (packV 0x28#6 (BitVec.ofBool k) d x t 0#1 (BitVec.ofBool b) (maskMe mask) (maskMk mask) 0#5) = _
  cases mask <;>
    exact decode28 (packV_26_6 ..) (by simp [fields28, maskMe, maskMk, maskWordOk]) (by simp [pick28, maskMe, maskMk, maskOf])

theorem vfsubVX : ∀ k d x t b mask, Statement (.vfsubVX k d x t b mask) := by
  intro k d x t b mask w _
  show decode (packV 0x28#6 (BitVec.ofBool k) d x t 0#1 (BitVec.ofBool b) (maskMe mask) (maskMk mask) 1#5) = _
  cases mask <;>
    exact decode28 (packV_26_6 ..) (by simp [fields28, maskMe, maskMk, maskWordOk]) (by simp [pick28, maskMe, maskMk, maskOf])

theorem vfmulVX : ∀ k d x t b mask, Statement (.vfmulVX k d x t b mask) := by
  intro k d x t b mask w _
  show decode (packV 0x28#6 (BitVec.ofBool k) d x t 0#1 (BitVec.ofBool b) (maskMe mask) (maskMk mask) 2#5) = _
  cases mask <;>
    exact decode28 (packV_26_6 ..) (by simp [fields28, maskMe, maskMk, maskWordOk]) (by simp [pick28, maskMe, maskMk, maskOf])

theorem vfmaccVX : ∀ k d x t b mask, Statement (.vfmaccVX k d x t b mask) := by
  intro k d x t b mask w _
  show decode (packV 0x28#6 (BitVec.ofBool k) d x t 0#1 (BitVec.ofBool b) (maskMe mask) (maskMk mask) 3#5) = _
  cases mask <;>
    exact decode28 (packV_26_6 ..) (by simp [fields28, maskMe, maskMk, maskWordOk]) (by simp [pick28, maskMe, maskMk, maskOf])

theorem vfminVX : ∀ k d x t b mask, Statement (.vfminVX k d x t b mask) := by
  intro k d x t b mask w _
  show decode (packV 0x28#6 (BitVec.ofBool k) d x t 0#1 (BitVec.ofBool b) (maskMe mask) (maskMk mask) 4#5) = _
  cases mask <;>
    exact decode28 (packV_26_6 ..) (by simp [fields28, maskMe, maskMk, maskWordOk]) (by simp [pick28, maskMe, maskMk, maskOf])

theorem vfmaxVX : ∀ k d x t b mask, Statement (.vfmaxVX k d x t b mask) := by
  intro k d x t b mask w _
  show decode (packV 0x28#6 (BitVec.ofBool k) d x t 0#1 (BitVec.ofBool b) (maskMe mask) (maskMk mask) 5#5) = _
  cases mask <;>
    exact decode28 (packV_26_6 ..) (by simp [fields28, maskMe, maskMk, maskWordOk]) (by simp [pick28, maskMe, maskMk, maskOf])

theorem vfcvtW : ∀ k d y t b mask, Statement (.vfcvtW k d y t b mask) := by
  intro k d y t b mask w _
  show decode (packV 0x29#6 (BitVec.ofBool k) d y t 0#1 (BitVec.ofBool b) (maskMe mask) (maskMk mask) 0#5) = _
  cases mask <;>
    exact decode29 (packV_26_6 ..) (by simp [fields29, maskMe, maskMk, maskWordOk]) (by simp [pick29, maskMe, maskMk, maskOf])

theorem vfcvtN : ∀ k d y t b mask, Statement (.vfcvtN k d y t b mask) := by
  intro k d y t b mask w _
  show decode (packV 0x29#6 (BitVec.ofBool k) d y t 0#1 (BitVec.ofBool b) (maskMe mask) (maskMk mask) 1#5) = _
  cases mask <;>
    exact decode29 (packV_26_6 ..) (by simp [fields29, maskMe, maskMk, maskWordOk]) (by simp [pick29, maskMe, maskMk, maskOf])

theorem vfcvtFi : ∀ k d y t b mask, Statement (.vfcvtFi k d y t b mask) := by
  intro k d y t b mask w _
  show decode (packV 0x29#6 (BitVec.ofBool k) d y t 0#1 (BitVec.ofBool b) (maskMe mask) (maskMk mask) 2#5) = _
  cases mask <;>
    exact decode29 (packV_26_6 ..) (by simp [fields29, maskMe, maskMk, maskWordOk]) (by simp [pick29, maskMe, maskMk, maskOf])

theorem vfcvtIf : ∀ k d y t b mask, Statement (.vfcvtIf k d y t b mask) := by
  intro k d y t b mask w _
  show decode (packV 0x29#6 (BitVec.ofBool k) d y t 0#1 (BitVec.ofBool b) (maskMe mask) (maskMk mask) 3#5) = _
  cases mask <;>
    exact decode29 (packV_26_6 ..) (by simp [fields29, maskMe, maskMk, maskWordOk]) (by simp [pick29, maskMe, maskMk, maskOf])

theorem vcvtI : ∀ k d y t r b mask, Statement (.vcvtI k d y t r b mask) := by
  intro k d y t r b mask w _
  show decode (packV 0x29#6 (BitVec.ofBool k) d y t (BitVec.ofBool r) (BitVec.ofBool b) (maskMe mask) (maskMk mask) 4#5) = _
  cases mask <;>
    exact decode29 (packV_26_6 ..) (by simp [fields29, maskMe, maskMk, maskWordOk]) (by simp [pick29, maskMe, maskMk, maskOf])

theorem vcvtq : ∀ k d y t b mask, Statement (.vcvtq k d y t b mask) := by
  intro k d y t b mask w _
  show decode (packV 0x29#6 (BitVec.ofBool k) d y t 0#1 (BitVec.ofBool b) (maskMe mask) (maskMk mask) 5#5) = _
  cases mask <;>
    exact decode29 (packV_26_6 ..) (by simp [fields29, maskMe, maskMk, maskWordOk]) (by simp [pick29, maskMe, maskMk, maskOf])

theorem vdeq : ∀ k d y t b mask, Statement (.vdeq k d y t b mask) := by
  intro k d y t b mask w _
  show decode (packV 0x29#6 (BitVec.ofBool k) d y t 0#1 (BitVec.ofBool b) (maskMe mask) (maskMk mask) 6#5) = _
  cases mask <;>
    exact decode29 (packV_26_6 ..) (by simp [fields29, maskMe, maskMk, maskWordOk]) (by simp [pick29, maskMe, maskMk, maskOf])

theorem vredsum : ∀ k d s t a b mask, Statement (.vredsum k d s t a b mask) := by
  intro k d s t a b mask w _
  show decode (packV 0x2a#6 (BitVec.ofBool k) d s t (BitVec.ofBool a) (BitVec.ofBool b) (maskMe mask) (maskMk mask) 0#5) = _
  cases mask <;>
    exact decode2A (packV_26_6 ..) (by simp [fields2A, maskMe, maskMk, maskWordOk]) (by simp [pick2A, maskMe, maskMk, maskOf])

theorem vredmax : ∀ k d s t a b mask, Statement (.vredmax k d s t a b mask) := by
  intro k d s t a b mask w _
  show decode (packV 0x2a#6 (BitVec.ofBool k) d s t (BitVec.ofBool a) (BitVec.ofBool b) (maskMe mask) (maskMk mask) 1#5) = _
  cases mask <;>
    exact decode2A (packV_26_6 ..) (by simp [fields2A, maskMe, maskMk, maskWordOk]) (by simp [pick2A, maskMe, maskMk, maskOf])

theorem vredmin : ∀ k d s t a b mask, Statement (.vredmin k d s t a b mask) := by
  intro k d s t a b mask w _
  show decode (packV 0x2a#6 (BitVec.ofBool k) d s t (BitVec.ofBool a) (BitVec.ofBool b) (maskMe mask) (maskMk mask) 2#5) = _
  cases mask <;>
    exact decode2A (packV_26_6 ..) (by simp [fields2A, maskMe, maskMk, maskWordOk]) (by simp [pick2A, maskMe, maskMk, maskOf])

theorem vredmaxn : ∀ k d s t a b mask, Statement (.vredmaxn k d s t a b mask) := by
  intro k d s t a b mask w _
  show decode (packV 0x2a#6 (BitVec.ofBool k) d s t (BitVec.ofBool a) (BitVec.ofBool b) (maskMe mask) (maskMk mask) 3#5) = _
  cases mask <;>
    exact decode2A (packV_26_6 ..) (by simp [fields2A, maskMe, maskMk, maskWordOk]) (by simp [pick2A, maskMe, maskMk, maskOf])

theorem vredminn : ∀ k d s t a b mask, Statement (.vredminn k d s t a b mask) := by
  intro k d s t a b mask w _
  show decode (packV 0x2a#6 (BitVec.ofBool k) d s t (BitVec.ofBool a) (BitVec.ofBool b) (maskMe mask) (maskMk mask) 4#5) = _
  cases mask <;>
    exact decode2A (packV_26_6 ..) (by simp [fields2A, maskMe, maskMk, maskWordOk]) (by simp [pick2A, maskMe, maskMk, maskOf])

theorem vredand : ∀ k d s t a b mask, Statement (.vredand k d s t a b mask) := by
  intro k d s t a b mask w _
  show decode (packV 0x2a#6 (BitVec.ofBool k) d s t (BitVec.ofBool a) (BitVec.ofBool b) (maskMe mask) (maskMk mask) 5#5) = _
  cases mask <;>
    exact decode2A (packV_26_6 ..) (by simp [fields2A, maskMe, maskMk, maskWordOk]) (by simp [pick2A, maskMe, maskMk, maskOf])

theorem vredor : ∀ k d s t a b mask, Statement (.vredor k d s t a b mask) := by
  intro k d s t a b mask w _
  show decode (packV 0x2a#6 (BitVec.ofBool k) d s t (BitVec.ofBool a) (BitVec.ofBool b) (maskMe mask) (maskMk mask) 6#5) = _
  cases mask <;>
    exact decode2A (packV_26_6 ..) (by simp [fields2A, maskMe, maskMk, maskWordOk]) (by simp [pick2A, maskMe, maskMk, maskOf])

theorem vfredsum : ∀ k d s t a b mask, Statement (.vfredsum k d s t a b mask) := by
  intro k d s t a b mask w _
  show decode (packV 0x2a#6 (BitVec.ofBool k) d s t (BitVec.ofBool a) (BitVec.ofBool b) (maskMe mask) (maskMk mask) 7#5) = _
  cases mask <;>
    exact decode2A (packV_26_6 ..) (by simp [fields2A, maskMe, maskMk, maskWordOk]) (by simp [pick2A, maskMe, maskMk, maskOf])

theorem vfredosum : ∀ k d s t a b mask, Statement (.vfredosum k d s t a b mask) := by
  intro k d s t a b mask w _
  show decode (packV 0x2a#6 (BitVec.ofBool k) d s t (BitVec.ofBool a) (BitVec.ofBool b) (maskMe mask) (maskMk mask) 8#5) = _
  cases mask <;>
    exact decode2A (packV_26_6 ..) (by simp [fields2A, maskMe, maskMk, maskWordOk]) (by simp [pick2A, maskMe, maskMk, maskOf])

theorem vfredmax : ∀ k d s t a b mask, Statement (.vfredmax k d s t a b mask) := by
  intro k d s t a b mask w _
  show decode (packV 0x2a#6 (BitVec.ofBool k) d s t (BitVec.ofBool a) (BitVec.ofBool b) (maskMe mask) (maskMk mask) 9#5) = _
  cases mask <;>
    exact decode2A (packV_26_6 ..) (by simp [fields2A, maskMe, maskMk, maskWordOk]) (by simp [pick2A, maskMe, maskMk, maskOf])

theorem vfredmin : ∀ k d s t a b mask, Statement (.vfredmin k d s t a b mask) := by
  intro k d s t a b mask w _
  show decode (packV 0x2a#6 (BitVec.ofBool k) d s t (BitVec.ofBool a) (BitVec.ofBool b) (maskMe mask) (maskMk mask) 10#5) = _
  cases mask <;>
    exact decode2A (packV_26_6 ..) (by simp [fields2A, maskMe, maskMk, maskWordOk]) (by simp [pick2A, maskMe, maskMk, maskOf])

theorem vfwredsum : ∀ k d s t a b mask, Statement (.vfwredsum k d s t a b mask) := by
  intro k d s t a b mask w _
  show decode (packV 0x2a#6 (BitVec.ofBool k) d s t (BitVec.ofBool a) (BitVec.ofBool b) (maskMe mask) (maskMk mask) 11#5) = _
  cases mask <;>
    exact decode2A (packV_26_6 ..) (by simp [fields2A, maskMe, maskMk, maskWordOk]) (by simp [pick2A, maskMe, maskMk, maskOf])

theorem vfwredosum : ∀ k d s t a b mask, Statement (.vfwredosum k d s t a b mask) := by
  intro k d s t a b mask w _
  show decode (packV 0x2a#6 (BitVec.ofBool k) d s t (BitVec.ofBool a) (BitVec.ofBool b) (maskMe mask) (maskMk mask) 12#5) = _
  cases mask <;>
    exact decode2A (packV_26_6 ..) (by simp [fields2A, maskMe, maskMk, maskWordOk]) (by simp [pick2A, maskMe, maskMk, maskOf])

theorem vslup : ∀ k d x t b mask, Statement (.vslup k d x t b mask) := by
  intro k d x t b mask w _
  show decode (packV 0x2b#6 (BitVec.ofBool k) d x t 0#1 (BitVec.ofBool b) (maskMe mask) (maskMk mask) 0#5) = _
  cases mask <;>
    exact decode2B (packV_26_6 ..) (by simp [fields2B, maskMe, maskMk, maskWordOk]) (by simp [pick2B, maskMe, maskMk, maskOf])

theorem vsldn : ∀ k d x t b mask, Statement (.vsldn k d x t b mask) := by
  intro k d x t b mask w _
  show decode (packV 0x2b#6 (BitVec.ofBool k) d x t 0#1 (BitVec.ofBool b) (maskMe mask) (maskMk mask) 1#5) = _
  cases mask <;>
    exact decode2B (packV_26_6 ..) (by simp [fields2B, maskMe, maskMk, maskWordOk]) (by simp [pick2B, maskMe, maskMk, maskOf])

theorem vsl1up : ∀ k d x t b mask, Statement (.vsl1up k d x t b mask) := by
  intro k d x t b mask w _
  show decode (packV 0x2b#6 (BitVec.ofBool k) d x t 0#1 (BitVec.ofBool b) (maskMe mask) (maskMk mask) 2#5) = _
  cases mask <;>
    exact decode2B (packV_26_6 ..) (by simp [fields2B, maskMe, maskMk, maskWordOk]) (by simp [pick2B, maskMe, maskMk, maskOf])

theorem vsl1dn : ∀ k d x t b mask, Statement (.vsl1dn k d x t b mask) := by
  intro k d x t b mask w _
  show decode (packV 0x2b#6 (BitVec.ofBool k) d x t 0#1 (BitVec.ofBool b) (maskMe mask) (maskMk mask) 3#5) = _
  cases mask <;>
    exact decode2B (packV_26_6 ..) (by simp [fields2B, maskMe, maskMk, maskWordOk]) (by simp [pick2B, maskMe, maskMk, maskOf])

theorem vpull : ∀ k d s t a b mask, Statement (.vpull k d s t a b mask) := by
  intro k d s t a b mask w _
  show decode (packV 0x2b#6 (BitVec.ofBool k) d s t (BitVec.ofBool a) (BitVec.ofBool b) (maskMe mask) (maskMk mask) 4#5) = _
  cases mask <;>
    exact decode2B (packV_26_6 ..) (by simp [fields2B, maskMe, maskMk, maskWordOk]) (by simp [pick2B, maskMe, maskMk, maskOf])

theorem vpush : ∀ k d s t a b mask, Statement (.vpush k d s t a b mask) := by
  intro k d s t a b mask w _
  show decode (packV 0x2b#6 (BitVec.ofBool k) d s t (BitVec.ofBool a) (BitVec.ofBool b) (maskMe mask) (maskMk mask) 5#5) = _
  cases mask <;>
    exact decode2B (packV_26_6 ..) (by simp [fields2B, maskMe, maskMk, maskWordOk]) (by simp [pick2B, maskMe, maskMk, maskOf])

theorem vcomp : ∀ k d t b mask, Statement (.vcomp k d t b mask) := by
  intro k d t b mask w _
  show decode (packV 0x2b#6 (BitVec.ofBool k) d 0#5 t 0#1 (BitVec.ofBool b) (maskMe mask) (maskMk mask) 6#5) = _
  cases mask <;>
    exact decode2B (packV_26_6 ..) (by simp [fields2B, maskMe, maskMk, maskWordOk]) (by simp [pick2B, maskMe, maskMk, maskOf])

theorem vappend : ∀ k d h t b mask, Statement (.vappend k d h t b mask) := by
  intro k d h t b mask w _
  show decode (packV 0x2b#6 (BitVec.ofBool k) d h t 0#1 (BitVec.ofBool b) (maskMe mask) (maskMk mask) 7#5) = _
  cases mask <;>
    exact decode2B (packV_26_6 ..) (by simp [fields2B, maskMe, maskMk, maskWordOk]) (by simp [pick2B, maskMe, maskMk, maskOf])

theorem vmerge : ∀ k d s t a b m, Statement (.vmerge k d s t a b m) := by
  intro k d s t a b m w _
  show decode (packV 0x2b#6 (BitVec.ofBool k) d s t (BitVec.ofBool a) (BitVec.ofBool b) 1#1 m 8#5) = _
  exact decode2B (packV_26_6 ..) (by simp [fields2B]) (by simp [pick2B])

theorem vrank : ∀ k d t mask, Statement (.vrank k d t mask) := by
  intro k d t mask w _
  show decode (packV 0x2b#6 (BitVec.ofBool k) d 0#5 t 0#1 0#1 (maskMe mask) (maskMk mask) 9#5) = _
  cases mask <;>
    exact decode2B (packV_26_6 ..) (by simp [fields2B, maskMe, maskMk, maskWordOk]) (by simp [pick2B, maskMe, maskMk, maskOf])

theorem vindex : ∀ k d mask, Statement (.vindex k d mask) := by
  intro k d mask w _
  show decode (packV 0x2b#6 (BitVec.ofBool k) d 0#5 0#5 0#1 0#1 (maskMe mask) (maskMk mask) 10#5) = _
  cases mask <;>
    exact decode2B (packV_26_6 ..) (by simp [fields2B, maskMe, maskMk, maskWordOk]) (by simp [pick2B, maskMe, maskMk, maskOf])

theorem mand : ∀ k d s t, Statement (.mand k d s t) := by
  intro k d s t w _
  show decode (packV 0x2c#6 (BitVec.ofBool k) d s t 0#1 0#1 0#1 0#2 0#5) = _
  exact decode2C (packV_26_6 ..) (by simp [fields2C]) (by simp [pick2C])

theorem mor : ∀ k d s t, Statement (.mor k d s t) := by
  intro k d s t w _
  show decode (packV 0x2c#6 (BitVec.ofBool k) d s t 0#1 0#1 0#1 0#2 1#5) = _
  exact decode2C (packV_26_6 ..) (by simp [fields2C]) (by simp [pick2C])

theorem mxor : ∀ k d s t, Statement (.mxor k d s t) := by
  intro k d s t w _
  show decode (packV 0x2c#6 (BitVec.ofBool k) d s t 0#1 0#1 0#1 0#2 2#5) = _
  exact decode2C (packV_26_6 ..) (by simp [fields2C]) (by simp [pick2C])

theorem mnot : ∀ k d t, Statement (.mnot k d t) := by
  intro k d t w _
  show decode (packV 0x2c#6 (BitVec.ofBool k) d 0#5 t 0#1 0#1 0#1 0#2 3#5) = _
  exact decode2C (packV_26_6 ..) (by simp [fields2C]) (by simp [pick2C])

theorem mcount : ∀ k d t mask, Statement (.mcount k d t mask) := by
  intro k d t mask w _
  show decode (packV 0x2c#6 (BitVec.ofBool k) d 0#5 t 0#1 0#1 (maskMe mask) (maskMk mask) 4#5) = _
  cases mask <;>
    exact decode2C (packV_26_6 ..) (by simp [fields2C, maskMe, maskMk, maskWordOk]) (by simp [pick2C, maskMe, maskMk, maskOf])

theorem mlow : ∀ k d t mask, Statement (.mlow k d t mask) := by
  intro k d t mask w _
  show decode (packV 0x2c#6 (BitVec.ofBool k) d 0#5 t 0#1 0#1 (maskMe mask) (maskMk mask) 5#5) = _
  cases mask <;>
    exact decode2C (packV_26_6 ..) (by simp [fields2C, maskMe, maskMk, maskWordOk]) (by simp [pick2C, maskMe, maskMk, maskOf])

theorem mpre : ∀ k d t, Statement (.mpre k d t) := by
  intro k d t w _
  show decode (packV 0x2c#6 (BitVec.ofBool k) d 0#5 t 0#1 0#1 0#1 0#2 6#5) = _
  exact decode2C (packV_26_6 ..) (by simp [fields2C]) (by simp [pick2C])

theorem mmov : ∀ k d t, Statement (.mmov k d t) := by
  intro k d t w _
  show decode (packV 0x2c#6 (BitVec.ofBool k) d 0#5 t 0#1 0#1 0#1 0#2 7#5) = _
  exact decode2C (packV_26_6 ..) (by simp [fields2C]) (by simp [pick2C])

theorem mset : ∀ k d, Statement (.mset k d) := by
  intro k d w _
  show decode (packV 0x2c#6 (BitVec.ofBool k) d 0#5 0#5 0#1 0#1 0#1 0#2 8#5) = _
  exact decode2C (packV_26_6 ..) (by simp [fields2C]) (by simp [pick2C])

theorem mclr : ∀ k d, Statement (.mclr k d) := by
  intro k d w _
  show decode (packV 0x2c#6 (BitVec.ofBool k) d 0#5 0#5 0#1 0#1 0#1 0#2 9#5) = _
  exact decode2C (packV_26_6 ..) (by simp [fields2C]) (by simp [pick2C])

theorem vmseqVV : ∀ k d s t a b mask, Statement (.vmseqVV k d s t a b mask) := by
  intro k d s t a b mask w _
  show decode (packV 0x2d#6 (BitVec.ofBool k) d s t (BitVec.ofBool a) (BitVec.ofBool b) (maskMe mask) (maskMk mask) 0#5) = _
  cases mask <;>
    exact decode2D (packV_26_6 ..) (by simp [fields2D, maskMe, maskMk, maskWordOk]) (by simp [pick2D, maskMe, maskMk, maskOf])

theorem vmsneVV : ∀ k d s t a b mask, Statement (.vmsneVV k d s t a b mask) := by
  intro k d s t a b mask w _
  show decode (packV 0x2d#6 (BitVec.ofBool k) d s t (BitVec.ofBool a) (BitVec.ofBool b) (maskMe mask) (maskMk mask) 1#5) = _
  cases mask <;>
    exact decode2D (packV_26_6 ..) (by simp [fields2D, maskMe, maskMk, maskWordOk]) (by simp [pick2D, maskMe, maskMk, maskOf])

theorem vmsltVV : ∀ k d s t a b mask, Statement (.vmsltVV k d s t a b mask) := by
  intro k d s t a b mask w _
  show decode (packV 0x2d#6 (BitVec.ofBool k) d s t (BitVec.ofBool a) (BitVec.ofBool b) (maskMe mask) (maskMk mask) 2#5) = _
  cases mask <;>
    exact decode2D (packV_26_6 ..) (by simp [fields2D, maskMe, maskMk, maskWordOk]) (by simp [pick2D, maskMe, maskMk, maskOf])

theorem vmsleVV : ∀ k d s t a b mask, Statement (.vmsleVV k d s t a b mask) := by
  intro k d s t a b mask w _
  show decode (packV 0x2d#6 (BitVec.ofBool k) d s t (BitVec.ofBool a) (BitVec.ofBool b) (maskMe mask) (maskMk mask) 3#5) = _
  cases mask <;>
    exact decode2D (packV_26_6 ..) (by simp [fields2D, maskMe, maskMk, maskWordOk]) (by simp [pick2D, maskMe, maskMk, maskOf])

theorem vmsltnVV : ∀ k d s t a b mask, Statement (.vmsltnVV k d s t a b mask) := by
  intro k d s t a b mask w _
  show decode (packV 0x2d#6 (BitVec.ofBool k) d s t (BitVec.ofBool a) (BitVec.ofBool b) (maskMe mask) (maskMk mask) 4#5) = _
  cases mask <;>
    exact decode2D (packV_26_6 ..) (by simp [fields2D, maskMe, maskMk, maskWordOk]) (by simp [pick2D, maskMe, maskMk, maskOf])

theorem vmfeqVV : ∀ k d s t a b mask, Statement (.vmfeqVV k d s t a b mask) := by
  intro k d s t a b mask w _
  show decode (packV 0x2d#6 (BitVec.ofBool k) d s t (BitVec.ofBool a) (BitVec.ofBool b) (maskMe mask) (maskMk mask) 5#5) = _
  cases mask <;>
    exact decode2D (packV_26_6 ..) (by simp [fields2D, maskMe, maskMk, maskWordOk]) (by simp [pick2D, maskMe, maskMk, maskOf])

theorem vmfltVV : ∀ k d s t a b mask, Statement (.vmfltVV k d s t a b mask) := by
  intro k d s t a b mask w _
  show decode (packV 0x2d#6 (BitVec.ofBool k) d s t (BitVec.ofBool a) (BitVec.ofBool b) (maskMe mask) (maskMk mask) 6#5) = _
  cases mask <;>
    exact decode2D (packV_26_6 ..) (by simp [fields2D, maskMe, maskMk, maskWordOk]) (by simp [pick2D, maskMe, maskMk, maskOf])

theorem vmfle : ∀ k d s t a b mask, Statement (.vmfle k d s t a b mask) := by
  intro k d s t a b mask w _
  show decode (packV 0x2d#6 (BitVec.ofBool k) d s t (BitVec.ofBool a) (BitVec.ofBool b) (maskMe mask) (maskMk mask) 7#5) = _
  cases mask <;>
    exact decode2D (packV_26_6 ..) (by simp [fields2D, maskMe, maskMk, maskWordOk]) (by simp [pick2D, maskMe, maskMk, maskOf])

theorem vmfne : ∀ k d s t a b mask, Statement (.vmfne k d s t a b mask) := by
  intro k d s t a b mask w _
  show decode (packV 0x2d#6 (BitVec.ofBool k) d s t (BitVec.ofBool a) (BitVec.ofBool b) (maskMe mask) (maskMk mask) 8#5) = _
  cases mask <;>
    exact decode2D (packV_26_6 ..) (by simp [fields2D, maskMe, maskMk, maskWordOk]) (by simp [pick2D, maskMe, maskMk, maskOf])

theorem vmseqVX : ∀ k d x t b mask, Statement (.vmseqVX k d x t b mask) := by
  intro k d x t b mask w _
  show decode (packV 0x2e#6 (BitVec.ofBool k) d x t 0#1 (BitVec.ofBool b) (maskMe mask) (maskMk mask) 0#5) = _
  cases mask <;>
    exact decode2E (packV_26_6 ..) (by simp [fields2E, maskMe, maskMk, maskWordOk]) (by simp [pick2E, maskMe, maskMk, maskOf])

theorem vmsneVX : ∀ k d x t b mask, Statement (.vmsneVX k d x t b mask) := by
  intro k d x t b mask w _
  show decode (packV 0x2e#6 (BitVec.ofBool k) d x t 0#1 (BitVec.ofBool b) (maskMe mask) (maskMk mask) 1#5) = _
  cases mask <;>
    exact decode2E (packV_26_6 ..) (by simp [fields2E, maskMe, maskMk, maskWordOk]) (by simp [pick2E, maskMe, maskMk, maskOf])

theorem vmsltVX : ∀ k d x t b mask, Statement (.vmsltVX k d x t b mask) := by
  intro k d x t b mask w _
  show decode (packV 0x2e#6 (BitVec.ofBool k) d x t 0#1 (BitVec.ofBool b) (maskMe mask) (maskMk mask) 2#5) = _
  cases mask <;>
    exact decode2E (packV_26_6 ..) (by simp [fields2E, maskMe, maskMk, maskWordOk]) (by simp [pick2E, maskMe, maskMk, maskOf])

theorem vmsleVX : ∀ k d x t b mask, Statement (.vmsleVX k d x t b mask) := by
  intro k d x t b mask w _
  show decode (packV 0x2e#6 (BitVec.ofBool k) d x t 0#1 (BitVec.ofBool b) (maskMe mask) (maskMk mask) 3#5) = _
  cases mask <;>
    exact decode2E (packV_26_6 ..) (by simp [fields2E, maskMe, maskMk, maskWordOk]) (by simp [pick2E, maskMe, maskMk, maskOf])

theorem vmsgt : ∀ k d x t b mask, Statement (.vmsgt k d x t b mask) := by
  intro k d x t b mask w _
  show decode (packV 0x2e#6 (BitVec.ofBool k) d x t 0#1 (BitVec.ofBool b) (maskMe mask) (maskMk mask) 4#5) = _
  cases mask <;>
    exact decode2E (packV_26_6 ..) (by simp [fields2E, maskMe, maskMk, maskWordOk]) (by simp [pick2E, maskMe, maskMk, maskOf])

theorem vmsltnVX : ∀ k d x t b mask, Statement (.vmsltnVX k d x t b mask) := by
  intro k d x t b mask w _
  show decode (packV 0x2e#6 (BitVec.ofBool k) d x t 0#1 (BitVec.ofBool b) (maskMe mask) (maskMk mask) 5#5) = _
  cases mask <;>
    exact decode2E (packV_26_6 ..) (by simp [fields2E, maskMe, maskMk, maskWordOk]) (by simp [pick2E, maskMe, maskMk, maskOf])

theorem vmfeqVX : ∀ k d x t b mask, Statement (.vmfeqVX k d x t b mask) := by
  intro k d x t b mask w _
  show decode (packV 0x2e#6 (BitVec.ofBool k) d x t 0#1 (BitVec.ofBool b) (maskMe mask) (maskMk mask) 6#5) = _
  cases mask <;>
    exact decode2E (packV_26_6 ..) (by simp [fields2E, maskMe, maskMk, maskWordOk]) (by simp [pick2E, maskMe, maskMk, maskOf])

theorem vmfltVX : ∀ k d x t b mask, Statement (.vmfltVX k d x t b mask) := by
  intro k d x t b mask w _
  show decode (packV 0x2e#6 (BitVec.ofBool k) d x t 0#1 (BitVec.ofBool b) (maskMe mask) (maskMk mask) 7#5) = _
  cases mask <;>
    exact decode2E (packV_26_6 ..) (by simp [fields2E, maskMe, maskMk, maskWordOk]) (by simp [pick2E, maskMe, maskMk, maskOf])

theorem vmfgt : ∀ k d x t b mask, Statement (.vmfgt k d x t b mask) := by
  intro k d x t b mask w _
  show decode (packV 0x2e#6 (BitVec.ofBool k) d x t 0#1 (BitVec.ofBool b) (maskMe mask) (maskMk mask) 8#5) = _
  cases mask <;>
    exact decode2E (packV_26_6 ..) (by simp [fields2E, maskMe, maskMk, maskWordOk]) (by simp [pick2E, maskMe, maskMk, maskOf])

theorem vmv : ∀ k d t b mask, Statement (.vmv k d t b mask) := by
  intro k d t b mask w _
  show decode (packV 0x2f#6 (BitVec.ofBool k) d 0#5 t 0#1 (BitVec.ofBool b) (maskMe mask) (maskMk mask) 0#5) = _
  cases mask <;>
    exact decode2F (packV_26_6 ..) (by simp [fields2F, maskMe, maskMk, maskWordOk]) (by simp [pick2F, maskMe, maskMk, maskOf])

theorem vmvxs : ∀ k d t b, Statement (.vmvxs k d t b) := by
  intro k d t b w _
  show decode (packV 0x2f#6 (BitVec.ofBool k) d 0#5 t 0#1 (BitVec.ofBool b) 0#1 0#2 1#5) = _
  exact decode2F (packV_26_6 ..) (by simp [fields2F]) (by simp [pick2F])

theorem vmvsx : ∀ k d x, Statement (.vmvsx k d x) := by
  intro k d x w _
  show decode (packV 0x2f#6 (BitVec.ofBool k) d x 0#5 0#1 0#1 0#1 0#2 2#5) = _
  exact decode2F (packV_26_6 ..) (by simp [fields2F]) (by simp [pick2F])

theorem vbcast : ∀ k d x mask, Statement (.vbcast k d x mask) := by
  intro k d x mask w _
  show decode (packV 0x2f#6 (BitVec.ofBool k) d x 0#5 0#1 0#1 (maskMe mask) (maskMk mask) 3#5) = _
  cases mask <;>
    exact decode2F (packV_26_6 ..) (by simp [fields2F, maskMe, maskMk, maskWordOk]) (by simp [pick2F, maskMe, maskMk, maskOf])

theorem vqpop : ∀ k d q, Statement (.vqpop k d q) := by
  intro k d q w _
  show decode (packV 0x2f#6 (BitVec.ofBool k) d (0#2 ++ q) 0#5 0#1 0#1 0#1 0#2 4#5) = _
  exact decode2F (packV_26_6 ..) (by simp [fields2F]) (by simp [pick2F])

theorem vqpush : ∀ k q t b, Statement (.vqpush k q t b) := by
  intro k q t b w _
  show decode (packV 0x2f#6 (BitVec.ofBool k) 0#5 (0#3 ++ q) t 0#1 (BitVec.ofBool b) 0#1 0#2 5#5) = _
  exact decode2F (packV_26_6 ..) (by simp [fields2F]) (by simp [pick2F])

theorem vnsrd : ∀ k d, Statement (.vnsrd k d) := by
  intro k d w _
  show decode (packV 0x2f#6 (BitVec.ofBool k) d 0#5 0#5 0#1 0#1 0#1 0#2 6#5) = _
  exact decode2F (packV_26_6 ..) (by simp [fields2F]) (by simp [pick2F])

theorem vnswr : ∀ k t b, Statement (.vnswr k t b) := by
  intro k t b w _
  show decode (packV 0x2f#6 (BitVec.ofBool k) 0#5 0#5 t 0#1 (BitVec.ofBool b) 0#1 0#2 7#5) = _
  exact decode2F (packV_26_6 ..) (by simp [fields2F]) (by simp [pick2F])

theorem vupdSgdm : ∀ k d s t a b mask, Statement (.vupdSgdm k d s t a b mask) := by
  intro k d s t a b mask w _
  show decode (packV 0x30#6 (BitVec.ofBool k) d s t (BitVec.ofBool a) (BitVec.ofBool b) (maskMe mask) (maskMk mask) 0#5) = _
  cases mask <;>
    exact decode30 (packV_26_6 ..) (by simp [fields30, maskMe, maskMk, maskWordOk]) (by simp [pick30, maskMe, maskMk, maskOf])

theorem vupdAdamw : ∀ k d s t a b mask, Statement (.vupdAdamw k d s t a b mask) := by
  intro k d s t a b mask w _
  show decode (packV 0x30#6 (BitVec.ofBool k) d s t (BitVec.ofBool a) (BitVec.ofBool b) (maskMe mask) (maskMk mask) 1#5) = _
  cases mask <;>
    exact decode30 (packV_26_6 ..) (by simp [fields30, maskMe, maskMk, maskWordOk]) (by simp [pick30, maskMe, maskMk, maskOf])

theorem vsplit : ∀ k d t b mask, Statement (.vsplit k d t b mask) := by
  intro k d t b mask w _
  show decode (packV 0x30#6 (BitVec.ofBool k) d 0#5 t 0#1 (BitVec.ofBool b) (maskMe mask) (maskMk mask) 2#5) = _
  cases mask <;>
    exact decode30 (packV_26_6 ..) (by simp [fields30, maskMe, maskMk, maskWordOk]) (by simp [pick30, maskMe, maskMk, maskOf])

theorem vjoin : ∀ k d t b mask, Statement (.vjoin k d t b mask) := by
  intro k d t b mask w _
  show decode (packV 0x30#6 (BitVec.ofBool k) d 0#5 t 0#1 (BitVec.ofBool b) (maskMe mask) (maskMk mask) 3#5) = _
  cases mask <;>
    exact decode30 (packV_26_6 ..) (by simp [fields30, maskMe, maskMk, maskWordOk]) (by simp [pick30, maskMe, maskMk, maskOf])

theorem tcross : ∀ k t s u l a b mask, Statement (.tcross k t s u l a b mask) := by
  intro k t s u l a b mask w _
  simp [Instr.wellFormed, Instr.numbersOk, Instr.fieldsOk] at w
  show decode (packTT 0x31#6 (BitVec.ofBool k) t s u l (BitVec.ofBool a) (BitVec.ofBool b) (maskMe mask) (maskMk mask) 0#5) = _
  cases mask <;>
    exact decode31 (packTT_26_6 ..) (by simp [fields31, maskMe, maskMk, maskWordOk, w]) (by simp [pick31, maskMe, maskMk, maskOf])

theorem tcrossm : ∀ k t s u l a b mask, Statement (.tcrossm k t s u l a b mask) := by
  intro k t s u l a b mask w _
  simp [Instr.wellFormed, Instr.numbersOk, Instr.fieldsOk] at w
  show decode (packTT 0x31#6 (BitVec.ofBool k) t s u l (BitVec.ofBool a) (BitVec.ofBool b) (maskMe mask) (maskMk mask) 1#5) = _
  cases mask <;>
    exact decode31 (packTT_26_6 ..) (by simp [fields31, maskMe, maskMk, maskWordOk, w]) (by simp [pick31, maskMe, maskMk, maskOf])

theorem tcrossI : ∀ k t s u l a b mask, Statement (.tcrossI k t s u l a b mask) := by
  intro k t s u l a b mask w _
  simp [Instr.wellFormed, Instr.numbersOk, Instr.fieldsOk] at w
  show decode (packTT 0x31#6 (BitVec.ofBool k) t s u l (BitVec.ofBool a) (BitVec.ofBool b) (maskMe mask) (maskMk mask) 2#5) = _
  cases mask <;>
    exact decode31 (packTT_26_6 ..) (by simp [fields31, maskMe, maskMk, maskWordOk, w]) (by simp [pick31, maskMe, maskMk, maskOf])

theorem tcrossS : ∀ k t s u a b mask, Statement (.tcrossS k t s u a b mask) := by
  intro k t s u a b mask w _
  show decode (packTT 0x31#6 (BitVec.ofBool k) t s u 0#2 (BitVec.ofBool a) (BitVec.ofBool b) (maskMe mask) (maskMk mask) 3#5) = _
  cases mask <;>
    exact decode31 (packTT_26_6 ..) (by simp [fields31, maskMe, maskMk, maskWordOk]) (by simp [pick31, maskMe, maskMk, maskOf])

theorem tzero : ∀ k t, Statement (.tzero k t) := by
  intro k t w _
  show decode (packTT 0x32#6 (BitVec.ofBool k) t 0#5 0#5 0#2 0#1 0#1 0#1 0#2 0#5) = _
  exact decode32 (packTT_26_6 ..) (by simp [fields32]) (by simp [pick32])

theorem tmvrow : ∀ k t x v b mask, Statement (.tmvrow k t x v b mask) := by
  intro k t x v b mask w _
  show decode (packTT 0x32#6 (BitVec.ofBool k) t x v 0#2 0#1 (BitVec.ofBool b) (maskMe mask) (maskMk mask) 1#5) = _
  cases mask <;>
    exact decode32 (packTT_26_6 ..) (by simp [fields32, maskMe, maskMk, maskWordOk]) (by simp [pick32, maskMe, maskMk, maskOf])

theorem tmvcol : ∀ k t x v b mask, Statement (.tmvcol k t x v b mask) := by
  intro k t x v b mask w _
  show decode (packTT 0x32#6 (BitVec.ofBool k) t x v 0#2 0#1 (BitVec.ofBool b) (maskMe mask) (maskMk mask) 2#5) = _
  cases mask <;>
    exact decode32 (packTT_26_6 ..) (by simp [fields32, maskMe, maskMk, maskWordOk]) (by simp [pick32, maskMe, maskMk, maskOf])

theorem trdrow : ∀ k t x v mask, Statement (.trdrow k t x v mask) := by
  intro k t x v mask w _
  show decode (packTT 0x32#6 (BitVec.ofBool k) t x v 0#2 0#1 0#1 (maskMe mask) (maskMk mask) 3#5) = _
  cases mask <;>
    exact decode32 (packTT_26_6 ..) (by simp [fields32, maskMe, maskMk, maskWordOk]) (by simp [pick32, maskMe, maskMk, maskOf])

theorem trdcol : ∀ k t x v mask, Statement (.trdcol k t x v mask) := by
  intro k t x v mask w _
  show decode (packTT 0x32#6 (BitVec.ofBool k) t x v 0#2 0#1 0#1 (maskMe mask) (maskMk mask) 4#5) = _
  cases mask <;>
    exact decode32 (packTT_26_6 ..) (by simp [fields32, maskMe, maskMk, maskWordOk]) (by simp [pick32, maskMe, maskMk, maskOf])

theorem tcfg : ∀ k t x, Statement (.tcfg k t x) := by
  intro k t x w _
  show decode (packTT 0x33#6 (BitVec.ofBool k) t x 0#5 0#2 0#1 0#1 0#1 0#2 0#5) = _
  exact decode33 (packTT_26_6 ..) (by simp [fields33]) (by simp [pick33])

theorem tscale : ∀ k t x, Statement (.tscale k t x) := by
  intro k t x w _
  show decode (packTT 0x33#6 (BitVec.ofBool k) t x 0#5 0#2 0#1 0#1 0#1 0#2 1#5) = _
  exact decode33 (packTT_26_6 ..) (by simp [fields33]) (by simp [pick33])

theorem tstat : ∀ k t x, Statement (.tstat k t x) := by
  intro k t x w _
  show decode (packTT 0x33#6 (BitVec.ofBool k) t x 0#5 0#2 0#1 0#1 0#1 0#2 2#5) = _
  exact decode33 (packTT_26_6 ..) (by simp [fields33]) (by simp [pick33])

end

end Sys2Proof.Laws.RoundTrip
end

