-- ==== Sys2Proof/Laws/Run.lean ====
section
/-!
SUPPORT. Running a word is running the instruction that `decode` reads from it: `run` and `pick` name the same meanings.
-/

namespace Sys2Proof.Machine

theorem run01_eq (w : IWord) (s : State) (i : Instr) (h : pick01 w = some i) : run01 w s = exec i s := by
  unfold pick01 at h; unfold run01
  split at h <;> first | contradiction | (rename_i e; (try rw [e]); cases h; rfl)

theorem run0A_eq (w : IWord) (s : State) (i : Instr) (h : pick0A w = some i) : run0A w s = exec i s := by
  unfold pick0A at h; unfold run0A
  split at h <;> first | contradiction | (rename_i e; (try rw [e]); cases h; rfl)

theorem run0B_eq (w : IWord) (s : State) (i : Instr) (h : pick0B w = some i) : run0B w s = exec i s := by
  unfold pick0B at h; unfold run0B
  split at h <;> first | contradiction | (rename_i e; (try rw [e]); cases h; rfl)

theorem run0C_eq (w : IWord) (s : State) (i : Instr) (h : pick0C w = some i) : run0C w s = exec i s := by
  unfold pick0C at h; unfold run0C
  split at h <;> first | contradiction | (rename_i e; (try rw [e]); cases h; rfl)

theorem run0D_eq (w : IWord) (s : State) (i : Instr) (h : pick0D w = some i) : run0D w s = exec i s := by
  unfold pick0D at h; unfold run0D
  split at h <;> first | contradiction | (rename_i e; (try rw [e]); cases h; rfl)

theorem run16_eq (w : IWord) (s : State) (i : Instr) (h : pick16 w = some i) : run16 w s = exec i s := by
  unfold pick16 at h; unfold run16
  split at h <;> first | contradiction | (rename_i e; (try rw [e]); cases h; rfl)

theorem run17_eq (w : IWord) (s : State) (i : Instr) (h : pick17 w = some i) : run17 w s = exec i s := by
  unfold pick17 at h; unfold run17
  split at h <;> first | contradiction | (rename_i e; (try rw [e]); cases h; rfl)

theorem run18_eq (w : IWord) (s : State) (i : Instr) (h : pick18 w = some i) : run18 w s = exec i s := by
  unfold pick18 at h; unfold run18
  split at h <;> first | contradiction | (rename_i e; (try rw [e]); cases h; rfl)

theorem run19_eq (w : IWord) (s : State) (i : Instr) (h : pick19 w = some i) : run19 w s = exec i s := by
  unfold pick19 at h; unfold run19
  split at h <;> first | contradiction | (rename_i e; (try rw [e]); cases h; rfl)

theorem run1A_eq (w : IWord) (s : State) (i : Instr) (h : pick1A w = some i) : run1A w s = exec i s := by
  unfold pick1A at h; unfold run1A
  split at h <;> first | contradiction | (rename_i e; (try rw [e]); cases h; rfl)

theorem run1B_eq (w : IWord) (s : State) (i : Instr) (h : pick1B w = some i) : run1B w s = exec i s := by
  unfold pick1B at h; unfold run1B
  split at h <;> first | contradiction | (rename_i e; (try rw [e]); cases h; rfl)

theorem run1C_eq (w : IWord) (s : State) (i : Instr) (h : pick1C w = some i) : run1C w s = exec i s := by
  unfold pick1C at h; unfold run1C
  split at h <;> first | contradiction | (rename_i e; (try rw [e]); cases h; rfl)

theorem run1D_eq (w : IWord) (s : State) (i : Instr) (h : pick1D w = some i) : run1D w s = exec i s := by
  unfold pick1D at h; unfold run1D
  split at h <;> first | contradiction | (rename_i e; (try rw [e]); cases h; rfl)

theorem run20_eq (w : IWord) (s : State) (i : Instr) (h : pick20 w = some i) : run20 w s = exec i s := by
  unfold pick20 at h; unfold run20
  split at h <;> first | contradiction | (rename_i e; (try rw [e]); cases h; rfl)

theorem run21_eq (w : IWord) (s : State) (i : Instr) (h : pick21 w = some i) : run21 w s = exec i s := by
  unfold pick21 at h; unfold run21
  split at h <;> first | contradiction | (rename_i e; (try rw [e]); cases h; rfl)

theorem run22_eq (w : IWord) (s : State) (i : Instr) (h : pick22 w = some i) : run22 w s = exec i s := by
  unfold pick22 at h; unfold run22
  split at h <;> first | contradiction | (rename_i e; (try rw [e]); cases h; rfl)

theorem run23_eq (w : IWord) (s : State) (i : Instr) (h : pick23 w = some i) : run23 w s = exec i s := by
  unfold pick23 at h; unfold run23
  split at h <;> first | contradiction | (rename_i e; (try rw [e]); cases h; rfl)

theorem run24_eq (w : IWord) (s : State) (i : Instr) (h : pick24 w = some i) : run24 w s = exec i s := by
  unfold pick24 at h; unfold run24
  split at h <;> first | contradiction | (rename_i e; (try rw [e]); cases h; rfl)

theorem run25_eq (w : IWord) (s : State) (i : Instr) (h : pick25 w = some i) : run25 w s = exec i s := by
  unfold pick25 at h; unfold run25
  split at h <;> first | contradiction | (rename_i e; (try rw [e]); cases h; rfl)

theorem run26_eq (w : IWord) (s : State) (i : Instr) (h : pick26 w = some i) : run26 w s = exec i s := by
  unfold pick26 at h; unfold run26
  split at h <;> first | contradiction | (rename_i e; (try rw [e]); cases h; rfl)

theorem run27_eq (w : IWord) (s : State) (i : Instr) (h : pick27 w = some i) : run27 w s = exec i s := by
  unfold pick27 at h; unfold run27
  split at h <;> first | contradiction | (rename_i e; (try rw [e]); cases h; rfl)

theorem run28_eq (w : IWord) (s : State) (i : Instr) (h : pick28 w = some i) : run28 w s = exec i s := by
  unfold pick28 at h; unfold run28
  split at h <;> first | contradiction | (rename_i e; (try rw [e]); cases h; rfl)

theorem run29_eq (w : IWord) (s : State) (i : Instr) (h : pick29 w = some i) : run29 w s = exec i s := by
  unfold pick29 at h; unfold run29
  split at h <;> first | contradiction | (rename_i e; (try rw [e]); cases h; rfl)

theorem run2A_eq (w : IWord) (s : State) (i : Instr) (h : pick2A w = some i) : run2A w s = exec i s := by
  unfold pick2A at h; unfold run2A
  split at h <;> first | contradiction | (rename_i e; (try rw [e]); cases h; rfl)

theorem run2B_eq (w : IWord) (s : State) (i : Instr) (h : pick2B w = some i) : run2B w s = exec i s := by
  unfold pick2B at h; unfold run2B
  split at h <;> first | contradiction | (rename_i e; (try rw [e]); cases h; rfl)

theorem run2C_eq (w : IWord) (s : State) (i : Instr) (h : pick2C w = some i) : run2C w s = exec i s := by
  unfold pick2C at h; unfold run2C
  split at h <;> first | contradiction | (rename_i e; (try rw [e]); cases h; rfl)

theorem run2D_eq (w : IWord) (s : State) (i : Instr) (h : pick2D w = some i) : run2D w s = exec i s := by
  unfold pick2D at h; unfold run2D
  split at h <;> first | contradiction | (rename_i e; (try rw [e]); cases h; rfl)

theorem run2E_eq (w : IWord) (s : State) (i : Instr) (h : pick2E w = some i) : run2E w s = exec i s := by
  unfold pick2E at h; unfold run2E
  split at h <;> first | contradiction | (rename_i e; (try rw [e]); cases h; rfl)

theorem run2F_eq (w : IWord) (s : State) (i : Instr) (h : pick2F w = some i) : run2F w s = exec i s := by
  unfold pick2F at h; unfold run2F
  split at h <;> first | contradiction | (rename_i e; (try rw [e]); cases h; rfl)

theorem run30_eq (w : IWord) (s : State) (i : Instr) (h : pick30 w = some i) : run30 w s = exec i s := by
  unfold pick30 at h; unfold run30
  split at h <;> first | contradiction | (rename_i e; (try rw [e]); cases h; rfl)

theorem run31_eq (w : IWord) (s : State) (i : Instr) (h : pick31 w = some i) : run31 w s = exec i s := by
  unfold pick31 at h; unfold run31
  split at h <;> first | contradiction | (rename_i e; (try rw [e]); cases h; rfl)

theorem run32_eq (w : IWord) (s : State) (i : Instr) (h : pick32 w = some i) : run32 w s = exec i s := by
  unfold pick32 at h; unfold run32
  split at h <;> first | contradiction | (rename_i e; (try rw [e]); cases h; rfl)

theorem run33_eq (w : IWord) (s : State) (i : Instr) (h : pick33 w = some i) : run33 w s = exec i s := by
  unfold pick33 at h; unfold run33
  split at h <;> first | contradiction | (rename_i e; (try rw [e]); cases h; rfl)

theorem run_eq (w : IWord) (s : State) (i : Instr) (h : pick w = some i) : run w s = exec i s := by
  unfold pick at h; unfold run
  split at h <;> first
    | contradiction
    | (rename_i e; (try rw [e]); cases h; rfl)
    | (rename_i e; (try rw [e]); exact run01_eq w s i h)
    | (rename_i e; (try rw [e]); exact run0A_eq w s i h)
    | (rename_i e; (try rw [e]); exact run0B_eq w s i h)
    | (rename_i e; (try rw [e]); exact run0C_eq w s i h)
    | (rename_i e; (try rw [e]); exact run0D_eq w s i h)
    | (rename_i e; (try rw [e]); exact run16_eq w s i h)
    | (rename_i e; (try rw [e]); exact run17_eq w s i h)
    | (rename_i e; (try rw [e]); exact run18_eq w s i h)
    | (rename_i e; (try rw [e]); exact run19_eq w s i h)
    | (rename_i e; (try rw [e]); exact run1A_eq w s i h)
    | (rename_i e; (try rw [e]); exact run1B_eq w s i h)
    | (rename_i e; (try rw [e]); exact run1C_eq w s i h)
    | (rename_i e; (try rw [e]); exact run1D_eq w s i h)
    | (rename_i e; (try rw [e]); exact run20_eq w s i h)
    | (rename_i e; (try rw [e]); exact run21_eq w s i h)
    | (rename_i e; (try rw [e]); exact run22_eq w s i h)
    | (rename_i e; (try rw [e]); exact run23_eq w s i h)
    | (rename_i e; (try rw [e]); exact run24_eq w s i h)
    | (rename_i e; (try rw [e]); exact run25_eq w s i h)
    | (rename_i e; (try rw [e]); exact run26_eq w s i h)
    | (rename_i e; (try rw [e]); exact run27_eq w s i h)
    | (rename_i e; (try rw [e]); exact run28_eq w s i h)
    | (rename_i e; (try rw [e]); exact run29_eq w s i h)
    | (rename_i e; (try rw [e]); exact run2A_eq w s i h)
    | (rename_i e; (try rw [e]); exact run2B_eq w s i h)
    | (rename_i e; (try rw [e]); exact run2C_eq w s i h)
    | (rename_i e; (try rw [e]); exact run2D_eq w s i h)
    | (rename_i e; (try rw [e]); exact run2E_eq w s i h)
    | (rename_i e; (try rw [e]); exact run2F_eq w s i h)
    | (rename_i e; (try rw [e]); exact run30_eq w s i h)
    | (rename_i e; (try rw [e]); exact run31_eq w s i h)
    | (rename_i e; (try rw [e]); exact run32_eq w s i h)
    | (rename_i e; (try rw [e]); exact run33_eq w s i h)

/-- The word that decodes to `i` runs as `i`. -/
theorem runWord_eq (w : IWord) (s : State) (i : Instr) (h : decode w = .ok i) : s.runWord w = exec i s := by
  unfold decode at h; unfold State.runWord
  split at h
  · contradiction
  · rename_i e; rw [e]
    split at h
    · rename_i j hj; cases h; exact run_eq w s _ hj
    · contradiction

/-- A word that is no instruction raises illegal-instruction (R109). -/
theorem runWord_error (w : IWord) (s : State) (e : DecodeError) (h : check w = .error e) :
    s.runWord w = execIllegalInstruction w s := by
  unfold State.runWord; rw [h]

end Sys2Proof.Machine
end

