-- ==== Sys2Proof/Tests/Slice0.lean ====
section
/-!
SUPPORT. Tests: ill-formed terms that the check refuses, words that the manual prints, the worked examples of the manual, and for
every statement a state and operands that meet its hypotheses.
-/

open Sys2Proof Sys2Proof.Machine

set_option Elab.async false
set_option maxRecDepth 20000

namespace Sys2Proof.Tests

/-! ## Ill-formed instructions -/

theorem test_illFormed_loop : (Instr.loopSet 6#3).wellFormed = false ∧ (Instr.loopEnd 7#3 0).wellFormed = false ∧
    (Instr.loopIdx 6#3 1).wellFormed = false ∧ (Instr.loopBrk 7#3 0).wellFormed = false := by decide +kernel
theorem test_illFormed_csr : (Instr.csrr 1 0x00E#12).wellFormed = false ∧ (Instr.csrw 1 2 0x082#12).wellFormed = false ∧
    (Instr.csrs 1 2 0x044#12).wellFormed = false ∧ (Instr.csrc 1 2 0xFFF#12).wellFormed = false := by decide +kernel
theorem test_illFormed_barrier : (Instr.barArv 8 1#2).wellFormed = false ∧ (Instr.barWt 0 0#2).wellFormed = false ∧
    (Instr.barSync 7 3#2).wellFormed = false ∧ (Instr.barSync 7 2#2).wellFormed = true := by decide +kernel
theorem test_illFormed_scope : (Instr.coll 5 6 0#2).wellFormed = false ∧ (Instr.pub 5 6 1#2).wellFormed = false ∧
    (Instr.kvapp 5 6 7 3#2).wellFormed = false ∧ (Instr.kvret 5 6 7 0#2).wellFormed = false := by decide +kernel
theorem test_illFormed_segment : (Instr.vlseg false 8 6 0#3 none).wellFormed = false ∧
    (Instr.vsseg false 8 6 0#3 false none).wellFormed = false := by decide +kernel
theorem test_illFormed_queueOperand : (Instr.tcross false 1 9 4 1 false false none).wellFormed = false ∧
    (Instr.tcross false 1 2 4 1 true false none).wellFormed = false ∧
    (Instr.tcrossm false 1 2 2 3 false false none).wellFormed = false := by decide +kernel

/-! ## Words that the manual prints -/

theorem test_printed_1 : decode 0x08A50010#32 = .ok (.addi 5 5 16#16) := by decide +kernel
theorem test_printed_2 : decode 0x05CE13E0#32 = .ok (.slli 14 14 2#6) := by decide +kernel
theorem test_printed_3 : decode 0x04A64421#32 = .ok (.srai 5 6 40#6) := by decide +kernel
theorem test_printed_4 : decode 0x30A7300D#32 = .ok (.amoAdd 5 7 6 1#2 2#2 true) := by decide +kernel
theorem test_printed_5 : decode 0x30C5014D#32 = .ok (.ldAcq 6 5 2#2 true) := by decide +kernel
theorem test_printed_6 : decode 0x34A638E0#32 = .ok (.fmac 5 6 7) := by decide +kernel
theorem test_printed_7 : decode 0x38A6FFFD#32 = .ok (.beq 5 6 0xFFFD#16) := by decide +kernel
theorem test_printed_8 : decode 0x50200008#32 = .ok (.jal 1 8#21) := by decide +kernel
theorem test_printed_9 : decode 0x5C060000#32 = .ok (.qpush 6 0) := by decide +kernel
theorem test_printed_10 : decode 0x5CE04020#32 = .ok (.qpop 7 8) := by decide +kernel
theorem test_printed_11 : decode 0x5FFFF8DE#32 = .ok (.qbr 0xFFFFE#20) := by decide +kernel
theorem test_printed_12 : decode 0x5D2C10E0#32 = .ok (.sprd 9 12 2) := by decide +kernel
theorem test_printed_13 : decode 0x60054004#32 = .ok (.csrw 0 5 4#12) := by decide +kernel
theorem test_printed_14 : decode 0x64000004#32 = .ok (.fenceAv 2#2) := by decide +kernel
theorem test_printed_15 : decode 0x640000C2#32 = .ok (.barSync 0 1#2) := by decide +kernel
theorem test_printed_16 : decode 0x68000060#32 = .ok .halt := by decide +kernel
theorem test_printed_17 : decode 0x5900FFF5#32 = .ok (.loopEnd 0 0xFFF5#16) := by decide +kernel
theorem test_printed_18 : decode 0x80C31C00#32 = .ok (.vcfg 12 6 7) := by decide +kernel
theorem test_printed_19 : decode 0x80000402#32 = .ok (.vreconf 1#2) := by decide +kernel
theorem test_printed_20 : decode 0x84452C01#32 = .ok (.vlse false 4 10 11 none) := by decide +kernel
theorem test_printed_21 : decode 0x84830802#32 = .ok (.vlseg false 8 6 2#3 none) := by decide +kernel
theorem test_printed_22 : decode 0x8404B005#32 = .ok (.vlkv false 0 9 12) := by decide +kernel
theorem test_printed_23 : decode 0x8832A0C3#32 = .ok (.vsx false 3 5 8 false (some 2#2)) := by decide +kernel
theorem test_printed_24 : decode 0x88138006#32 = .ok (.vssc false 1 7) := by decide +kernel
theorem test_printed_25 : decode 0x8C229A01#32 = .ok (.vlst false 2 5 6 true none) := by decide +kernel
theorem test_printed_26 : decode 0x981E8800#32 = .ok (.vaddVI false 1 0x1D 2 false none) := by decide +kernel
theorem test_printed_27 : decode 0x9C618807#32 = .ok (.vfmaccVV false 6 3 2 false false none) := by decide +kernel
theorem test_printed_28 : decode 0xA4402001#32 = .ok (.vfcvtN false 4 0 8 false none) := by decide +kernel
theorem test_printed_29 : decode 0xA4402005#32 = .ok (.vcvtq false 4 0 8 false none) := by decide +kernel
theorem test_printed_30 : decode 0xACA30805#32 = .ok (.vpush false 10 6 2 false false none) := by decide +kernel
theorem test_printed_31 : decode 0xBC218004#32 = .ok (.vqpop false 2 3#3) := by decide +kernel
theorem test_printed_32 : decode 0xC8000000#32 = .ok (.tzero false 0) := by decide +kernel
theorem test_printed_33 : decode 0xC40430A0#32 = .ok (.tcross false 0 2 3 0 false false (some 1#2)) := by decide +kernel
theorem test_printed_34 : decode 0xCC0A0002#32 = .ok (.tstat false 0 5) := by decide +kernel
theorem test_printed_35 : decode 0xC4D10003#32 = .ok (.tcrossS false 3 8 16 false false none) := by decide +kernel
theorem test_printed_36 : decode 0xC4825C01#32 = .ok (.tcrossm false 2 1 5 3 false false none) := by decide +kernel
theorem test_printed_37 : decode 0xC88A8001#32 = .ok (.tmvrow false 2 5 8 false none) := by decide +kernel
theorem test_printed_38 : decode 0xC88C9004#32 = .ok (.trdcol false 2 6 9 none) := by decide +kernel
theorem test_printed_39 : decode 0xCC4E0000#32 = .ok (.tcfg false 1 7) := by decide +kernel
theorem test_printed_40 : decode 0xCC4E0001#32 = .ok (.tscale false 1 7) := by decide +kernel
theorem test_printed_41 : decode 0xC0022001#32 = .ok (.vupdAdamw false 0 4 8 false false none) := by decide +kernel
theorem test_printed_42 : decode 0xC0002002#32 = .ok (.vsplit false 0 8 false none) := by decide +kernel
theorem test_printed_43 : decode 0x6CE60010#32 = .ok (.cpy 7 6 2#2 false false) := by decide +kernel
theorem test_printed_44 : decode 0x6CE60011#32 = .ok (.cpy 7 6 2#2 false true) := by decide +kernel
theorem test_printed_45 : decode 0x6CE60028#32 = .ok (.cpyq 7 6 1#2) := by decide +kernel
theorem test_printed_46 : decode 0x6D090040#32 = .ok (.cpys 8 9 0#2) := by decide +kernel
theorem test_printed_47 : decode 0x6D4B0070#32 = .ok (.gath 10 11 2#2 false false) := by decide +kernel
theorem test_printed_48 : decode 0x6CA60098#32 = .ok (.scad 5 6 3#2 false false) := by decide +kernel
theorem test_printed_49 : decode 0x6CA600B8#32 = .ok (.coll 5 6 3#2) := by decide +kernel
theorem test_printed_50 : decode 0x6CA600D0#32 = .ok (.pub 5 6 2#2) := by decide +kernel
theorem test_printed_51 : decode 0x6D2700E0#32 = .ok (.tokw 9 7) := by decide +kernel
theorem test_printed_52 : decode 0x6D270100#32 = .ok (.toks 9 7) := by decide +kernel
theorem test_printed_53 : decode 0x6CA60120#32 = .ok (.mig 5 6) := by decide +kernel
theorem test_printed_54 : decode 0x70A63810#32 = .ok (.kvfork 5 6 7 2#2) := by decide +kernel
theorem test_printed_55 : decode 0x714638B4#32 = .ok (.kvpin 10 6 7 2#2 true false false) := by decide +kernel
theorem test_printed_56 : decode 0x70A638D0#32 = .ok (.kvlook 5 6 7 2#2) := by decide +kernel
theorem test_printed_57 : decode 0x90811000#32 = .ok (.vaddVV false 8 2 4 false false none) := by decide +kernel
theorem test_printed_58 : decode 0xB4128CC6#32 = .ok (.vmfltVV false 1 5 3 false false (some 2#2)) := by decide +kernel
theorem test_printed_59 : decode 0xB8158C08#32 = .ok (.vmfgt false 1 11 3 false none) := by decide +kernel
theorem test_printed_60 : decode 0xBC901401#32 = .ok (.vmvxs false 9 5 false) := by decide +kernel
theorem test_printed_61 : decode 0xC4444400#32 = .ok (.tcross false 1 2 4 1 false false none) := by decide +kernel
theorem test_notPrinted_1 : decode 0x30C50145#32 = .error .reserved := by decide +kernel
theorem test_notPrinted_2 : decode 0x84830002#32 = .error .reserved := by decide +kernel
theorem test_notPrinted_3 : decode 0x8404B085#32 = .error .reserved := by decide +kernel
theorem test_notPrinted_4 : decode 0xC4821C01#32 = .error .reserved := by decide +kernel
theorem test_notPrinted_5 : decode 0x6CE60029#32 = .error .reserved := by decide +kernel
theorem test_notPrinted_6 : decode 0x6CA60140#32 = .error .undefined := by decide +kernel

/-! ## States for the tests -/

/-- A strand at hand as `withFetchWord` places one, with `a5`-`a8`. -/
def bA : State :=
  let s := State.reset.booted
  { s with me := { s.me with a := { s.me.a with regs := (((s.me.a.regs.set 5 0x40000).set 6 7).set 7 0x41000).set 8 0xFFFFFFFFFFFFFFFF } } }
/-- The X-thread of that strand, with `x5`-`x8`. -/
def bX : State := { bA with thr := .x, me := { bA.me with x := { bA.me.x with
  regs := (((bA.me.x.regs.set 5 0x40000).set 6 7).set 7 0x3F800000).set 8 0x40000000 } } }
/-- Both threads in S mode. -/
def bAS : State := { bA with me := { bA.me with a := { bA.me.a with priv := .s }, x := { bA.me.x with priv := .s } } }
def bXS : State := { bX with me := { bX.me with a := { bX.me.a with priv := .s }, x := { bX.me.x with priv := .s } } }
/-- An open queue with one entry. -/
def oneEntry : Queue := ⟨[⟨0x55, none, false⟩], false⟩
def bQ : State := { bX with me := { bX.me with queues := (bX.me.queues.set 0 oneEntry).set 12 oneEntry } }
/-- A vector type: FP32, one register a group, `vl` 4. -/
def bV : State := { bX with vu := { bX.vu with vtype := 0, vl := 4 } }

/-! ## Witnesses: the machine, operands, scalar words -/

theorem witness_StepRunsDecoded :
    let s := State.reset.withFetchWord 32 0x08A50010
    s.inputs = [] ∧ s.stopped = false ∧ s.me.status = .placed ∧ s.me.stop = [] ∧ s.cur.ready = true ∧ s.slice < sliceLength ∧
      s.held = none ∧ s.cur.pend = none ∧ s.trapsAhead = false ∧ s.me.resumeAt = none ∧ (∃ s1, { s with slice := s.slice + 1 }.fetch = .word 0x08A50010#32 s1) ∧
      decode 0x08A50010#32 = .ok (.addi 5 5 16#16) ∧ check 0x30C50145#32 = .error .reserved :=
  ⟨rfl, rfl, rfl, rfl, by decide +kernel, by decide +kernel, by decide +kernel, by decide +kernel, by decide +kernel, by decide +kernel, ⟨_, rfl⟩, by decide +kernel, by decide +kernel⟩
theorem witness_StepRunsDecoded_trap :
    let s := { bA with me := { bA.me with a := { bA.me.a with pc := 0x8000000000000000 } } }
    (match s.fetch with | .trap _ => true | _ => false) = true ∧ s.me.status = .placed ∧ s.cur.ready = true := by decide +kernel
theorem witness_StepTakesInput :
    let s := { bA with inputs := [.event .aging, .turn 1 .x] }
    s.inputs = .event .aging :: [.turn 1 .x] ∧ Instr.isEvent .aging = true ∧ s.stopped = false ∧
      ({ bA with inputs := [.turn 1 .x] } : State).inputs = .turn 1 .x :: [] ∧ ({ bA with stopped := true } : State).stopped = true ∧
      (Input.event (Instr.coldReset 5)).isColdReset = true ∧ ({ bA with inputs := [.agents []] } : State).inputs = .agents [] :: [] ∧
      ({ bA with inputs := [.flying 1 []] } : State).inputs = .flying 1 [] :: [] ∧
      ({ bA with inputs := [.forward 1 .a] } : State).inputs = .forward 1 .a :: [] := by decide +kernel
theorem witness_DecodeOfEncode : (Instr.addi 5 5 16#16).wellFormed = true ∧ (Instr.addi 5 5 16#16).isEvent = false := by decide +kernel
theorem witness_StepKeepsMemoryCanonical : State.reset.Inv ∧ ∃ t, step (State.reset.withFetchWord 32 0x08A50010) = .next t := by
  refine ⟨⟨by decide, ?_, by decide⟩, _, rfl⟩
  intro m h
  simp [State.reset] at h
  subst h
  decide
theorem witness_FailedChecks : Instr.isEvent (.fmac 5 6 7) = false ∧ checks (encode (.fmac 5 6 7)) bA = some (0x01, 2, encode (.fmac 5 6 7)) ∧
    wMaj (encode (.wfi)) < 0x20 ∧ checks (encode .wfi) bA = some (0x11, 0, encode .wfi) ∧
    check 0x6CA60140#32 = .error .undefined ∧ check 0x30C50145#32 = .error .reserved := by decide +kernel
theorem witness_OperandsAtHand :
    let o : AOp := ⟨0, 0, 0, .load 5 8 false false, 0x40000, ⟨.mem 0x40000, none, none, none, []⟩, 0⟩
    let s := { bA with me := { bA.me with aops := [o] } }
    scalarForm (.add 7 5 6) = some ([5, 6], some 7) ∧ s.passes (.add 7 5 6) = true ∧ s.gate [5, 6] (some 7) = .stall .operand ∧
      bX.thr = .x ∧ (24 ≤ (24#5).toNat ∧ bQ.me.assists = 0 ∧ (bQ.queue 0).items.head? = some ⟨0x55, none, false⟩) :=
  ⟨rfl, by decide +kernel, by rfl, rfl, by decide +kernel⟩
theorem witness_RegisterFields : bA.isPort 5 = false ∧ (5#5 : RegNo) ≠ 0 ∧ bQ.isPort 24 = true ∧
    (bQ.queue ((24#5).toNat - 24)).items = ⟨0x55, none, false⟩ :: [] ∧ (24#5).toNat < 28 := by decide +kernel
theorem witness_IntegerWords : (∃ f, intTwo (.add 7 5 6) = some (7, 5, 6, f)) ∧ bA.mayWrite 7 = true ∧ bA.atHand [5, 6] (some 7) = true ∧
    (∃ f, intOne (.clz 7 5) = some (7, 5, f)) ∧ bA.atHand [5] (some 7) = true := ⟨⟨_, rfl⟩, rfl, by decide +kernel, ⟨_, rfl⟩, by decide +kernel⟩
theorem witness_ImmediateWords : bX.mayWrite 7 = true ∧ bX.mayWrite 27 = true ∧ bX.atHand [5] (some 7) = true ∧ bX.atHand [] (some 7) = true := by
  decide +kernel
theorem witness_ScalarFloatWords : (∃ f, fpWord (.fmac 5 6 7) = some (5, [6, 7, 5], f)) ∧ bX.thr = .x ∧ (5#5).toNat < 28 ∧
    bX.atHand [6, 7, 5] (some 5) = true := ⟨⟨_, rfl⟩, rfl, by decide, by decide +kernel⟩
theorem witness_BranchesAndJumps : (∃ f, branchWord (.beq 5 6 0xFFFD#16) = some (5, 6, 0xFFFD#16, f)) ∧ bA.atHand [5, 6] none = true ∧
    bA.mayWrite 1 = true ∧ bA.atHand [] (some 1) = true ∧ bA.atHand [5] (some 1) = true := ⟨⟨_, rfl⟩, by decide +kernel, rfl, by decide +kernel, by decide +kernel⟩
/-- The launch of the test strand makes its level 0 temporal. -/
def tLaunch : Launch :=
  { token := 0, ctx := 1, queue := 0, pos := 0, record := BitVec.ofNat 1024 (2 ^ 128 * 3 + 2 ^ 160 * 2 ^ 160), waits := [],
    eligible := none, expanded := true, cause := none, lost := false, aging := 0, uids := [1] }
def bT : State := { bA with launches := [tLaunch] }
theorem witness_LoopWords : (5#3).toNat < 6 ∧ bT.atHand [] none = true ∧ bT.levelKind 0 = 1 ∧ bT.levelKind 5 ≠ 1 ∧
    bT.mayWrite 7 = true ∧ bT.atHand [] (some 7) = true := by decide +kernel
theorem witness_ScalarWordFrame : scalarForm (.add 7 5 6) = some ([5, 6], some 7) ∧ bA.passes (.add 7 5 6) = true ∧
    bA.atHand [5, 6] (some 7) = true ∧ (∃ t, exec (.add 7 5 6) bA = .next t) ∧ scalarForm (.fadd 7 5 6) = some ([5, 6], some 7) ∧
    bX.passes (.fadd 7 5 6) = true := ⟨rfl, by decide +kernel, by decide +kernel, ⟨_, rfl⟩, rfl, by decide +kernel⟩

/-! ## Witnesses: memory, queues, CSRs -/

theorem witness_MemoryWordsIssue : loadWord (.ldd 7 5 0) = some (7, 5, 0, 8, false, none) ∧ bA.thr = .a ∧ bA.atHand [5] (some 7) = true ∧
    (∃ p u, bA.scalarPlace 0x40000 8 .load = .ok (p, u)) ∧ bA.scalarPlace 0x40001 8 .load = .trap 0x03 0 0x40001 ∧
    storeWord (.std 6 5 0) = some (6, 5, 0, 8, none) ∧ bA.atHand [5, 6] none = true ∧ (∃ p u, bA.scalarPlace 0x40000 8 .store = .ok (p, u)) ∧
    amoWord (.amoAdd 7 5 6 1#2 2#2 true) = some (0, 7, 5, 6, 8, some 2#2, none) ∧ bA.atHand [5, 6, 7] (some 7) = true ∧
    (∃ p u, bA.scalarPlace 0x40000 8 .amo = .ok (p, u)) :=
  ⟨rfl, rfl, by decide +kernel, ⟨_, _, rfl⟩, by rfl, rfl, by decide +kernel, ⟨_, _, rfl⟩, by rfl, by decide +kernel, ⟨_, _, rfl⟩⟩
theorem witness_AddressChecks : (0x40001#64).toNat % 8 ≠ 0 ∧ inWindow 0xFF00000002000000#64 = true ∧
    2 ^ 25 ≤ (0xFF00000002000000#64).toNat % 2 ^ 32 ∧ (0xFF0000000000FFF9#64).toNat % 2 ^ 32 / 2 ^ 23 = bA.me.core % 4 ∧
    bA.me.scratch < (0xFF00000000010000#64).toNat % 2 ^ 23 + 8 ∧ bA.surfs bA.me.ctx = [] ∧ canonical 0x8000000000000000#64 = false ∧
    bA.tlbHit 1 0 (some 0) 0x80000000#64 = none ∧ bA.walk 1 0x80000000#64 = .invalid := by decide +kernel
theorem witness_AddressChecks_permits :
    let s := (bA.writePa 0x3E020000 8 0xDB)
    (match s.walk 1 0x40000#64 with | .leaf e _ _ => !permits e .load s.cur.priv | _ => false) = true ∧ canonical 0x40000#64 = true ∧
      s.surfs s.me.ctx = [] ∧ s.tlbHit 1 0 (some 0) 0x40000#64 = none := by decide +kernel
theorem witness_AddressChecks_reach : (∃ m, bA.rankStrand bA.me 0 = some m ∧ 0xFFF8 + 8 ≤ m.scratch) ∧
    (∃ pa e q u, bA.translateMe 0x40000 .load bA.cur.priv = .ok pa e q u ∧ e.getLsbD 9 = false ∧ bA.tierOf pa ≠ 1) :=
  ⟨⟨_, rfl, by decide +kernel⟩, ⟨_, _, _, _, rfl, by decide +kernel, by decide +kernel⟩⟩
/-- A strand with a pending load, a pending store before it, or a pending atomic. -/
def pend (k : AKind) : AOp := ⟨0, 0x30000, 0, k, 0x40000, ⟨.mem 0x40000, none, none, none, []⟩, 0⟩
def bP (k : AKind) : State := { bA with me := { bA.me with aops := [pend k], anext := 1 } }
def bLoad : State := bP (.load 7 8 false false)
def bStore : State := bP (.store 8 0x1122334455667788 false)
def bAmo : State := bP (.amo 7 0 8 5 0 false false)
theorem canonical_reset : Memory.wf bA.mem = true ∧ bA.me.pad = [] ∧ bA.me.lanes = [] ∧ bA.peers = [] ∧ bA.preloads = [] := by decide +kernel
/-- The invariant of a state made from the test strand: its memories are those of `bA`. -/
theorem inv_of (s : State) (h1 : Memory.wf s.mem = true) (h2 : Memory.wf s.me.pad = true) (h3 : Memory.wf s.me.lanes = true)
    (h4 : s.peers = []) (h5 : s.preloads = []) : s.Inv := by
  refine ⟨h1, ?_, ?_⟩
  · intro m h
    rw [h4] at h
    simp at h
    subst h
    exact ⟨h2, h3⟩
  · rw [h5]; simp
theorem witness_MemoryPerforms_load : bLoad.me.aops.find? (fun e => e.id == 0) = some (pend (.load 7 8 false false)) ∧
    bLoad.loadReady (pend (.load 7 8 false false)) = true ∧ bLoad.bufferHit 0 (.mem 0x40000) 8 = none ∧
    bLoad.poisonedAt (.mem 0x40000) 8 = false ∧ ({ bLoad with poison := [0x4000] } : State).poisonedAt (.mem 0x40000) 8 = true := by decide +kernel
theorem witness_MemoryPerforms_forward :
    let s := { bA with me := { bA.me with aops := [pend (.store 8 5 false), { pend (.load 7 4 false false) with id := 1 }] } }
    s.loadReady { pend (.load 7 4 false false) with id := 1 } = true ∧ s.bufferHit 1 (.mem 0x40000) 4 = some (pend (.store 8 5 false)) ∧
      Loc.covers (.mem 0x40000) 8 (.mem 0x40000) 4 = some 0 := by decide +kernel
theorem witness_MemoryPerforms_store : bStore.Inv ∧ bStore.drainNext = some (pend (.store 8 0x1122334455667788 false)) ∧
    bStore.drainReady (pend (.store 8 0x1122334455667788 false)) = true ∧ 8 ∈ accessSizes ∧ 0x40000 % 8 = 0 ∧ bStore.fct = 0 :=
  ⟨inv_of _ (by decide +kernel) (by decide +kernel) (by decide +kernel) rfl rfl, by decide +kernel, by decide +kernel, by decide, by decide, by decide +kernel⟩
theorem witness_MemoryPerforms_amo : bAmo.Inv ∧ bAmo.me.aops.find? (fun e => e.id == 0) = some (pend (.amo 7 0 8 5 0 false false)) ∧
    bAmo.amoReady (pend (.amo 7 0 8 5 0 false false)) = true ∧ bAmo.poisonedAt (.mem 0x40000) 8 = false ∧ bAmo.fct = 0 :=
  ⟨inv_of _ (by decide +kernel) (by decide +kernel) (by decide +kernel) rfl rfl, by decide +kernel⟩
theorem witness_QueueWords : (bQ.queue 0).items = ⟨0x55, none, false⟩ :: [] ∧ (bQ.afterStreams 0).holds = true ∧ (bQ.queue 1).items = [] ∧
    bA.passes (.qpush 6 0) = true ∧ bA.atHand [6] none = true ∧ ((bA.after1 6).pushReady 0).holds = true ∧
    ((bA.after1 6).afterStreams 0).holds = true ∧ bA.thr = .a ∧ (bA.pushReady 12).holds = true ∧ (bA.afterStreams 12).holds = true ∧
    bQ.passes (.qpop 7 0) = true ∧ bQ.atHand [] (some 7) = true ∧ (bQ.headReady 0).holds = true ∧ bQ.passes (.qpeek 7 0) = true ∧
    bQ.thr = .x ∧ bQ.atHand [] none = true ∧ (bQ.headReady 12).holds = true ∧ bQ.passes (.qtest 7 0) = true ∧ bQ.passes (.qdepth 7 0) = true ∧
    bA.passes (.qclose 0) = true ∧ bAS.passes (.qflush 0) = true ∧ bA.atHand [] none = true := by decide +kernel
theorem witness_QueueWordFrame : ∃ t, exec (.qpop 7 0) bQ = .next t ∧ bQ.passes (.qpop 7 0) = true ∧ bQ.me.status = .placed ∧
    t.me.status = .placed ∧ t.cur.wait = .none ∧ t.cur.priv = bQ.cur.priv :=
  ⟨_, rfl, by decide +kernel⟩
/-- The descriptor of a stream: 16-byte granules, one a group, from the start of the window. -/
def bStream (base : Word) : State := { bA with me := { bA.me with a := { bA.me.a with
  regs := ((((bA.me.a.regs.set 9 2).set 12 base).set 13 (2 ^ 32 * 1 + 16)).set 14 (2 ^ 32 * 2 + 16)).set 15 0 } } }
theorem witness_Streams : (bStream 0xFF00000000000000).thr = .a ∧ (bStream 0xFF00000000000000).atHand [] (some 9) = true ∧
    (bStream 0xFF00000000000000).atHand [12, 13, 14, 15] none = true ∧ (bStream 0xFF00000000000000).passes (.sprd 9 12 2) = true ∧
    (bStream 0xFF00000000000000).passes (.spwr 9 12 8) = true ∧
    ((bStream 0xFF00000000000000).streamCheck (encode (.sprd 9 12 2)) 2 #v[0xFF00000000000000, 2 ^ 32 * 1 + 16, 2 ^ 32 * 2 + 16, 0]).holds = true ∧
    (bStream 0xFF00000000000000).flightRoom = true ∧ ((bStream 0xFF00000000000000).queue 2).closed = false ∧
    (bStream 0xFF00000000000000).poisonHead 8 2 = false ∧ inWindow 0x40000#64 = false := by decide +kernel
def streamOp (k : AKind) : AOp := ⟨0, 0x30000, 0, k, 0xFF00000000000000, ⟨.pad 1 0, none, none, none, []⟩, 0⟩
def descr : Vector Word 4 := #v[0xFF00000000000000, 2 ^ 32 * 1 + 16, 2 ^ 32 * 2 + 16, 0]
theorem witness_Streams_sprd :
    let o := streamOp (.sprd 2 descr 1 2)
    let s := { bA with me := { bA.me with aops := [o] } }
    s.me.aops.find? (fun e => e.id == 0) = some o ∧ s.loadReady o = true ∧ (s.queue 2).items.length < capacity 2 ∧
      s.bufferHit 0 (granuleLoc o.place.loc descr 1) 16 = none := by decide +kernel
theorem witness_Streams_spwr :
    let o := streamOp (.spwr 8 descr 0 2)
    let s := { bA with me := { bA.me with aops := [o], queues := bA.me.queues.set 8 oneEntry } }
    s.Inv ∧ s.drainNext = some o ∧ s.mayReach (.pad 1 0) s.me.source = true ∧ s.drainReady o = true ∧ (s.queue 8).items = ⟨0x55, none, false⟩ :: [] ∧ s.tokenDone none = true ∧
      granuleLoc o.place.loc descr 0 = .pad 1 0 ∧ s.me.uid = 1 ∧ s.me.status = .placed :=
  ⟨inv_of _ (by decide +kernel) (by decide +kernel) (by decide +kernel) rfl rfl, by decide +kernel⟩
theorem witness_CsrWords : bA.passes (.csrr 7 0x008) = true ∧ bA.atHand [] (some 7) = true ∧ bX.passes (.csrw 7 5 0x004) = true ∧
    bX.atHand [5] (some 7) = true ∧ bX.passes (.csrs 7 0 0x004) = true ∧ bX.passes (.csrc 7 5 0x004) = true := by decide +kernel

/-! ## Witnesses: synchronisation, traps, system words -/

def bFence : State := { bA with me := { bA.me with a := { bA.me.a with wait := .fence }, x := { bA.me.x with wait := .fence } } }
theorem witness_Fences : bA.thr = .a ∧ bX.thr = .x ∧ bX.me.assists = 0 ∧ bA.atHand [] none = true ∧ bFence.me.a.wait = .fence ∧
    bFence.me.x.wait = .fence ∧ bFence.me.a.halted = false ∧ bFence.me.vops = [] ∧ bFence.me.aops = [] ∧ bA.me.a.wait ≠ .fence ∧
    bA.me.a.halted = false ∧ bA.inForce 3#2 = true := by
  decide +kernel
theorem witness_Barriers : (0#5).toNat < 8 ∧ bA.mixedScopes 0 = false ∧ bA.atHand [] none = true ∧ ((bA.me.bar 0).pend bA.thr) = none ∧
    (match bA.keptPhases 0 1#2 with | some k => decide ((bA.me.bar 0).done bA.thr ≤ k) | none => true) = true ∧ bA.cur.synced ≠ some bA.pc := by
  decide +kernel
theorem witness_Barriers_wait :
    let s := { bA with me := { bA.me with bars := bA.me.bars.set 0 { aDone := 1, xDone := 0, aPend := none, xPend := none, scopes := 1 } } }
    s.mixedScopes 0 = false ∧ ((s.me.bar 0).pend s.thr) = none ∧ s.keptPhases 0 1#2 = some 0 ∧ (s.me.bar 0).done s.thr = 1 ∧
      s.atHand [] none = true := by decide +kernel
theorem witness_Barriers_arrival :
    let s := { bA with me := { bA.me with bars := bA.me.bars.set 0 { aDone := 0, xDone := 0, aPend := some 0, xPend := none, scopes := 1 } } }
    (s.me.bar 0).pend .a = some 0 ∧ s.me.openBelow .a 0 = false ∧ s.mixedScopes 0 = false ∧ s.mayDivert s.me.launch 0 = true ∧
      s.keeper s.me.launch 0 = none ∧ bLoad.me.openBelow .a 1 = true := by decide +kernel
theorem witness_Barriers_synced :
    let s := { bA with me := { bA.me with a := { bA.me.a with synced := some bA.pc } } }
    s.cur.synced = some s.pc ∧ ((s.me.bar 0).pend s.thr) = none ∧ s.atHand [] none = true := by decide +kernel
theorem witness_YieldsAndEvents :
    let e (s : State) : State := { s with me := { s.me with event := true } }
    bA.atHand [] none = true ∧ bA.thr = .a ∧ (e bA).me.event = true ∧ bA.me.event = false ∧ bAS.cur.priv = .s ∧ (e bAS).me.event = true ∧
      bA.atHand [6] none = true ∧ (bA.val1 6).toNat < 256 ∧ bA.atHand [5] none = true ∧ 256 ≤ (bA.val1 5).toNat := by decide +kernel
theorem witness_YieldsAndEvents_delivery :
    let s := { bA with me := { bA.me with sevs := [(.a, 0, 0)] } }
    s.me.sevs = (.a, 0, 0) :: [] ∧ s.me.openBelow .a 0 = false ∧ (∀ m ∈ s.eventTargets s.me.ctx 0, s.imageAt m = true) ∧
      (s.strands.map (·.uid)).Nodup ∧ s.me.resident = true ∧ s.me.slot = 0 ∧ s.me.core = 0 ∧ s.me.die = 0 ∧
      ({ bLoad with me := { bLoad.me with sevs := [(.a, 1, 0)] } } : State).me.openBelow .a 1 = true := by decide +kernel
/-- The trap record's page stands in the TLB. -/
def recPage : TlbEntry := ⟨0, some 0, 1, 0, 2 ^ 30, 0xDF, 0x3E020000⟩
def bTrap : State := { bA with tlb := [recPage] }
theorem witness_TrapEntry : bTrap.Inv ∧ bTrap.cur.priv = .u ∧ bTrap.cur.trec.toNat % 64 = 0 ∧ inWindow bTrap.cur.trec = false ∧
    surfAtIn (bTrap.surfs bTrap.me.ctx) bTrap.cur.trec = none ∧ side1In (bTrap.surfs bTrap.me.ctx) bTrap.cur.trec = none ∧
    recPage.leaf.getLsbD 9 = false ∧ bTrap.tierOf (leafPa recPage.leaf recPage.size bTrap.cur.trec) ≠ 1 ∧ bTrap.cur.trec.toNat % 65536 + 512 ≤ 65536 ∧
    canonical bTrap.cur.trec = true ∧ (∀ k ∈ bTrap.tlb, k.va % 65536 = 0 ∧ k.size % 65536 = 0) ∧
    bTrap.tlbHit bTrap.me.ctx bTrap.me.die (some bTrap.me.core) bTrap.cur.trec = some recPage ∧ permits recPage.leaf .store .s = true ∧
    bTrap.poisonedAt (.mem (leafPa recPage.leaf recPage.size bTrap.cur.trec)) 512 = false ∧ bTrap.me.resuming = false ∧
    bAS.cur.priv = .s ∧ bAS.me.status = .placed ∧ bA.vu.vl < 2 ^ 32 ∧ bA.vu.vstart < 2 ^ 32 ∧ bA.me.xstate.getLsbD 0 = true :=
  ⟨inv_of _ (by decide +kernel) (by decide +kernel) (by decide +kernel) rfl rfl, by decide +kernel⟩
theorem witness_SystemTraps : bA.held = none ∧ bA.atHand [5] none = true ∧ bX.held = none ∧ bX.atHand [] none = true := by decide +kernel
theorem witness_TrapReturn : bAS.atHand [] none = true ∧ bAS.cur.priv = .s ∧ bAS.thr = .a ∧ bXS.atHand [] none = true ∧ bXS.cur.priv = .s ∧
    bXS.thr = .x ∧ bA.cur.priv = .u ∧ field (bXS.readVa 1 bXS.cur.trec 64) 2 2 = 0 ∧
    field ((bXS.writePa 0x20001200 8 (2 ^ 16 * 9)).readVa 1 bXS.cur.trec 64) 2 2 = 9 := by decide +kernel
theorem witness_SystemWords_halt : bA.atHand [] none = true ∧ bA.me.status = .placed ∧ bA.cur.priv = .u ∧ bA.me.cfd = 0 ∧ bA.me.lonely .x = none ∧
    bA.me.aops = [] ∧ bX.me.lonely .a = none ∧ bAS.cur.priv = .s ∧ ({ bA.me with cfd := 1 } : Strand).cfd ≠ 0 := by decide +kernel
theorem witness_SystemWords_tlbi : bAS.thr = .a ∧ bAS.cur.priv = .s ∧ bAS.atHand [5, 6] none = true ∧ (bAS.cur.reg 6).toNat < 2 ^ 18 ∧
    bAS.usesPage (bAS.cur.reg 5) (bAS.cur.reg 6) = false ∧ 2 ^ 18 ≤ (bAS.cur.reg 7).toNat := by decide +kernel
/-- An operation that may fail has not. -/
def went {ε α : Type} : Except ε α → Bool
  | .ok _ => true
  | .error _ => false
theorem witness_SystemWords_save : bXS.thr = .x ∧ bXS.cur.priv = .s ∧ bXS.atHand [5, 6] none = true ∧ (bXS.after2 5 6).vQuiet = true ∧
    saveBitsOk (bXS.val2 5 6) (regCount (bXS.after2 5 6).vu.vcfg) (bXS.after2 5 6).me.ntiles = true ∧ (bXS.val1 5).toNat % 64 = 0 ∧
    went ((bXS.after2 5 6).vsave (bXS.val1 5) (bXS.val2 5 6)) = true ∧ went ((bXS.after2 5 6).vrest (bXS.val1 5) (bXS.val2 5 6)) = true ∧
    went ((bXS.after2 5 6).restCount (bXS.val1 5) (bXS.val2 5 6)) = true ∧
    (bXS.val1 6).toNat % 64 ≠ 0 ∧ (bXS.val2 5 7).toNat / 2 ^ 32 % 2 = 0 ∧
    saveBitsOk 0x8000000000000000 (regCount bXS.vu.vcfg) bXS.me.ntiles = false := by decide +kernel

/-! ## Witnesses: vectors -/

theorem witness_VectorConfiguration : bX.passes (.vcfg 7 6 5) = true ∧ bX.held = none ∧ bX.atHand [6, 5] (some 7) = true ∧
    bX.passes (.vcfgi 7 6 0) = true ∧ bX.atHand [6] (some 7) = true ∧ bX.passes (.vreconf 1) = true ∧ bX.atHand [] none = true ∧
    bX.me.vops = [] ∧ (2 ^ 10 ≤ (bX.val2 6 5).toNat) ∧ ((0#10).zeroExtend 64 : Word).toNat % 32 ≤ 16 := by decide +kernel
/-- The test strand's vectors as i32. -/
def bI : State := { bV with vu := { bV.vu with vtype := 9 } }
theorem witness_ElementWordsComplete : planned (.vaddVV false 8 2 4 false false none) = some [] ∧
    bI.vecReady (.vaddVV false 8 2 4 false false none) [] none = true ∧ planned (.vbcast false 3 6 none) = some [6] ∧
    bV.vecReady (.vbcast false 3 6 none) [6] none = true := ⟨rfl, by decide +kernel, rfl, by decide +kernel⟩
theorem witness_VectorResults : (∃ e, intElem (.vaddVV false 8 2 4 false false none) = some e ∧ e.xs = []) ∧
    bI.vecReady (.vaddVV false 8 2 4 false false none) [] none = true ∧
    (bI.cap (encode (.vaddVV false 8 2 4 false false none))).vl ≤ holds (bI.cap (encode (.vaddVV false 8 2 4 false false none))) bI.vu ∧
    (∃ e, fpElem (.vfmaccVV false 6 3 2 false false none) = some e ∧ e.xs = []) ∧
    bV.vecReady (.vfmaccVV false 6 3 2 false false none) [] none = true ∧
    (∃ e, cvtElem (.vfcvtN false 4 0 8 false none) = some e ∧ e.xs = []) ∧
    ({ bV with vu := { bV.vu with vtype := 1 } } : State).vecReady (.vfcvtN false 4 0 8 false none) [] none = true ∧
    (bV.cap (encode (.vfcvtN false 4 0 8 false none))).rm ≠ 4 ∧
    (∃ e, moveElem (.vmv false 4 8 false none) = some e ∧ e.xs = []) ∧ bV.vecReady (.vmv false 4 8 false none) [] none = true :=
  ⟨⟨_, rfl, rfl⟩, by decide +kernel, by decide +kernel, ⟨_, rfl, rfl⟩, by decide +kernel, ⟨_, rfl, rfl⟩, by decide +kernel, by decide +kernel,
    ⟨_, rfl, rfl⟩, by decide +kernel⟩
theorem witness_MaskResults : (∃ e, maskElem (.vmfltVV false 1 5 3 false false none) = some e ∧ e.xs = []) ∧
    bV.vecReady (.vmfltVV false 1 5 3 false false none) [] none = true ∧
    (bV.cap (encode (.vmfltVV false 1 5 3 false false none))).vl ≤ holds (bV.cap (encode (.vmfltVV false 1 5 3 false false none))) bV.vu ∧
    (bV.cap (encode (.vmfltVV false 1 5 3 false false none))).g ≤ regCount bV.vu.vcfg := ⟨⟨_, rfl, rfl⟩, by decide +kernel⟩
theorem witness_ReductionResults : (∃ e, redWord (.vfredmax false 5 5 4 false false none) = some e) ∧
    bV.vecReady (.vfredmax false 5 5 4 false false none) [] none = true ∧ bV.vecReady (.vfredsum false 5 5 4 false false (some 1)) [] none = true ∧
    (bV.cap (encode (.vfredsum false 5 5 4 false false (some 1)))).vl ≠ 0 ∧
    (∀ j < (bV.cap (encode (.vfredsum false 5 5 4 false false (some 1)))).vl, maskAdmits (some 1) bV.vu j = false) :=
  ⟨⟨_, rfl⟩, by decide +kernel⟩
/-- The test strand's vectors as BF16. -/
def bB : State := { bV with vu := { bV.vu with vtype := 1 } }
theorem witness_PackingAndPlanes : bV.vecReady (.vpush false 10 6 2 false false none) [] none = true ∧
    (bV.cap (encode (.vpush false 10 6 2 false false none))).vl ≤ holds (bV.cap (encode (.vpush false 10 6 2 false false none))) bV.vu ∧
    (bV.cap (encode (.vpush false 10 6 2 false false none))).vstart < (bV.cap (encode (.vpush false 10 6 2 false false none))).vl ∧
    bV.vecReady (.vcomp false 10 6 false none) [] none = true ∧ 0 < (bV.cap (encode (.vcomp false 10 6 false none))).vl ∧
    bB.vecReady (.vsplit false 0 8 false none) [] none = true ∧ maskAdmits none bV.vu 3 = true ∧
    lgAt (bB.cap (encode (.vsplit false 0 8 false none))).lgp (lgOf 16 3) ≤ 3 := by decide +kernel
theorem witness_VectorScalarMoves : bV.vecReady (.mcount false 7 1 none) [] (some 7) = true ∧ bV.vecReady (.mlow false 7 1 none) [] (some 7) = true ∧
    bV.vecReady (.vmvxs false 9 5 false) [] (some 9) = true ∧ bV.vecReady (.vmvsx false 5 6) [6] none = true ∧
    (bV.cap (encode (.vmvsx false 5 6))).vstart = 0 ∧ 0 < (bV.cap (encode (.vmvsx false 5 6))).vl := by decide +kernel
def bVQ : State := { bV with me := { bV.me with queues := bV.me.queues.set 3 oneEntry } }
theorem witness_VectorScalarMoves_queues : bVQ.vecReady (.vqpop false 2 3) [] none = true ∧ (bVQ.cap (encode (.vqpop false 2 3))).vstart = 0 ∧
    ((bVQ.cap (encode (.vqpop false 2 3))).vl * (bVQ.cap (encode (.vqpop false 2 3))).w + 127) / 128 ≤ (bVQ.queue 3).items.length ∧
    (∀ e ∈ (bVQ.queue 3).items.take 1, e.poison = false) ∧ bV.vecReady (.vqpush false 0 2 false) [] none = true ∧
    (bV.queue 8).closed = false ∧ (bV.queue 8).items.length + 1 ≤ 512 ∧ bV.vecReady (.vnsrd false 2) [] none = true ∧
    bV.vecReady (.vnswr false 2 false) [] none = true := by decide +kernel
theorem witness_RoundingAndScales : 3 ∈ [3, 4, 5, 6, 7, 8, 11, 12] ∧ 0 < blockScale 3 (7, 0) ∧ blockScale 3 (7, 0) < 254 ∧
    0x7F800000 < 2 ^ Fmt.f32.width ∧ (Fmt.f32.decode 0x7F800000).isNan = false := by decide +kernel

/-! ## Witnesses: vector memory, tiles -/

/-- What a word has to go through in the test strand: its accesses and what the pages answer. -/
def look (i : Instr) (e : MemWord) (s : State) : Scan :=
  let c := s.cap (encode i)
  let v := (s.inConvoy c).reads e.xs
  (e.start i s).examine (if e.strip then 1 else c.w / 8) e.store (e.accesses c s.vu (v.2.headD 0) (v.2.getD 1 0))
def memReady (i : Instr) (s : State) : Bool :=
  match memWord i with
  | some e => s.vecReady i e.xs none && decide ((s.cap (encode i)).vstart < (s.cap (encode i)).vl) && (look i e s).wait.isNone
  | none => false
theorem witness_VectorMemoryWords : memReady (.vle false 4 5 none) bV = true ∧
    (match memWord (.vle false 4 5 none) with | some e => (look (.vle false 4 5 none) e bV).bad.isEmpty | none => false) = true ∧
    memReady (.vse false 4 5 false none) bV = true ∧
    (match memWord (.vse false 4 5 false none) with | some e => (look (.vse false 4 5 false none) e bV).bad.isEmpty | none => false) = true := by
  decide +kernel
/-- Its base in `x5` moved. -/
def bVAt (x : Word) : State := { bV with me := { bV.me with x := { bV.me.x with regs := bV.me.x.regs.set 5 x } } }
theorem witness_VectorMemoryWords_faults :
    (match memWord (.vle false 4 5 none) with
     | some e => (look (.vle false 4 5 none) e (bVAt 0x3FFFFFF8)).bad.map (fun f => (f.1.i, f.2.1)) | none => []) = [(2, 0x04)] ∧
    (match memWord (.vle false 4 5 none) with
     | some e => (look (.vle false 4 5 none) e (bVAt 0x40000000)).bad.map (fun f => (f.1.i, f.2.1)) | none => []) = [(0, 0x04)] ∧
    (match memWord (.vse false 4 5 false none) with
     | some e => ((look (.vse false 4 5 false none) e (bVAt 0x3FFFFFF8)).bad.map (fun f => (f.1.i, f.2.1))).head? | none => none) = some (2, 0x05) ∧
    bV.me.ahead = [] := by decide +kernel
theorem witness_SpecialMemoryWords_scales : bV.vecReady (.vlsc false 1 5) [5] none = true ∧ bV.vecReady (.vssc false 1 5) [5] none = true ∧
    ((bV.issued (.vlsc false 1 5) [5]).examine 1 false (scaleList (bV.cap (encode (.vlsc false 1 5))) 0x40000)).bad.isEmpty = true ∧
    ((bV.issued (.vssc false 1 5) [5]).examine 1 true (scaleList (bV.cap (encode (.vssc false 1 5))) 0x40000)).bad.isEmpty = true := by
  decide +kernel
theorem witness_SpecialMemoryWords_pages : bB.vecReady (.vlkv false 0 5 5) [5, 5] none = true ∧ (0x40000#64).toNat % 64 = 0 ∧
    (bB.me.kvpos.getLsbD 63 = false) ∧ bB.me.ahead = [] ∧ (0x40004#64).toNat % 64 ≠ 0 := by decide +kernel
/-- A `vlkv` of one page of one token of four elements: its block at 0x80000, its entry at 0x90000, the page at 0xA0000, its list
of misses at 0x84000. -/
def bKv : State :=
  let s := (bV.writePa 0x80000 64 (0x90000 + 2 ^ 64 + 2 ^ 96 + 2 ^ 112 + 2 ^ 128 * 16 + 2 ^ 176 * 4 + 2 ^ 224)).writePa 0x90000 32
    (0xA0000 + 2 ^ 96)
  { s with me := { s.me with x := { s.me.x with regs := (s.me.x.regs.set 5 0x84000).set 6 0x80000 } } }
def bKvStart : KvBlock × KvRun :=
  let k0 : KvRun := { s := (((bKv.inConvoy (bKv.cap (encode (.vlkv false 0 5 6)))).reads [5, 6]).1).drawFree.2
                      i := 0, e := 0, t := 0, fault := none, wait := none, ops := [], toks := [], reads := [], writes := [] }
  let p := k0.load 0x80000 64 true
  (KvBlock.of p.1, p.2)
def bKvNote : KvNote := { block := 0, start := bKv.me.kvpos, entry := false, token := false, pages := [], span := none, active := 4 }
def bKvRun (n : Nat) : KvRun := kvLoop (bKv.cap (encode (.vlkv false 0 5 6))) bKvStart.1 0x84000 0 4 bKvNote n bKvStart.2
theorem witness_SpecialMemoryWords_vlkv : bKv.vecReady (.vlkv false 0 5 6) [5, 6] none = true ∧ bKvStart.2.wait = none ∧
    bKvStart.2.fault.isNone = true ∧ bKvStart.1.ok (bKv.cap (encode (.vlkv false 0 5 6))) false = true ∧
    bKv.me.kvpos.getLsbD 63 = false ∧ bKvStart.2.more bKvStart.1 4 = true ∧ (bKvRun 1).i = 4 ∧ (bKvRun 1).e = 1 := by decide +kernel
theorem witness_SpecialMemoryWords_vlkv_runs : ∀ n, 0 < n → (bKvRun n).wait = none ∧ (bKvRun n).fault = none := by
  intro n hn
  obtain ⟨m, rfl⟩ : ∃ m, n = m + 1 := ⟨n - 1, by omega⟩
  have h : (bKvRun 1).more bKvStart.1 4 = false ∧ (bKvRun 1).wait.isNone = true ∧ (bKvRun 1).fault.isNone = true := by decide +kernel
  rw [show bKvRun (m + 1) = bKvRun 1 from kvLoop_once h.1 m]
  exact ⟨Option.isNone_iff_eq_none.mp h.2.1, Option.isNone_iff_eq_none.mp h.2.2⟩
/-- A lane store and offsets 0 to 3. -/
def bLane : State := { bI with me := { bI.me with lanestore := 256, x := { bI.me.x with regs := bI.me.x.regs.set 5 0 } },
                               vu := { bI.vu with regs := 0x00000003000000020000000100000000 <<< 16384 } }
theorem witness_SpecialMemoryWords_lanes : bLane.vecReady (.vlld false 4 5 1 none) [5] none = true ∧
    bLane.vecReady (.vlst false 4 5 1 false none) [5] none = true ∧ bLane.vecReady (.vlla false 4 5 1 none) [5] none = true ∧
    Memory.wf bLane.me.lanes = true ∧ (bLane.operand (.vlld false 4 5 1 none) [5]).toNat < 2 ^ 17 ∧ bLane.me.lanestore ≤ 131072 ∧
    (∀ j ∈ performed (bLane.cap (encode (.vlld false 4 5 1 none))) none bLane.vu, (0 + bLane.vu.elem 1 32 j * 4) % 4 = 0 ∧
      bLane.vu.elem 1 32 j * 4 + 4 ≤ 256) := by decide +kernel
def vop (k : VKind) : VOp := ⟨0, 0, 0x30000, k, 0x40000, ⟨.mem 0x40000, none, none, none, []⟩, none, 0, 0, false, 0, 0⟩
def bVop (k : VKind) : State := { bV with me := { bV.me with vops := [vop k], vnext := 1 } }
theorem witness_VectorOperationsPerform : (bVop (.load 0 32)).me.vops.find? (fun e => e.id == 0) = some (vop (.load 0 32)) ∧
    (bVop (.load 0 32)).vReady (vop (.load 0 32)) = true ∧ (bVop (.load 0 32)).poisonedAt (.mem 0x40000) 4 = false ∧
    (bVop (.load 0 32)).vu.owner = some (bVop (.load 0 32)).me.uid ∧ (bVop (.scale 1 3)).vReady (vop (.scale 1 3)) = true ∧
    (bVop (.store 32 7)).vReady (vop (.store 32 7)) = true ∧ Memory.wf (bVop (.store 32 7)).mem = true ∧ 4 ∈ accessSizes := by decide +kernel
/-- A work queue of four-byte entries with room for eight, its header at 0x40000 and its ring at 0x50000. -/
def bWork : State :=
  let s := bI.writePa 0x40000 64 (0x50000 + 2 ^ 64 * 8 + 2 ^ 96 * 4 + 2 ^ 160 * 2 ^ 160)
  { s with me := { s.me with x := { s.me.x with regs := s.me.x.regs.set 5 0x40000 } } }
theorem witness_AppendWords : bWork.vecReady (.vappend false 7 5 3 false none) [5] (some 7) = true ∧
    (bWork.issued (.vappend false 7 5 3 false none) [5]).vQuiet = true ∧ bWork.me.append = none ∧
    (match (bWork.issued (.vappend false 7 5 3 false none) [5]).workQueue (encode (.vappend false 7 5 3 false none)) 0x40000 32 with
     | .ok (q, p, u) => p.loc == .mem 0x40000 && q.cap == 8 && (match u.ringPages (pageStarts q.base (q.cap * q.esize)) with
       | .ok w => (w.examine q.esize true ((List.range 4).map (fun j => ⟨j, q.base + BitVec.ofNat 64 (4 * j), 4, 0, 32, 32 * j⟩))).bad.isEmpty
       | _ => false)
     | _ => false) = true := by decide +kernel
/-- A `vappend` of two elements that stands at its commit. -/
def bApp (done : Bool) : State := { bWork with me := { bWork.me with append := some ⟨bWork.pc, 2, 0x50000, 0x50004, done⟩ } }
theorem witness_AppendWords_completes : (bApp true).passes (.vappend false 7 5 3 false none) = true ∧ (bApp true).held = none ∧
    ((bApp true).me.append.map (fun a => (a.pc == (bApp true).pc, a.done))) = some (true, true) ∧
    ((bApp false).me.append.map (fun a => (a.pc == (bApp false).pc, a.done))) = some (true, false) := by decide +kernel
theorem witness_AppendWords_commit :
    let o : VOp := { vop (.commit 0 1 0 0 []) with place := ⟨.mem 0x40010, none, none, none, []⟩ }
    let s := { bV with me := { bV.me with vops := [o] } }
    s.me.vops.find? (fun e => match e.kind with | .commit _ _ _ _ _ => true | _ => false) = some o ∧ s.commitReady o 0 = true ∧
      0x40010 % 64 = 16 ∧ s.commitReady o 1 = false := by decide +kernel
/-- Tile 0 in FP32 at exponent 0. -/
def bTile : State := { bB with tiles := assocSet bB.tiles 0 { holder := some (1, 0), header := 0x1000, cells := 0 } }
theorem witness_TileWords : bTile.vecReady (.tcross false 0 2 3 0 false false none) [] none = true ∧
    (bTile.cap (encode (.tcross false 0 2 3 0 false false none))).vl ≠ 0 ∧ (bTile.tile (bTile.me.tileNo 0)).fmt = Cross.plus.fmt ∧
    (bTile.tile (bTile.me.tileNo 0)).sexp = (((bTile.cap (encode (.tcross false 0 2 3 0 false false none))).lscale.extractLsb' 0 8)).toInt ∧
    ({ bTile with vu := { bTile.vu with vtype := 0 } } : State).vecReady (.tzero false 0) [] none = true ∧ bTile.vecReady (.tstat false 0 5) [] (some 5) = true ∧
    bTile.vecReady (.tcfg false 0 6) [6] none = true ∧ bTile.vecReady (.tscale false 0 6) [6] none = true ∧
    (((bTile.operand (.tscale false 0 6) [6]).setWidth 8).signExtend 64 = bTile.operand (.tscale false 0 6) [6]) ∧
    (bTile.tile (bTile.me.tileNo 0)).fmt ≠ 1 := by decide +kernel
theorem witness_TileWords_moves :
    let s := { bTile with vu := { bTile.vu with vtype := 0 } }
    s.vecReady (.tmvrow false 0 6 8 false none) [6] none = true ∧ s.vecReady (.tmvcol false 0 6 8 false none) [6] none = true ∧
      s.vecReady (.trdrow false 0 6 8 none) [6] none = true ∧ s.vecReady (.trdcol false 0 6 8 none) [6] none = true ∧
      (s.operand (.tmvrow false 0 6 8 false none) [6]).toNat + (4 + 127) / 128 ≤ 128 ∧ 128 < (bX.cur.reg 5).toNat + (4 + 127) / 128 := by decide +kernel
theorem witness_TileWords_kinds :
    let i8 := { bTile with vu := { bTile.vu with vtype := 11 }, tiles := assocSet bTile.tiles 0 { holder := some (1, 0), header := 0x1100, cells := 0 } }
    i8.vecReady (.tcrossI false 0 2 3 0 false false none) [] none = true ∧ (i8.tile (i8.me.tileNo 0)).fmt = Cross.int.fmt ∧
      bTile.vecReady (.tcrossm false 0 2 3 0 false false none) [] none = true ∧
      ({ bTile with vu := { bTile.vu with vtype := 3 } } : State).vecReady (.tcrossS false 0 8 16 false false none) [] none = true := by decide +kernel

/-! ## Witnesses: engines, pages, the agent, chains -/

/-- The test strand with `a5`. -/
def withA5 (s : State) (x : Word) : State := { s with me := { s.me with a := { s.me.a with regs := s.me.a.regs.set 5 x } } }
/-- A copy of 16 bytes from 0x70000 to 0x71000, its block at 0x60000. -/
def copyBlock : Nat := 0x70000 + 2 ^ 64 * 0x71000 + 2 ^ 128 * 16 + 2 ^ 160
def bE : State := withA5 (bA.writePa 0x60000 64 copyBlock) 0x60000
theorem witness_EngineWordsIssue : (∃ chk, engineWord (.cpy 7 5 0 false false) = some (7, 5, 0, 0, 0, chk)) ∧
    bE.passes (.cpy 7 5 0 false false) = true ∧ bE.thr = .a ∧ bE.atHand [5] (some 7) = true ∧ bE.commandsFull = false ∧
    (match bE.readBlock 0x60000 with | .ok (b, u) => b == copyBlock && (u.cpyCheck (encode (.cpy 7 5 0 false false)) 0 b).holds | _ => false) = true ∧
    (match bE.readBlock 0x50000 with | .ok (b, u) => !(u.cpyCheck (encode (.cpy 7 5 0 false false)) 0 b).holds | _ => false) = true ∧
    (match bE.readBlock 0x60001 with | .trap c _ v => c == 0x03 && v == 0x60001 | _ => false) = true ∧
    bE.me.ctx < 2 ^ 16 ∧ bE.lastSerial 1 0x800 < 2 ^ 32 - 1 := ⟨⟨_, rfl⟩, by decide +kernel⟩
/-- Token 1 of engine 0 of die 0 in context 1, and the copy accepted under it. -/
def tok : Word := 0x0001080000000001
def copyCmd : Cmd := Cmd.new tok 0 bE.me 0 0 0 .u copyBlock [] [] 0
def bCmd (c : Cmd) : State := { bE with cmds := [c] }
def cmdOn : Cmd := { copyCmd with started := true }
def cmdRead : Cmd := { cmdOn with held := [(0, List.replicate 16 (7, false))] }
def cmdDone : Cmd := { cmdOn with written := [0] }
def cmdPaused : Cmd := { cmdOn with paused := some (0, 0x04, 0x70000) }
theorem witness_EngineTransitions_units : (bCmd copyCmd).cmd tok = some copyCmd ∧ (bCmd copyCmd).startReady copyCmd = true ∧
    ({ bCmd copyCmd with me := { bE.me with aops := [pend (.store 8 5 false)] } } : State).startReady { copyCmd with aop := 1 } = false ∧
    (bCmd cmdOn).cmdHeld cmdOn = false ∧ cmdOn.hasRead 0 = true ∧ cmdOn.wasRead 0 = false ∧
    (match (bCmd cmdOn).unitRead cmdOn 0 false with | .ok bs _ _ => bs.length == 16 | _ => false) = true ∧
    cmdRead.unitOf 0 = (0, 16, true) ∧ (bCmd cmdRead).rowsBefore cmdRead 0 16 = true ∧ cmdRead.written.contains 0 = false ∧ copyCmd.isTier = false ∧
    (bCmd cmdRead).unitBytes cmdRead 0 16 = some (List.replicate 16 (7, false), 0) ∧ (0 : Nat) < cmdRead.streamLen ∧
    (match (bCmd cmdRead).engPlace cmdRead 0x71000 16 .store false with
     | .ok l _ _ _ d => l == .mem 0x71000 && d.token == tok | _ => false) = true ∧
    (bCmd cmdRead).mayStore cmdRead (.mem 0x71000) (List.replicate 16 (7, false)) = true := by decide +kernel
theorem witness_EngineTransitions_inv : (bCmd cmdRead).Inv := inv_of _ (by decide +kernel) (by decide +kernel) (by decide +kernel) rfl rfl
theorem witness_EngineTransitions_ends : (bCmd cmdDone).cmd tok = some cmdDone ∧ (bCmd cmdDone).unitsDone cmdDone = true ∧ tok ≠ 0 ∧
    (bCmd cmdPaused).cmd tok = some cmdPaused ∧ cmdPaused.paused = some (0, 0x04, 0x70000) ∧ cmdPaused.kind = 0 ∧
    cmdDone.open = true ∧ cmdDone.ctx = tokenCtx tok ∧ (bCmd cmdDone).kvWritable cmdDone = true ∧
    (bCmd cmdPaused).absentEntry cmdPaused = none := by decide +kernel
/-- A surface table with one twin surface of 64 KiB at 0x200000, side 1 at 0x210000. -/
def bTwin : State :=
  let s := bE.writePa 0x3D000000 64 (0x200000 + 2 ^ 64 * 0x10000 + 2 ^ 128 * 0x210000 + 2 ^ 264 * 2)
  withA5 { s with contexts := [{ bootContext with desc := BitVec.ofNat 1024 (bootContext.desc.toNat + 2 ^ 64 * 0x3D000000 + 2 ^ 128) }] } 0x200000
theorem witness_TokenWords : bTwin.thr = .a ∧ bTwin.atHand [5] (some 7) = true ∧ bTwin.commandsFull = false ∧
    bTwin.surfOf 1 0x60000 = none ∧ ((bTwin.surfOf 1 0x200000).map (·.twin)) = some true ∧
    ((({ bTwin with mem := bE.mem } : State).writePa 0x3D000000 64 (0x200000 + 2 ^ 64 * 0x10000)).surfOf 1 0x200000).map (·.twin) = some false ∧
    tokenCtx 0x0002080000000001 ≠ bTwin.me.ctx ∧ tokenCtx tok = bTwin.me.ctx ∧ statusState ((bCmd cmdOn).tokenStatus tok).1 = 0 ∧
    statusState (bE.tokenStatus tok).1 = 1 ∧
    statusState (({ bE with statuses := [⟨tok, 2 + 65536 * 4, 0x70000, 5⟩] } : State).tokenStatus tok).1 = 2 ∧
    (match bTwin.surfOf 1 0x200000 with | some f => bTwin.mayTake bTwin.me.source [f] | none => false) = true := by decide +kernel
theorem witness_TokenWords_watchdog :
    let s := { bE with gts := 5001, contexts := [{ bootContext with watchdog := some 5 }],
                       me := { bE.me with waitTok := some (tok, 0), a := { bE.me.a with wait := .token } } }
    s.me.waitTok = some (tok, 0) ∧ (s.context s.me.ctx).map (·.watchdog) = some (some 5) ∧ s.me.a.wait = .token ∧
      1000 * 5 < (s.gts - 0).toNat ∧ (({ s with gts := 5000 } : State).gts - 0).toNat ≤ 1000 * 5 := by decide +kernel
/-- A `pub` of the twin surface, accepted. -/
def pubCmd : Cmd := { copyCmd with kind := 6, surfs := [(0, 1)], recs := bTwin.surfs 1 }
theorem witness_EngineTransitions_pub :
    let s := { bTwin with cmds := [pubCmd] }
    s.cmd tok = some pubCmd ∧ s.flipReady pubCmd = true ∧ pubCmd.moved = [] ∧ pubCmd.flashed = [] ∧ pubCmd.absent = none ∧
      pubCmd.writes = [s.surfRec 1 0] ∧ (s.surfRec 1 0).addr % 64 = 0 ∧
      ({ s with cmds := [{ pubCmd with hold := 1 }], me := { bTwin.me with aops := [pend (.store 8 5 false)] } } : State).flipReady { pubCmd with hold := 1, aop := 1 } = false := by decide +kernel
theorem witness_EngineTransitions_absent :
    let c := { cmdPaused with absent := some 0 }
    let s (f : Nat) := (bCmd c).writePa (0x20001680 + 1) 16 (f + 2 ^ 56 * tok.toNat)
    (s 1).strand 1 = some (s 1).me ∧ (s 1).absentFlags (s 1).me 0 % 8 = 1 ∧ (s 0).absentFlags (s 0).me 0 % 8 ≠ 1 ∧
      (s 3).cmd c.token = some c ∧ ((s 3).absentEntry c).map (fun e => (e.1.uid, e.2)) = some (1, 0) ∧ (s 3).imageAt (s 3).me = true ∧
      (s 3).absentFlags (s 3).me 0 % 4 = 3 ∧ (s 5).absentFlags (s 5).me 0 % 8 = 5 := by decide +kernel
theorem witness_PageTransitions_walk :
    (match bA.walk 1 0x40000 with | .leaf e q _ => e.getLsbD 6 && q % 8 == 0 | _ => false) = true ∧
    (match (bA.writePa 0x3E020000 8 0x9F).walk 1 0x40000 with | .leaf e q _ => !e.getLsbD 6 && q % 8 == 0 | _ => false) = true ∧
    (match bA.walk 1 0x80000000 with | .invalid => true | _ => false) = true := by decide +kernel
theorem witness_PageTransitions_inv : bA.Inv := inv_of _ (by decide +kernel) (by decide +kernel) (by decide +kernel) rfl rfl
/-- A `mig` of one page of 64 KiB from 0 to tier 0 at 0x40000000. -/
def migCmd : Cmd := { cmdOn with kind := 9, block := BitVec.ofNat 512 (2 ^ 64 + 2 ^ 128 * 0x40000000), table := [0] }
theorem witness_PageTransitions_move :
    let s := bCmd migCmd
    let m := { migCmd with moving := some (0x3E020000, 0xDF, 2 ^ 30) }
    s.cmd tok = some migCmd ∧ migCmd.paused = none ∧ migCmd.table = 0 :: [] ∧ migCmd.moving = none ∧
      (match s.walk 1 0 with | .leaf _ q _ => q == 0x3E020000 | _ => false) = true ∧ s.usesRange 1 0 (2 ^ 30) = false ∧
      ((bCmd m).targetFrame m 0 (2 ^ 30)).isSome = true ∧
      ({ bCmd m with me := { bE.me with aops := [{ pend (.store 8 5 false) with place := ⟨.mem 0x40000, none, some 0x3E020000, none, [(0, 2 ^ 30)]⟩ }] } } : State).usesRange 1 0 (2 ^ 30) = true := by
  decide +kernel
theorem witness_PageTransitions_copy : bA.normPa 0 + 65536 ≤ bA.normPa 65536 := by decide +kernel
/-- A map with no entries in a pool of four frames, in a tiered surface at 0x200000. -/
def bK : State :=
  let s := ((bA.writePa 0x80000 64 (0x82000 + 2 ^ 64 * 4 + 2 ^ 128 * 0x81000 + 2 ^ 224 * 16)).writePa 0x81000 64
    (4 + 2 ^ 32 * 0xFFFFFFFF + 2 ^ 64 * 65536 + 2 ^ 128 * 0x200000)).writePa 0x3D000000 64 (0x200000 + 2 ^ 64 * 0x40000 + 2 ^ 264 * 4)
  withA5 { s with contexts := [{ bootContext with desc := BitVec.ofNat 1024 (bootContext.desc.toNat + 2 ^ 64 * 0x3D000000 + 2 ^ 128) }] } 0x80000
theorem witness_SpanWords : (∃ f, spanWord (.kvtag 7 5 6 0) = some (7, 5, 6, f)) ∧ bK.passes (.kvtag 7 5 6 0) = true ∧ bK.thr = .a ∧
    bK.atHand [5, 6, 7] (some 7) = true ∧ bK.agentReady = true ∧ bK.inTurn (kvKey (bK.kvDie 0x80000)) bK.me.source = true ∧ bLoad.agentReady = false ∧
    (match bK.kvMap (bK.kvDie 0x80000) 0x80000 with
     | .ok (m, u) => (match u.kvPool (bK.kvDie 0x80000) m.pool with | .ok (q, _) => q.cap == 4 | _ => false)
     | _ => false) = true ∧ bK.me.a.reg 6 < 16 ∧ 16 ≤ bK.me.a.reg 7 ∧
    (match bK.kvMap 0 0x80001 with | .trap c _ _ => c == 0x03 | _ => false) = true ∧
    (match bK.kvPool 0 0x82000 with | .trap c _ _ => c == 0x10 | _ => false) = true := ⟨⟨_, rfl⟩, by decide +kernel⟩
/-- A transfer of the agent that has landed. -/
def landed (drop : Nat) : Cmd := { cmdOn with kind := 16, block := BitVec.ofNat 512 (2 ^ 384 * drop), watchers := [1] }
theorem witness_SpanWords_landed : (bCmd (landed 0)).cmd tok = some (landed 0) ∧ (bCmd (landed 0)).kvLanded (landed 0) = true ∧
    (bCmd (landed 0)).kvWritable (landed 0) = true ∧ (landed 0).fld 48 1 = 0 ∧ (landed 1).fld 48 1 = 1 ∧ (bCmd (landed 1)).kvLanded (landed 1) = true ∧
    (bCmd copyCmd).kvLanded copyCmd = false := by decide +kernel
theorem witness_FrameQueryWord : bA.mayWrite 7 = true ∧ bA.atHand [] (some 7) = true := by decide +kernel

/-- A chain block for eight steps with two slots, its slot entries at 0xA0000. -/
def chainBlock : Nat := 0x100 + 2 ^ 64 * 0x200 + 2 ^ 128 * 0x300 + 2 ^ 192 * 0x400 + 2 ^ 256 * 8 + 2 ^ 288 * 2 + 2 ^ 320 * 0xA0000 +
  2 ^ 384 * 16 + 2 ^ 448 * 0xC0000 + 2 ^ 512 * 0xC1000
def bH : State := ((bA.writePa 0x90000 128 chainBlock).writePa 0xA0000 16 0xB0000).writePa 0xA0010 16 0xB1000
/-- Both threads wait at a CHAIN word, over a frame. -/
def bothAt (i : Instr) (v : Word) (cfd : Nat) (cf : Vector Word 16) : State :=
  { bH with me := { bH.me with cfd := cfd, cf := cf, chA := some (encode i, v), chX := some (encode i, v),
                               a := { bH.me.a with wait := .chain }, x := { bH.me.x with wait := .chain } } }
/-- A frame with an action, a token, a segment, slots and indices. -/
def frame (act tk : Word) (b c occ idx nadj : Nat) : Vector Word 16 :=
  #v[0x30004, 0x90000, 0xC0000, 0xC1000, 0, act, tk, BitVec.ofNat 64 (2 ^ 32 * b), BitVec.ofNat 64 (occ + 2 ^ 16 * c), BitVec.ofNat 64 (idx + 2 ^ 63),
     0, 1, 0, BitVec.ofNat 64 nadj, 0, 0x30008]
def inFrame (act tk : Word) (b c occ idx i : Nat) : State :=
  let s := bothAt .rvret 0 1 (frame act tk b c occ idx (7 - i))
  { s with me := { s.me with plans := [(0, i)] } }
theorem witness_ChainRendezvous_arrive :
    let call := { bA with me := { bA.me with cfd := 1, cf := frame (actWord 0 true 0 0) 0 8 2 1 0 0 } }
    let redo := { bA with me := { bA.me with cfd := 1, cf := frame (actWord 1 false 0 0) 0 8 2 1 0 0, chX := some (encode .rvret, 0) } }
    bA.atHand [5] none = true ∧ bA.me.ch bA.thr = none ∧ bA.me.cfd = 0 ∧ (bA.me.thread bA.thr.other).halted = false ∧
      call.me.cfd ≠ 0 ∧ callOf (call.me.cfr 5) = true ∧ call.me.cfd ≤ 3 ∧ call.atHand [] none = true ∧ (bA.val1 0).toNat ≤ 4 ∧
      redo.thr = .a ∧ redo.me.cfd ≠ 0 ∧ callOf (redo.me.cfr 5) = false ∧ redo.me.cfr 6 = 0 ∧ redo.me.chX.isSome = true ∧
      redo.me.ch redo.thr = none := by decide +kernel
theorem witness_ChainRendezvous_start :
    let s := bothAt (.rvchain 5) 0x90000 0 (Vector.replicate 16 0)
    s.me.rendezvous 0 = some (0x90000, 0x90000) ∧ s.chainQuiet = true ∧ (∀ o ∈ s.me.aops, o.stores = false) ∧ s.me.cfd = 0 ∧
      (match s.chainCheck 0x90000 0x90000 s.me.wordA with | .ok (b, _) => b == chainBlock | _ => false) = true ∧
      (match s.chainCheck 0xA0000 0xA0000 s.me.wordA with | .trap c b _ => c == 0x01 && b == 6 | _ => false) = true ∧
      (match (s.writePa 0xA0000 16 (0xB0000 + 2 ^ 64)).chainCheck 0x90000 0x90000 s.me.wordA with | .trap c _ v => c == 0x0F && v == 0xA0000 | _ => false) = true ∧
      (0x90001#64).toNat % 64 ≠ 0 ∧ inWindow 0xFF00000000000000#64 = true := by decide +kernel
theorem witness_ChainRendezvous_others :
    let s := bothAt (.rvabort 5) 2 1 (frame (actWord 0 true 0 0) 0 8 2 1 0 0)
    wFn6 (encode (.rvchain 5)) ≠ wFn6 (encode .rvret) ∧ wFn6 (encode (.rvabort 5)) = 3 ∧ s.me.rendezvous 3 = some (2, 2) ∧ s.chainQuiet = true ∧ s.me.status = .placed ∧ s.me.a.priv = .u ∧ s.me.x.priv = .u ∧ s.me.cfd = 1 ∧
      statusState (s.tokenStatus (s.me.cfr 6)).1 ≠ 0 ∧
      statusState (({ s with cmds := [copyCmd], me := { s.me with cf := frame (actWord 1 false 0 0) tok 8 2 1 0 0 } } : State).tokenStatus tok).1 = 0 := by
  decide +kernel
theorem witness_ChainActions_advance :
    let ok (s : State) : Bool := (s.me.rendezvous 1).isSome && s.fenceQuiet && s.chainQuiet && s.me.cfr 6 == 0 && callOf (s.me.cfr 5) && actOf (s.me.cfr 5) == 0
    let leaf (s : State) : Bool := s.me.segB - s.me.segA == 1 || s.me.segC == 1
    let w := actWord 0 true 0 0
    ok (inFrame w 0 8 1 1 2 7) = true ∧ leaf (inFrame w 0 8 1 1 2 7) = true ∧ (inFrame w 0 8 1 1 2 7).me.adjIdx = 7 ∧ (inFrame w 0 8 1 1 2 7).me.cidx = 2 ∧
      ok (inFrame w 0 8 1 1 6 7) = true ∧ (inFrame w 0 8 1 1 6 7).me.cidx = 6 ∧
      ok (inFrame w 0 8 2 1 0 7) = true ∧ leaf (inFrame w 0 8 2 1 0 7) = false ∧ advanceBy 2 8 = 4 ∧ (inFrame w 0 8 2 1 0 7).me.segB = 8 ∧
      ok (inFrame w 0 8 2 1 3 7) = true ∧ leaf (inFrame w 0 8 2 1 3 7) = false ∧ (inFrame w 0 8 2 1 3 7).me.occ.testBit 1 = false := by decide +kernel
theorem witness_ChainActions_adjoint :
    let ok (s : State) : Bool := (s.me.rendezvous 1).isSome && s.fenceQuiet && s.chainQuiet && s.me.cfr 6 == 0 && callOf (s.me.cfr 5) && actOf (s.me.cfr 5) == 3
    let w := actWord 3 true 0 7
    ok (inFrame w 0 8 1 1 7 7) = true ∧ (inFrame w 0 8 1 1 7 7).me.adjIdx = 7 ∧ (inFrame w 0 8 1 1 7 7).me.cidx ≠ (inFrame w 0 8 1 1 7 7).me.segA ∧ (inFrame w 0 8 1 1 7 7).me.sa = 0 ∧
      ok (inFrame w 0 8 1 1 0 0) = true ∧ (inFrame w 0 8 1 1 0 0).me.adjIdx = 0 ∧ (inFrame w 0 8 1 1 0 0).me.nstack = 0 ∧
      (inFrame w 0 8 1 1 0 0).me.cfd = 1 ∧ (inFrame w 0 8 1 1 0 0).me.segA = 0 := by decide +kernel
theorem witness_ChainActions_copy :
    let s (act : Nat) : State := inFrame (actWord act false 1 4) tok 8 2 1 4 7
    (s 1).me.cfr 6 ≠ 0 ∧ (s 1).me.bothWait = true ∧ (s 1).fenceQuiet = true ∧ (s 1).chainQuiet = true ∧ statusState ((s 1).tokenStatus tok).1 = 1 ∧
      actOf ((s 2).me.cfr 5) = 2 ∧ actOf ((s 1).me.cfr 5) = 1 ∧ (s 1).me.cfr 11 ≠ 0 ∧
      ({ s 1 with me := { (s 1).me with cf := (s 1).me.cf.set 11 0 } } : State).me.cfr 11 = 0 ∧ 1 ≤ (s 1).me.segC ∧ (s 1).me.nstack < 15 ∧
      (s 1).me.occ.testBit (slotOf ((s 1).me.cfr 5)) = false ∧
      statusState (({ s 1 with cmds := [copyCmd] } : State).tokenStatus tok).1 = 0 ∧
      statusState (({ s 1 with statuses := [⟨tok, 2 + 65536 * 0x13, 0, 0⟩] } : State).tokenStatus tok).1 = 2 := by decide +kernel

/-! ## Witnesses: launches and scheduling -/

/-- A queue of capacity 2 at 0xD0000, its records from 0xE0000; one record stands in it. -/
def aQueue : LaunchQueue := { num := 3, desc := 0xD0000, head := 0, tail := 0, awake := true, stopped := false }
def aRecord : Nat := 0x100 + 2 ^ 64 * 0x200 + 2 ^ 416
def bL (record tail : Nat) : State :=
  let s := ((bA.writePa 0xD0000 8 tail).writePa 0xD0040 16 (0xE0000 + 2 ^ 64 * 2 + 2 ^ 96)).writePa 0xE0000 128 record
  { s with queues := [aQueue], firmware := { s.firmware with loaded := true } }
theorem witness_LaunchTransitions_queue : (bL aRecord 1).launchQueue 3 = some aQueue ∧ (bL aRecord 1).firmware.loaded = true ∧
    (bL aRecord 1).queueFld aQueue 0 8 = 1 ∧ (bL aRecord 1).queueFld aQueue 72 4 = 2 ∧ (bL aRecord 3).queueFld aQueue 0 8 = 3 ∧
    (bL aRecord 0).queueFld aQueue 0 8 = 0 ∧ (1 + 2 ^ 64 - aQueue.head.toNat) % 2 ^ 64 < (2 + 2 ^ 64 - aQueue.head.toNat) % 2 ^ 64 ∧
    ({ bL aRecord 1 with queues := [{ aQueue with tail := 2 }] } : State).launchQueue 3 = some { aQueue with tail := 2 } ∧ recRerun aRecord = false ∧ (bL aRecord 1).rejectCode 1 aRecord = 0 ∧
    (bL 1 1).rejectCode 1 1 = 1 ∧ ((List.range 4).all (fun w => (bL aRecord 1).waitEntry 1 aRecord w == some [])) = true ∧
    (bL aRecord 1).launch ((bL aRecord 1).newToken 1 2).1 = none := by decide +kernel
theorem witness_LaunchTransitions_ack : (bL aRecord 1).normPa (0xE0000 + 104) + 9 > (bL aRecord 1).normPa (0xD0000 + 80) ∧
    (bL aRecord 1).normPa (0xD0000 + 80) + 8 ≤ (bL aRecord 1).normPa (0xE0000 + 104) ∧ 0xE0000 % 128 = 0 ∧ aQueue.desc % 128 = 0 := by decide +kernel
theorem witness_LaunchTransitions_ack_inv : (bL aRecord 1).Inv := inv_of _ (by decide +kernel) (by decide +kernel) (by decide +kernel) rfl rfl
/-- A launch that waits for a token. -/
def aLaunch : Launch := { tLaunch with token := 0x0001000200000007, record := BitVec.ofNat 1024 aRecord, waits := [tok], expanded := false, uids := [] }
theorem witness_LaunchTransitions_eligible :
    let s := { bA with launches := [aLaunch] }
    s.launch aLaunch.token = some aLaunch ∧ aLaunch.expanded = false ∧ aLaunch.waits.map (fun w => statusState (s.tokenStatus w).1) = [1] ∧
      aLaunch.waits.map (fun w => statusState (({ s with cmds := [copyCmd] } : State).tokenStatus w).1) = [0] := by decide +kernel
theorem witness_LaunchTransitions_rerun :
    let r := 2 ^ 457 + 2 ^ 576 * aLaunch.token.toNat
    let s := { bL r 1 with launches := [aLaunch] }
    s.queues = [aQueue] ∧ s.nextRecord aQueue = some (0xE0000, r) ∧ s.tailBad aQueue = false ∧ recRerun r = true ∧
      recEntry r 72 = aLaunch.token ∧ s.rejectCode (s.queueFld aQueue 76 2) r = 0 ∧ s.launch aLaunch.token = some aLaunch := by decide +kernel
/-- A launch of the test strand, which has retired. -/
def ended : Launch := { aLaunch with waits := [], expanded := true, uids := [1] }
theorem witness_LaunchTransitions_complete :
    let s := { bA with launches := [ended], me := { bA.me with status := .retired, aops := [], vops := [] } }
    s.launch ended.token = some ended ∧ ended.token ≠ 0 ∧ ended.expanded = true ∧ s.me :: s.peers = [s.me] ∧ s.me.status = .retired ∧
      s.me.aops = [] ∧ s.me.vops = [] ∧ s.me.sevs = [] ∧ (∀ b ∈ s.me.bars.toList, b.aPend = none ∧ b.xPend = none) ∧ s.cmds = [] ∧ bA.me.status ≠ .retired ∧ bA.me.uid ∈ ended.uids := by decide +kernel
theorem witness_TimePasses : (∀ m ∈ bA.me :: bA.peers, m.status = .placed → m.ydl = 0) ∧ bA.gts.toNat ≤ (bA.gts + 1).toNat ∧
    (∀ m ∈ bA.me :: bA.peers, m.status = .placed → m.budget ≠ 0 → (bA.gts + 1).toNat ≤ (bA.gts.toNat / 1000 + m.budget) * 1000 + 2000) ∧ bA.gts.toNat + 1000 < 2 ^ 64 ∧
    (let late := { bA with me := { bA.me with budget := 0, ydl := 2000 } }
     late.me.status = .placed ∧ late.me.budget = 0 ∧ late.me.aops = [] ∧ late.me.vops = [] ∧ late.me.append = none ∧ late.areaStill late.me = true ∧ late.me.ydl ≠ 0 ∧ late.gts.toNat ≤ late.me.ydl.toNat ∧ late.peers = []) ∧
    (let old := { bA with gts := 5000000, launches := [{ aLaunch with eligible := some 0 }],
                          peers := [{ bA.me with uid := 2, launch := aLaunch.token, status := .unborn }] }
     old.launches.map (·.eligible) = [some 0] ∧ (∃ m ∈ old.me :: old.peers, m.launch = aLaunch.token ∧ m.status = .unborn)) := by
  refine ⟨by decide +kernel, by decide +kernel, by decide +kernel, by decide +kernel, by decide +kernel, by decide +kernel, ⟨_, List.mem_cons_of_mem _ (List.mem_cons_self), rfl, rfl⟩⟩
/-- A strand that waits for slot 1 of core 0, and one that waits for the slot of the test strand; two save areas. -/
def waiting (st : Status) (slot cls : Nat) : Strand := { bA.me with uid := 2, status := st, slot := slot, cls := cls, save := none, bound := [] }
def bN (m : Strand) : State :=
  { bA with peers := [m], contexts := [{ bootContext with desc := BitVec.ofNat 1024 (bootContext.desc.toNat + 2 ^ 256) }] }
theorem witness_PlacementTransitions : (bN (waiting .unborn 1 0)).slotTaken 0 0 0 = true ∧ (bN (waiting .unborn 1 0)).slotTaken 0 0 1 = false ∧
    ((bN (waiting .unborn 1 0)).candidates 0 0 1).filter (bN (waiting .unborn 1 0)).roomFor = [waiting .unborn 1 0] ∧
    (bN (waiting .unborn 1 0)).strand 2 = some (waiting .unborn 1 0) ∧ (bN (waiting .unborn 1 0)).preloads = [] ∧
    (bN (waiting .unborn 1 0)).launch (waiting .unborn 1 0).launch = none ∧ (bA.candidates 0 0 1).filter bA.roomFor = [] ∧
    ((bN (waiting .suspended 1 0)).candidates 0 0 1).filter (bN (waiting .suspended 1 0)).roomFor = [waiting .suspended 1 0] ∧
    ((bN (waiting .suspended 1 0)).focus 2 .a).me = waiting .suspended 1 0 ∧
    (bN (waiting .unborn 1 0)).mayPlace (waiting .unborn 1 0) = true ∧
    ((bN (waiting .suspended 1 0)).writePa 0x3E020000 8 0x1DF).mayPlace (waiting .suspended 1 0) = false ∧ (bN (waiting .suspended 1 0)).mayPlace (waiting .suspended 1 0) = true ∧
    (((bN (waiting .unborn 1 0)).me :: (bN (waiting .unborn 1 0)).peers).map (·.uid)).Nodup := by decide +kernel
theorem witness_PlacementTransitions_preload :
    let s := { bA with launches := [{ aLaunch with waits := [] }] }
    s.slotTaken 0 0 0 = true ∧ s.slotTaken 0 0 1 = false ∧ (match s.nextLaunch 0 0 0 with
      | some l => s.codeLine l.ctx (recEntry l.record.toNat 0) == some 0x100 && s.codeLine l.ctx (recEntry l.record.toNat 8) == some 0x200 &&
        !s.halfFree l 0 0 false
      | none => false) = true := by decide +kernel
theorem witness_StrandsLeave :
    let s := bN (waiting .unborn 0 5)
    s.me.status = .placed ∧ (∃ k ∈ s.me :: s.peers, k.status = .unborn ∧ k.die = s.me.die ∧ k.core = s.me.core ∧ s.me.cls < s.effClass k ∧
        k.slot = s.me.slot) ∧ s.me.aops = [] ∧ s.me.vops = [] ∧ s.me.append = none ∧ s.areaStill s.me = true ∧ bA.peers = [] ∧
      (∃ k ∈ s.candidates 0 0 0, s.me.cls ≤ s.effClass k) ∧
      (let y := { bA with me := { bA.me with status := .yielded } }
       y.me.status = .yielded ∧ y.candidates 0 0 0 = []) := by
  refine ⟨by decide +kernel, ⟨_, List.mem_cons_of_mem _ (List.mem_cons_self), rfl, rfl, rfl, by decide +kernel, rfl⟩, by decide +kernel⟩
theorem witness_StrandsLeave_arrival :
    let m := { waiting .suspended 1 0 with save := some 1, kept := [(0, 0)] }
    let s0 := (bN m).writePa (0x20000000 + 11 * 2 ^ 20 + 0x2020 + 4) 4 16
    let s := { s0 with me := { s0.me with bars := s0.me.bars.set 0 { aDone := 0, xDone := 0, aPend := some 0, xPend := none, scopes := 1 } } }
    s.strand 2 = some m ∧ m.status = .suspended ∧ s.inTurn (shadowKey 2) 5 = true ∧ s.vaMoving m.ctx (s.diversionAt m 0) 2048 = false ∧
      ({ s with arrivals := [(shadowKey 2, s.gts, 9)] } : State).inTurn (shadowKey 2) 5 = false ∧ s.readPending (.pad 2 0) 16 = false ∧
      (assoc m.kept 0).isSome = true ∧ (s.nextArrival m.launch 0).isSome = true ∧ 0 + 16 ≤ m.scratch ∧ s.readVa 1 (s.diversionAt m 1 + 24) 4 < s.readVa 1 (s.diversionAt m 1 + 4) 4 ∧
      bA.strand 1 = some bA.me ∧ bA.me.status ≠ .suspended := by decide +kernel

/-! ## Witnesses: the host, the module, the outside world -/

/-- Descriptor bytes at 0xF0000: context 7 in one, a launch queue of context 1 in the other. -/
def bF : State := { ((bA.writePa 0xF0000 128 (2 ^ 160 * 7)).writePa 0xF1000 128 (2 ^ 512 * 0xE0000 + 2 ^ 576 * 2 + 2 ^ 608)) with
  firmware := { bA.firmware with loaded := true } }
theorem witness_HostCommands_contexts : (0xF0000 % 128 = 0 ∧ field (bF.readPa 0xF0000 128) 20 2 = 7 ∧ bF.context 7 = none ∧
    field (bF.readPa 0xF0000 128) 124 4 = 0) ∧ 0xF0001 % 128 ≠ 0 ∧ bF.context 1 ≠ none ∧ bF.peers = [] ∧ bF.me.ctx = 1 ∧
    bF.launchQueue 3 = none ∧ bF.readPa (0xF1000 + 72) 4 = 2 ^ 1 ∧ bF.readPa (0xF1000 + 64) 8 % 128 = 0 ∧
    bF.context (bF.readPa (0xF1000 + 76) 2) ≠ none ∧ ¬ (2000 < 1024) ∧ 2 ^ 18 ≤ (0x40000#64).toNat ∧ bF.usesPage 0x40000 1 = false ∧
    ({ bF with me := { bF.me with aops := [{ pend (.store 8 5 false) with place := ⟨.mem 0x40000, none, some 0x3E020000, none, [(0, 2 ^ 30)]⟩ }] } } : State).usesPage 0x40000 1 = true ∧
    0x10000 % 65536 = 0 ∧ 0x10000 + 0x10000 ≤ bF.regions[0].2.1 ∧ bF.regions[0].2.1 < 2 ^ 40 ∧ 0x10001 % 65536 ≠ 0 ∧
    bA.firmware.loaded = false := by decide +kernel
theorem witness_HostCommands_firmware : State.reset.contexts = [] ∧ 16896 ≤ 16896 ∧ bF.contexts ≠ [] ∧
    State.reset.imageSound 0xF0000 16896 = false := by
  refine ⟨by decide +kernel, by decide, by decide +kernel, ?_⟩
  have h : State.reset.imageFields 0xF0000 16896 = false := by decide +kernel
  rw [State.imageSound, h, Bool.false_and]
/-- The test strand has faulted. -/
def bFaulted : State := { bF with launches := [ended], me := { bF.me with status := .faulted, launch := ended.token } }
theorem witness_HostCommands_disposition : bFaulted.context 1 ≠ none ∧ bFaulted.faultedIn 1 0 0 0 = some bFaulted.me ∧
    bFaulted.strand bFaulted.me.uid = some bFaulted.me ∧ bFaulted.launch bFaulted.me.launch = some ended ∧ bF.faultedIn 1 0 0 0 = none := by
  decide +kernel
/-- A command ring of capacity 2 at 0xF2000 with records from 0xF3000: unregister launch queue 9. -/
def bRing (tail r : Nat) : State :=
  let s := ((bF.writePa 0xF2000 8 tail).writePa 0xF2040 16 (0xF3000 + 2 ^ 64 * 2)).writePa 0xF3000 64 r
  { s with cmdring := 0xF2000 }
def unregister : Nat := 4 + 2 ^ 64 * 9
theorem witness_HostCommands_ring : (bRing 1 unregister).cmdring ≠ 0 ∧ (bRing 1 unregister).readPa (0xF2000 + 72) 4 = 2 ∧
    (bRing 1 unregister).readPa 0xF2000 8 ≠ (bRing 1 unregister).cmdHead.toNat ∧ (bRing 0 0).readPa 0xF2000 8 = (bRing 0 0).cmdHead.toNat ∧
    ((bRing 1 unregister).command unregister).isSome = true ∧
    (let s := { bRing 1 unregister with me := { bF.me with aops := [{ pend (.store 8 5 false) with place := ⟨.mem 0x40000, none, some 0x3E020000, none, [(0, 2 ^ 30)]⟩ }] } }
     (s.command (5 + 2 ^ 64 * 0x40000 + 2 ^ 128)).isNone = true) ∧ commandZeros unregister 4 = true ∧ commandZeros (unregister + 2 ^ 32) 4 = false ∧
    field unregister 0 2 = 4 ∧ bF.firmware.loaded = true ∧ bA.firmware.loaded = false := by decide +kernel
theorem witness_ModuleControls :
    let r := bF.regions.toList.getD 5 (0, 0, 0)
    let ov := { bF with overruns := [(1, 2)], launches := [{ aLaunch with expanded := true }] }
    r.1 < 2 ^ 64 ∧ r.2.1 < 2 ^ 64 ∧ r.2.2 < 2 ^ 64 ∧ bF.firmware.loaded = true ∧ bA.firmware.loaded = false ∧ ov.overran aLaunch.token = true ∧
      ov.firmware.loaded = true ∧ bF.overran aLaunch.token = false ∧
      assoc ({ bF.platform with sensors := [(5, 99)] } : Platform).sensors 5 = some 99 := by decide +kernel
theorem witness_PowerAndHeat : ((bN (waiting .unborn 1 0)).me :: (bN (waiting .unborn 1 0)).peers).map (·.uid) = [1, 2] ∧
    (bN (waiting .unborn 1 0)).me.status ≠ .void ∧ (bN (waiting .unborn 1 0)).me.status ≠ .retired ∧ (bN (waiting .unborn 1 0)).me.status ≠ .discarded := by decide +kernel
/-- Tier 0 of another module stands at virtual addresses from 1 GiB. -/
def far : Nat := 2 ^ 51 + 2 ^ 41 * 3
def bFar : State := bA.writePa 0x3E020008 8 (far + 0xDF)
def farOp (k : AKind) : AOp := ⟨0, 0x30000, 0, k, 0x40000000, ⟨.mem far, none, some 0x3E020008, none, []⟩, 0⟩
def bFarOp (k : AKind) : State := { bFar with me := { bFar.me with aops := [farOp k] } }
def farCmd : Cmd := { cmdOn with scope := 3, block := BitVec.ofNat 512 (0x40000000 + 2 ^ 64 * 0x71000 + 2 ^ 128 * 16 + 2 ^ 160) }
theorem witness_OutsideEvents : bA.fct = 0 ∧ bA.remote far = true ∧ bA.remote 0x40000 = false ∧ bA.tierOf 0x40000 = 0 ∧
    ({ bA with platform := { bA.platform with windows := [(0x40000, 0x10000, 0)] } } : State).windowAt 8 = some 0x40008 ∧
    bA.windowAt 8 = none ∧ bA.poisonedAt (.mem 0x40000) 8 = false ∧ bA.tierOf (2 ^ 50) = 3 ∧ bA.tierOf (2 ^ 44) = 1 ∧ 3 ≠ bA.platform.moduleNo ∧
    2 ^ 51 / 2 ^ 51 % 2 = 1 ∧ bA.platform.fabricUp = false ∧
    (bFarOp (.load 7 8 false false)).me.aops.find? (fun o => o.id == 0) = some (farOp (.load 7 8 false false)) ∧
    (farOp (.load 7 8 false false)).own = true ∧ (farOp (.load 7 8 false false)).stores = false ∧ (farOp (.store 8 5 false)).stores = true ∧
    bFar.away (bFar.placeNow 1 (farOp (.store 8 5 false)).place) = true ∧ bFar.away (.mem 0x40000) = false ∧ bFar.me.status = .placed ∧
    bFar.me.vops = [] ∧ ({ bFar with cmds := [farCmd] } : State).cmds[0]? = some farCmd ∧ farCmd.kind = 0 ∧ farCmd.token ≠ 0 ∧
    farCmd.started = true ∧ farCmd.open = true ∧ ({ bFar with cmds := [farCmd] } : State).cmdAway farCmd = true ∧ ({ bFar with cmds := [farCmd] } : State).kvWritable farCmd = true ∧
    ({ bA with platform := { bA.platform with fabricUp := true } } : State).platform.fabricUp = true ∧ 0x40000 % 64 + 64 ≤ 64 ∧
    bFaulted.strand 1 = some bFaulted.me ∧
    ({ bFaulted with contexts := [{ bootContext with desc := BitVec.ofNat 1024 (bootContext.desc.toNat + 2 ^ 176) }] } : State).ctxFld 1 22 2 % 2 = 1 := by
  decide +kernel
theorem witness_Resets : bA.remote 0x40000 = false ∧ bA.tierOf 0x40000 = 0 ∧ bA.tierOf (2 ^ 45) = 2 := by decide +kernel

/-- The agent's records are sound, and the word's work is done. -/
def spanDone (i : Instr) (s : State) : Bool :=
  match spanWord i with
  | some (d, p, n, f) =>
    let g := s.kvDie (s.cur.reg p)
    match s.kvMap g (s.cur.reg p) with
    | .ok (m, u) => (match u.kvPool g m.pool with
      | .ok (q, w) => (match f w g m q (s.cur.reg n) (s.cur.reg d) with | .ok _ => true | _ => false)
      | _ => false)
    | _ => false
  | none => false
theorem witness_EventsComplete_pages : (match bA.walk 1 0x40000 with | .leaf _ _ _ => true | _ => false) = true ∧
    (let s := { bA with me := { bA.me with a := { bA.me.a with wait := .walk } } }
     s.me.a.wait = .walk ∧ s.me.x.wait ≠ .walk) ∧
    (bCmd migCmd).cmd tok = some migCmd ∧ migCmd.started = true ∧ migCmd.kind = 9 ∧ migCmd.paused = none ∧ migCmd.table = 0 :: [] ∧
    migCmd.moving = none ∧ (match (bCmd migCmd).walk migCmd.ctx 0 with | .leaf _ _ _ => true | _ => false) = true ∧
    (bCmd cmdPaused).cmd tok = some cmdPaused ∧ cmdPaused.kind ≠ 5 ∧ cmdPaused.paused = some (0, 0x04, 0x70000) ∧
    (bCmd cmdPaused).absentEntry cmdPaused = none := by decide +kernel
theorem witness_EventsComplete_host : (bRing 1 unregister).cmdring ≠ 0 ∧ (bRing 1 unregister).readPa (0xF2000 + 72) 4 ≠ 0 ∧
    (bRing 1 unregister).readPa 0xF2000 8 ≠ (bRing 1 unregister).cmdHead.toNat ∧ field ((bRing 1 unregister).readPa 0xF3000 64) 0 2 ≠ 5 ∧
    field (bF.readPa 0xF0000 128) 20 2 ≠ 0 ∧ bF.context (field (bF.readPa 0xF0000 128) 20 2) = none ∧ field (bF.readPa 0xF0000 128) 124 4 = 0 ∧
    bF.context 1 ≠ none ∧ bF.launchQueue 3 = none ∧ bF.readPa (0xF1000 + 72) 4 = 2 ^ 1 ∧ bF.readPa (0xF1000 + 64) 8 % 128 = 0 ∧
    bF.context (bF.readPa (0xF1000 + 76) 2) ≠ none ∧ ({ bF with queues := [aQueue] } : State).launchQueue 3 ≠ none ∧
    (1#64).toNat < 2 ^ 18 ∧ bF.context ((1#64).toNat % 65536) ≠ none ∧ bF.usesPage 0x40000 1 = false ∧
    bFaulted.faultedIn 1 0 0 0 = some bFaulted.me ∧ bFaulted.strand 1 = some bFaulted.me ∧ bFaulted.me.status = .faulted ∧
    bFaulted.firmware.loaded = true := by decide +kernel
theorem witness_EventsComplete_module : bF.me.status = .placed ∧
    (let s := { bN (waiting .unborn 1 0) with me := { bA.me with status := .suspended } }
     s.me.status ≠ .placed ∧ (∀ m ∈ s.peers, m.status ≠ .placed) ∧ s.gts.toNat ≤ (s.gts + 5).toNat) ∧
    check 0x6CA60140#32 = .error .undefined := by decide +kernel
theorem witness_EventsComplete_words : spanDone (.kvtag 7 5 6 0) bK = true ∧ bK.passes (.kvtag 7 5 6 0) = true ∧ bK.thr = .a ∧
    bK.atHand [5, 6, 7] (some 7) = true ∧ bK.agentReady = true ∧ bK.inTurn (kvKey (bK.kvDie (bK.cur.reg 5))) bK.me.source = true ∧
    (let s := { bA with me := { bA.me with cfd := 1, cf := frame (actWord 0 true 0 0) 0 8 2 1 0 0 } }
     s.atHand [0] none = true ∧ s.atHand [] none = true ∧ s.me.ch s.thr = none ∧ s.me.cfd ≠ 0 ∧ s.me.cfd ≤ 3 ∧ callOf (s.me.cfr 5) = true ∧
       (s.val1 0).toNat ≤ 4) := by decide +kernel
/-- FIPS 180-4's example "abc": its digest begins CB00753F. -/
theorem test_sha384_abc : (sha384 [0x61, 0x62, 0x63]).take 4 = [0xCB, 0x00, 0x75, 0x3F] := by decide +kernel
/-- An image with an empty payload whose D is the SHA-384 of its bytes 0 to 15 (hand: Python's hashlib). -/
def imaged : State := State.reset.writePa 0xF4000 64 0x19b4fbb8bc9e50420e289f4ec028464924c33f2e3a14255aee65757aa559d017841bbc7428559170cdf6e84dee62934b00000000000000000000000051444e47
theorem witness_EventsComplete_firmware : imaged.contexts = [] ∧
    imaged.imageFields 0xF4000 16896 = true := by decide +kernel
theorem witness_EventsComplete_spans : spanDone (.kvres 7 5 6 0) bK = true ∧
    spanDone (.kvlook 7 5 6 0) bK = true ∧ spanDone (.kvapp 7 5 6 0) bK = true := by decide +kernel

/-! ## Witnesses of single clauses -/

/-- The test strand with its leaf entry changed, at a PC. -/
def bLeaf (e : Nat) : State := bA.writePa 0x3E020000 8 e
def bPc (pc : Word) : State := { bA with me := { bA.me with a := { bA.me.a with pc := pc } } }
theorem witness_FetchReads : (bPc 0x30002).cur.pc.toNat % 4 ≠ 0 ∧ inWindow (bPc 0xFF00000000000000).cur.pc = true ∧
    inWindow bA.cur.pc = false ∧ bA.unsurfaced bA.cur.pc = true ∧ bA.tlbHit bA.me.ctx bA.me.die (some bA.me.core) bA.cur.pc = none ∧
    canonical bA.cur.pc = true ∧ bA.codeOld = [] ∧ bA.fct = 0 ∧ bA.poisonedAt (.mem 0x30000) 4 = false ∧
    ({ bA with poison := [0x3000] } : State).poisonedAt (.mem 0x30000) 4 = true ∧
    (bPc 0x80000000).unsurfaced 0x80000000 = true ∧ (bPc 0x80000000).walk 1 0x80000000 = .invalid ∧ bA.cur.priv = .u := by decide +kernel
theorem witness_FetchReads_leaf :
    (match bA.walk 1 0x30000 with | .leaf e _ k => e == 0xDF && leafPa e k 0x30000 == 0x30000 | _ => false) = true ∧
    (match (bLeaf 0xCF).walk 1 0x30000 with | .leaf e _ _ => !e.getLsbD 4 | _ => false) = true ∧
    (match (bLeaf 0xFF).walk 1 0x30000 with | .leaf e _ _ => e.getLsbD 4 && e.getLsbD 5 | _ => false) = true ∧
    (match (bLeaf 0x1DF).walk 1 0x30000 with | .moving _ _ _ => true | _ => false) = true := by decide +kernel
theorem witness_StepTakesInput_corrected :
    ({ bA with inputs := [.corrected true] } : State).inputs = .corrected true :: [] ∧ bA.stopped = false := by decide +kernel
theorem witness_FailedChecks_vector : wMaj (encode (.vcfg 12 6 7)) = 0x20 ∧
    checks (encode (.vcfg 12 6 7)) bA = some (0x01, 2, encode (.vcfg 12 6 7)) ∧ 0x21 ≤ wMaj (encode (.vle false 4 5 none)) ∧
    checks (encode (.vle false 4 5 none)) bA = some (0x01, 2, encode (.vle false 4 5 none)) ∧ bA.me.stopping = false := by decide +kernel
theorem goodPage (acc : Acc) (h : acc = .load ∨ acc = .store ∨ acc = .amo) : bA.goodAddress 0x40000 8 acc (.mem 0x40000) := by
  refine ⟨by decide, .inr ⟨by decide, by decide, by decide +kernel, 0xDF, 2 ^ 30, ?_, by decide, ?_, ?_⟩⟩
  · rcases h with rfl | rfl | rfl <;> rfl
  · intro _; decide +kernel
  · have : bA.normPa (leafPa 0xDF (2 ^ 30) 0x40000) = 0x40000 := by decide +kernel
    rw [this]
theorem witness_MemoryWordsComplete : bA.thr = .a ∧ bA.me.status = .placed ∧ bA.atHand [5] (some 7) = true ∧ bA.atHand [5, 6] none = true ∧
    bA.atHand [5, 6, 7] (some 7) = true ∧ bA.cur.reg 5 = 0x40000 ∧ loadWord (.ldd 7 5 0) = some (7, 5, 0, 8, false, none) ∧
    storeWord (.std 6 5 0) = some (6, 5, 0, 8, none) ∧ amoWord (.amoAdd 7 5 6 1#2 2#2 true) = some (0, 7, 5, 6, 8, some 2#2, none) :=
  ⟨rfl, rfl, by decide +kernel, by decide +kernel, by decide +kernel, by decide +kernel, rfl, rfl, rfl⟩
theorem witness_MemoryWordsComplete_window : bA.goodAddress 0xFF0000000000FFF8 8 .store (.pad 1 0xFFF8) :=
  ⟨by decide, .inl ⟨by decide, by decide +kernel, by decide +kernel, by decide +kernel⟩⟩
theorem witness_MemoryIssueFrame : bA.Inv ∧ bA.unsurfaced 0x40000 = true ∧ bA.tlbHit 1 0 (some 0) 0x40000 = none ∧
    (match bA.walk 1 0x40000 with | .leaf _ q _ => q == 0x3E020000 | _ => false) = true ∧ Acc.marks .store = true ∧
    inWindow 0x40000#64 = false ∧ bTrap.Inv ∧ bTrap.tlbHit 1 0 (some 0) 0x40000 = some recPage ∧
    permits recPage.leaf .store bTrap.cur.priv = true ∧ recPage.leaf.getLsbD 6 = true :=
  ⟨inv_of _ (by decide +kernel) (by decide +kernel) (by decide +kernel) rfl rfl, by decide +kernel, by decide +kernel, by decide +kernel, rfl,
    by decide, inv_of _ (by decide +kernel) (by decide +kernel) (by decide +kernel) rfl rfl, by decide +kernel, by decide +kernel, by decide⟩
/-- Its context with a copy of the capability list at 0x50000. -/
def bCap : State := { bA with contexts := [{ bootContext with desc := BitVec.ofNat 1024 (bootContext.desc.toNat + 2 ^ 896 * 0x50000) }] }
theorem witness_AddressChecks_caps : (0x50008#64).toNat % 8 = 0 ∧ inWindow 0x50008#64 = false ∧ bCap.surfs bCap.me.ctx = [] ∧
    bCap.capOffset bCap.me.ctx 0x50008#64 = some 8 := by decide +kernel
theorem witness_AddressChecks_tier :
    (match (bLeaf (2 ^ 44 + 0xDF)).translateMe 0x40000 .store .u with | .ok pa _ _ _ => (bLeaf (2 ^ 44 + 0xDF)).tierOf pa == 1 | _ => false) = true ∧
    (bLeaf (2 ^ 44 + 0xDF)).unsurfaced 0x40000 = true := by decide +kernel
theorem witness_CsrWrites : bA.me.bound.Nodup ∧ bA.me.ntiles ≤ bA.me.bound.length := by decide +kernel
/-- The case has an agent of another module, so no scope below the fabric's is in force. -/
def bOpen : State := { bA with agents := [.remote 3] }
theorem witness_Fences_open : bOpen.inForce 1#2 = false ∧ bOpen.atHand [] none = true ∧
    ({ bOpen with me := { bOpen.me with x := { bOpen.me.x with early := 1 } } } : State).me.x.early = 1 ∧
    (let s := { bFence with me := { bFence.me with x := { bFence.me.x with wait := .none, early := 1 } } }
     s.me.a.wait = .fence ∧ 0 < s.me.x.early ∧ ¬ (s.me.x.wait = .fence)) ∧
    (let s := { bFence with me := { bFence.me with a := { bFence.me.a with wait := .none, early := 1 } } }
     s.me.x.wait = .fence ∧ 0 < s.me.a.early ∧ ¬ (s.me.a.wait = .fence)) := by decide +kernel
theorem witness_Barriers_open : bOpen.mixedScopes 0 = false ∧ ((bOpen.me.bar 0).pend bOpen.thr) = none ∧
    bOpen.cur.synced ≠ some bOpen.pc := by decide +kernel
/-- A suspended member of the launch keeps the counter of barrier 0. -/
def bKeeper : State :=
  { bA with me := { bA.me with bars := bA.me.bars.set 0 { aDone := 0, xDone := 0, aPend := some 0, xPend := none, scopes := 1 } }
            peers := [{ bA.me with uid := 2, status := .suspended, kept := [(0, 0)] }] }
theorem witness_Barriers_keeper : (bKeeper.me.bar 0).pend .a = some 0 ∧ bKeeper.me.openBelow .a 0 = false ∧ bKeeper.mixedScopes 0 = false ∧
    bKeeper.mayDivert bKeeper.me.launch 0 = true ∧ (bKeeper.keeper bKeeper.me.launch 0).map (·.uid) = some 2 ∧ bKeeper.me.uid = 1 := by
  decide +kernel
theorem witness_YieldsAndEvents_flight : bX.atHand [] none = true ∧ bX.thr = .x ∧
    ({ bA with me := { bA.me with ahead := [#v[4, 4, 4, 4]] } } : State).atHand [] none = true ∧
    ({ bA with me := { bA.me with ahead := [#v[4, 4, 4, 4]] } } : State).me.ahead ≠ [] ∧ bAS.me.event = false := by decide +kernel
theorem witness_TrapEntry_caps : bTrap.capOffset bTrap.me.ctx bTrap.cur.trec = none ∧ recPage.leaf.getLsbD 6 = true ∧
    bTrap.normPa (leafPa recPage.leaf recPage.size bTrap.cur.trec) + 512 ≤ 2 ^ 51 := by decide +kernel
theorem witness_TrapReturn_record : (match bXS.endConvoy.hwRead bXS.cur.trec 64 with | .ok r _ => r == 0 | _ => false) = true ∧
    (match (bXS.writePa 0x20001200 8 (2 ^ 16 * 0x19)).endConvoy.hwRead bXS.cur.trec 64 with | .ok r _ => field r 2 2 == 0x19 | _ => false) = true ∧
    (match (bXS.writePa 0x3E020000 8 0x1DF).endConvoy.hwRead bXS.cur.trec 64 with | .moving => true | _ => false) = true := by decide +kernel
/-- A save of the control block to the first address that the test strand's page table does not map. -/
def bPour : State := { bXS with me := { bXS.me with x := { bXS.me.x with regs := (bXS.me.x.regs.set 5 0x40000000).set 6 0x100000000 } } }
theorem witness_SaveAreaWords_unmapped :
    let u := bPour.after2 5 6
    saveBitsOk (bPour.val2 5 6) (regCount u.vu.vcfg) u.me.ntiles = true ∧ (bPour.val1 5).toNat % 64 = 0 ∧ (bPour.val2 5 6).getLsbD 32 = true ∧
      (bPour.val1 5).toNat % 65536 + 0x1600 ≤ 65536 ∧ inWindow 0x40000000#64 = false ∧ u.surfs u.me.ctx = [] ∧
      u.capOffset u.me.ctx 0x40000000#64 = none ∧ u.tlbHit u.me.ctx u.me.die (some u.me.core) 0x40000000#64 = none ∧
      u.walk u.me.ctx 0x40000000#64 = .invalid ∧ u.vQuiet = true := by decide +kernel
/-- The test strand's vectors as BF16 with one register a group and twice that for FP32: the groups of an update. -/
theorem witness_UpdateResults : bB.vecReady (.vupdSgdm false 0 4 8 false false none) [] none = true ∧
    bB.vecReady (.vupdAdamw false 0 4 8 false false none) [] none = true ∧
    (bB.cap (encode (.vupdAdamw false 0 4 8 false false none))).vl ≤ holds (bB.cap (encode (.vupdAdamw false 0 4 8 false false none))) bB.vu ∧
    (bB.cap (encode (.vupdSgdm false 0 4 8 false false none))).vl ≤ holds (bB.cap (encode (.vupdSgdm false 0 4 8 false false none))) bB.vu ∧
    (bB.cap (encode (.vupdAdamw false 0 4 8 false false none))).vstart < (bB.cap (encode (.vupdAdamw false 0 4 8 false false none))).vl ∧
    (0#5).toNat + 2 * (bB.cap (encode (.vupdAdamw false 0 4 8 false false none))).g ≤ (4#5).toNat := by decide +kernel
/-- Its vectors as E4M3. -/
def bE8 : State := { bV with vu := { bV.vu with vtype := 3 } }
theorem witness_QuantiseResults : bE8.vecReady (.vcvtq false 4 0 8 false none) [] none = true ∧
    (bE8.cap (encode (.vcvtq false 4 0 8 false none))).vl ≤ holds (bE8.cap (encode (.vcvtq false 4 0 8 false none))) bE8.vu ∧
    (bE8.cap (encode (.vcvtq false 4 0 8 false none))).vstart < (bE8.cap (encode (.vcvtq false 4 0 8 false none))).vl ∧
    maskAdmits none bE8.vu 3 = true ∧ lgAt (bE8.cap (encode (.vcvtq false 4 0 8 false none))).lgp (lgOf 8 3) ≤ 3 := by decide +kernel
theorem witness_ReductionResults_tree : bV.vecReady (.vfredsum false 5 5 4 false false none) [] none = true ∧
    bB.vecReady (.vfwredsum false 8 6 4 false false none) [] none = true ∧
    (bV.cap (encode (.vfredsum false 5 5 4 false false none))).vl ≠ 0 ∧
    ({ bV with vu := { bV.vu with vl := 0 } } : State).vecReady (.vfredsum false 5 5 4 false false none) [] none = true ∧
    (({ bV with vu := { bV.vu with vl := 0 } } : State).cap (encode (.vfredsum false 5 5 4 false false none))).vl = 0 := by decide +kernel
/-- A strip of bits that starts at bit 9 of its byte, in `x6`. -/
theorem witness_VectorMemoryWords_strip :
    let s := { bV with me := { bV.me with x := { bV.me.x with regs := bV.me.x.regs.set 6 9 } }, vu := { bV.vu with vtype := 12 } }
    memReady (.vlb false 4 5 6 none) s = true ∧ (match memWord (.vlb false 4 5 6 none) with | some e => e.strip | none => false) = true ∧
      ¬ (s.cur.reg 6).toNat < 8 := by decide +kernel
theorem witness_SpecialMemoryWords_list :
    let s := { bKv with me := { bKv.me with x := { bKv.me.x with regs := bKv.me.x.regs.set 5 0x84004 } } }
    s.vecReady (.vlkv false 0 5 6) [5, 6] none = true ∧ (0x80000#64).toNat % 64 = 0 ∧ (0x84004#64).toNat % 8 ≠ 0 := by decide +kernel
theorem witness_SpecialMemoryWords_past :
    let s := { bKv with me := { bKv.me with kvpos := 0x8000000000000001 } }
    s.vecReady (.vlkv false 0 5 6) [5, 6] none = true ∧ s.me.kvpos.getLsbD 63 = true ∧
      bKvStart.1.ok (s.cap (encode (.vlkv false 0 5 6))) true = true := by decide +kernel
theorem witness_SpecialMemoryWords_offset :
    2 ^ 17 ≤ (({ bLane with me := { bLane.me with x := { bLane.me.x with regs := bLane.me.x.regs.set 5 0x20000 } } } : State).operand
      (.vlld false 4 5 1 none) [5]).toNat := by decide +kernel
theorem witness_AppendWords_none :
    let i : Instr := .vappend false 7 5 3 false (some 1)
    bWork.vecReady i [5] (some 7) = true ∧ (∀ j < 4, maskAdmits (some 1) bWork.vu j = false) := by decide +kernel
theorem witness_TileWords_operands : 4096 ≤ (({ bTile with me := { bTile.me with x := { bTile.me.x with
    regs := bTile.me.x.regs.set 6 0x1000 } } } : State).operand (.tcfg false 0 6) [6]).toNat ∧
    (bTile.operand (.tcfg false 0 6) [6]).toNat < 4096 := by decide +kernel
theorem witness_EngineTransitions_still : (bCmd cmdDone).absentStill cmdDone = true ∧
    (let c := { cmdPaused with absent := some 0 }
     ((bCmd c).writePa (0x20001680 + 1) 16 (3 + 2 ^ 56 * tok.toNat)).absentStill c = true) := by decide +kernel
/-- The second step of the move of the test strand's page, which stands at 0, to 0x40000000. -/
theorem witness_PageTransitions_second :
    let m := { migCmd with moving := some (0x3E020000, 0xDF, 2 ^ 30) }
    let s := bCmd m
    s.cmd tok = some m ∧ m.table = 0 :: [] ∧ s.usesRange 1 0 (2 ^ 30) = false ∧ s.replicasStill m 0 (2 ^ 30) = true ∧
      (match s.targetFrame m 0 (2 ^ 30) with
       | some (new, u) => new == 0x40000000 && leafPa (BitVec.ofNat 64 (u.readPa 0x3E020000 8)) (2 ^ 30) 0 / 2 ^ 30 * 2 ^ 30 == 0
       | none => false) = true ∧ s.fct = 0 ∧ s.freeList 1 (s.tierOf 0) = 0 ∧ m.recs = [] ∧ s.tierOf 0x40000000 = 0 ∧ s.tierOf 0 = 0 ∧
      s.normPa 0 + 2 ^ 30 ≤ s.normPa 0x40000000 ∧ s.normPa 0x3E020000 + 8 ≤ s.normPa 0x40000000 := by decide +kernel
theorem witness_ChainWords_redo :
    let a := { bA with me := { bA.me with cfd := 1, cf := frame (actWord 1 false 0 0) 0 8 2 1 0 0 } }
    let x := { bX with me := { bX.me with cfd := 1, cf := frame (actWord 1 false 0 0) 0 8 2 1 0 0 } }
    a.thr = .a ∧ x.thr = .x ∧ a.me.cfd ≠ 0 ∧ callOf (a.me.cfr 5) = false ∧ a.cur.priv = .u ∧ x.cur.priv = .u ∧ a.me.ch .a = none ∧
      x.me.ch .x = none ∧ a.atHand [5] none = true ∧ x.atHand [] none = true := by decide +kernel
/-- The chain's block cannot be written where its page has no W. -/
theorem witness_ChainRendezvous_frames :
    let s := bothAt (.rvchain 5) 0x90000 0 (Vector.replicate 16 0)
    let r := s.writePa 0x3E020000 8 0xD7
    (match s.chainCheck 0x90000 0x90000 s.me.wordA with | .ok (b, u) => (u.loadFrame 0x90000 b).holds | _ => false) = true ∧
      (match r.chainCheck 0x90000 0x90000 r.me.wordA with
       | .ok (b, u) => (match u.loadFrame 0x90000 b with | .trap c _ v => c == 0x06 && v == 0x90050 | _ => false)
       | _ => false) = true := by decide +kernel
theorem witness_ChainRendezvous_unwind :
    let s := bothAt (.rvabort 5) 2 1 (frame (actWord 0 true 0 0) 0 8 2 1 0 0)
    s.me.rendezvous 3 = some (2, 2) ∧ s.me.cfd = 1 ∧ (s.popFrame 2).holds = true ∧
      ((s.writePa 0x3E020000 8 0xD7).popFrame 2).holds = false := by decide +kernel
theorem witness_ChainActions_end :
    let s := inFrame (actWord 3 true 0 7) 0 8 1 1 0 0
    let z := (s.setCf 5 (actWord 3 false (slotOf (s.me.cfr 5)) (idxOf (s.me.cfr 5)))).bumpCf 13
    s.me.cidx + 1 < 2 ^ 32 ∧ s.me.adjIdx < 2 ^ 32 ∧ (z.popFrame 1).holds = true ∧ ((z.writePa 0x3E020000 8 0xD7).popFrame 1).holds = false := by
  decide +kernel
theorem witness_ChainActions_snap :
    let s := inFrame (actWord 1 false 1 4) tok 8 2 1 4 7
    (((s.setCf 6 0).bumpCf 11).afterSnap (slotOf (s.me.cfr 5))).holds = true ∧
      ((((s.writePa 0x3E020000 8 0xD7).setCf 6 0).bumpCf 11).afterSnap (slotOf (s.me.cfr 5))).holds = false := by decide +kernel
theorem witness_TimePasses_quiet : bA.me.ending = none ∧ bA.cmds = [] := by decide +kernel
theorem witness_StrandsLeave_yielded :
    let y := { bA with me := { bA.me with status := .yielded } }
    let x := { y with me := { y.me with x := { y.me.x with wait := .stopped } } }
    y.me.x.wait ≠ .stopped ∧ x.me.x.wait = .stopped ∧ x.candidates 0 0 0 = [] ∧ y.me.ending = none ∧ y.cmds = [] := by decide +kernel
theorem witness_StrandsLeave_rank :
    let m := { waiting .suspended 1 0 with save := some 1 }
    (bN m).rankInTurn (shadowKey 2) (sourceRank 0 5) = true ∧
      ({ bN m with arrivals := [(shadowKey 2, (bN m).gts, sourceRank 1 9)] } : State).rankInTurn (shadowKey 2) (sourceRank 0 12) = false ∧
      (5 : Nat) < 2 ^ 16 ∧ (1 : Nat) < 2 ^ 10 := by decide +kernel
theorem witness_HostCommands_loaded : bA.firmware.loaded = false ∧ 0x10000 + 0x10000 ≤ bF.regions[0].2.1 ∧
    (0 : Nat) ≤ 0x14000 ∧ 0x14000 < 0 + 0x20000 := by decide +kernel
theorem witness_ModuleControls_shadow : 1 < 65536 ∧ 0 < bF.ctxFld 1 32 4 ∧ 0x10000 % 65536 = 0 ∧
    bF.vaMoving 1 (BitVec.ofNat 64 (bF.ctxFld 1 24 8 + 0xFF8)) 8 = false := by decide +kernel
/-- A module with some sensor readings. -/
def bHot (l : List (Nat × Nat)) : State := { bA with platform := { bA.platform with sensors := l } }
theorem witness_PowerAndHeat_throttle : assoc (bHot [(5, 115)]).platform.sensors 5 = some 115 ∧ 2 ≤ sensorZone 5 115 ∧
    assoc (bHot [(5, 105)]).platform.sensors 5 = some 105 ∧ sensorZone 5 105 = 1 ∧ (bHot []).platform.sensors = [] := by decide +kernel
theorem witness_PowerAndHeat_flash : (0, 5) ∉ bA.platform.flashGone ∧ bA.eraseCount (0, 5) + 1 < 9500 ∧
    ({ bA with erases := [(0, 5, 9499)] } : State).eraseCount (0, 5) = 9499 ∧ bA.spares.toList.getD 0 0 ≠ 0 ∧
    ({ bA with spares := Vector.replicate 4 0 } : State).spares.toList.getD 0 0 = 0 ∧
    (0, 5) ∈ ({ bA with platform := { bA.platform with flashGone := [(0, 5)] } } : State).platform.flashGone := by decide +kernel
theorem witness_OutsideEvents_places : 2 ^ 50 % 64 + 8 ≤ 64 ∧ bA.remote (2 ^ 50) = false ∧ bA.tierOf (2 ^ 50) = 3 ∧
    (let s := bFarOp (.load 7 8 false false)
     { s.me with anext := 1, a := { s.me.a with pc := 0x30004 } }.passedA (farOp (.load 7 8 false false)) = false) ∧
    (2 ^ 51 / 2 ^ 51 % 2 = 1 ∧ 2 ^ 51 % 8 = 0 ∧ bA.poisonedAt (.mem (2 ^ 51)) 8 = false) ∧
    ({ bFar with cmds := [farCmd] } : State).absentStill farCmd = true ∧ (3 : Nat) < 10 := by decide +kernel
theorem witness_SubnormalAssist : ({ bA with me := { bA.me with assists := 1 } } : State).me.assists ≠ 0 ∧ bA.me.assists = 0 := by decide +kernel

/-! ## The manual's worked examples, and corners computed by hand from its rules -/

/-- Vector registers from element 0 on; every other bit is 0. -/
def pack (w : Nat) (l : List Nat) : Nat := l.foldr (fun v n => v + 2 ^ w * n) 0
def vregs (l : List (Nat × Nat)) : BitVec 524288 := BitVec.ofNat 524288 (l.foldl (fun n p => n + p.2 * 2 ^ (16384 * p.1)) 0)
/-- The X-thread under a vector type and length, with register contents. -/
def bVec (vtype vl : Nat) (l : List (Nat × Nat)) : State :=
  { bX with vu := { bX.vu with vtype := BitVec.ofNat 64 vtype, vl := vl, regs := vregs l, marks := 0 } }
def elems (o : Out) (r w n : Nat) : List Nat :=
  match o with
  | .next t => (List.range n).map (t.vu.elem r w)
  | _ => []
def regA (o : Out) (r : RegNo) : Option Word := match o with | .next t => some (t.me.a.reg r) | _ => none
def regX (o : Out) (r : RegNo) : Option Word := match o with | .next t => some (t.me.x.reg r) | _ => none
/-- A thread with two operands in registers 5 and 6. -/
def bA2 (x y : Word) : State := { bA with me := { bA.me with a := { bA.me.a with regs := (bA.me.a.regs.set 5 x).set 6 y } } }
def bX2 (x y : Word) : State := { bX with me := { bX.me with x := { bX.me.x with regs := (bX.me.x.regs.set 5 x).set 6 y } } }

/-! ### Scalar words -/

/-- R114: sums wrap; x0 takes nothing. -/
theorem test_add_wraps : regA (exec (.add 7 5 6) (bA2 0xFFFFFFFFFFFFFFFF 2)) 7 = some 1 ∧ regA (exec (.add 0 5 6) (bA2 1 2)) 0 = some 0 := by
  decide +kernel
/-- R114: division saturates toward the sign of the exact result. -/
theorem test_div_corners : regA (exec (.div 7 5 6) (bA2 9 0)) 7 = some 0x7FFFFFFFFFFFFFFF ∧ regA (exec (.rem 7 5 6) (bA2 9 0)) 7 = some 9 ∧
    regA (exec (.div 7 5 6) (bA2 0x8000000000000000 0xFFFFFFFFFFFFFFFF)) 7 = some 0x7FFFFFFFFFFFFFFF ∧
    regA (exec (.rem 7 5 6) (bA2 0x8000000000000000 0xFFFFFFFFFFFFFFFF)) 7 = some 0 := by decide +kernel
theorem test_mulh_signs : regA (exec (.mulh 7 5 6) (bA2 0xFFFFFFFFFFFFFFFF 2)) 7 = some 0xFFFFFFFFFFFFFFFF ∧
    regA (exec (.mulhn 7 5 6) (bA2 0xFFFFFFFFFFFFFFFF 2)) 7 = some 1 := by decide +kernel
/-- R114: a shift takes the low six bits of its amount. -/
theorem test_shift_amounts : regA (exec (.sll 7 5 6) (bA2 1 65)) 7 = some 2 ∧
    regA (exec (.sra 7 5 6) (bA2 0x8000000000000000 63)) 7 = some 0xFFFFFFFFFFFFFFFF := by decide +kernel
/-- FP32 by hand: 1 + 2 = 3, 1 / 3 to nearest even, 1.5 * 2 + 1 = 4; the overflow of 2^127 + 2^127. -/
theorem test_scalar_float : regX (exec (.fadd 7 5 6) (bX2 0x3F800000 0x40000000)) 7 = some 0x40400000 ∧
    regX (exec (.fdiv 7 5 6) (bX2 0x3F800000 0x40400000)) 7 = some 0x3EAAAAAB ∧
    regX (exec (.fadd 7 5 6) (bX2 0x7F000000 0x7F000000)) 7 = some 0x7F800000 := by decide +kernel
theorem test_fmac_fuses : regX (exec (.fmac 7 5 6) (bX2 0x3FC00000 0x40000000)) 7 = some 0x40800000 := by decide +kernel
/-- R119: a branch counts from its own address in words; -3 words from 0x30000. -/
theorem test_branch_back : (match exec (.beq 5 6 0xFFFD#16) (bA2 4 4) with | .next t => t.me.a.pc | _ => 0) = 0x2FFF4 ∧
    (match exec (.beq 5 6 0xFFFD#16) (bA2 4 5) with | .next t => t.me.a.pc | _ => 0) = 0x30004 := by decide +kernel
/-- A load extends the sign of its byte when it is performed. -/
theorem test_load_sign : (match exec (.loadPerform 0) (bP (.load 7 1 true false)) with | .next t => t.me.a.reg 7 | _ => 1) = 0 ∧
    (match exec (.loadPerform 0) ((bP (.load 7 1 true false)).writePa 0x40000 1 0x80) with | .next t => t.me.a.reg 7 | _ => 0) = 0xFFFFFFFFFFFFFF80 := by
  decide +kernel
/-- R90, R98: a store reaches memory, low byte first, only when it drains. -/
theorem test_store_order : (match exec (.std 6 5 0) (bA2 0x40000 0x1122) with | .next t => (t.readPa 0x40000 8, t.me.aops.length) | _ => (1, 0)) = (0, 1) ∧
    (match exec (.storeDrain) bStore with | .next t => (t.readPa 0x40000 1, t.readPa 0x40007 1) | _ => (0, 0)) = (0x88, 0x11) := by decide +kernel

/-! ### Vector words -/

/-- R151: under `i8` 100 + 50 saturates at 127, under `n8` it is 150. -/
theorem test_vsadd_saturates : elems (exec (.vsadd false 1 2 3 false false none) (bVec 11 1 [(2, 100), (3, 50)])) 1 8 1 = [127] ∧
    elems (exec (.vsadd false 1 2 3 false false none) (bVec 15 1 [(2, 100), (3, 50)])) 1 8 1 = [150] := by decide +kernel
/-- The minimum of 0xFF and 0x01 is 0xFF under either type. -/
theorem test_vmin_signed : elems (exec (.vminVV false 1 2 3 false false none) (bVec 11 1 [(2, 0xFF), (3, 1)])) 1 8 1 = [0xFF] ∧
    elems (exec (.vminVV false 1 2 3 false false none) (bVec 15 1 [(2, 0xFF), (3, 1)])) 1 8 1 = [0xFF] := by decide +kernel
/-- R82's example: 1.0, +0, 2^-24 and 2^-24 reduced in order and as a tree. -/
theorem test_reductions :
    let s := bVec 0 4 [(2, pack 32 [0x3F800000, 0, 0x33800000, 0x33800000]), (1, 0)]
    elems (exec (.vfredosum false 3 1 2 false false none) s) 3 32 1 = [0x3F800000] ∧
      elems (exec (.vfredsum false 3 1 2 false false none) s) 3 32 1 = [0x3F800001] := by decide +kernel
/-- The same tree with element 3 masked off. -/
theorem test_reduction_masked :
    let s := bVec 0 4 [(2, pack 32 [0x3F800000, 0, 0x33800000, 0x33800000]), (1, 0)]
    elems (exec (.vfredsum false 3 1 2 false false (some 1)) { s with vu := { s.vu with masks := s.vu.masks.set 1 7 } }) 3 32 1 = [0x3F800000] := by
  decide +kernel
/-- R75's example: an FP32 block whose largest magnitude is 1,000 has scale 0x81 in E4M3, and 1,000 becomes 0x78. -/
theorem test_quantise : elems (exec (.vcvtq false 4 0 8 false none) (bVec 3 1 [(8, 0x447A0000)])) 4 8 1 = [0x78] ∧
    (match exec (.vcvtq false 4 0 8 false none) (bVec 3 1 [(8, 0x447A0000)]) with | .next t => (t.vu.scales.toList.map (fun (v : BitVec 8192) => v.toNat % 256)) | _ => []).contains 0x81 = true := by
  decide +kernel
/-- R84's example: 1.0 + 2^-20 in its two planes and back. -/
theorem test_planes : elems (exec (.vsplit false 0 8 false none) (bVec 1 1 [(8, 0x3F800008)])) 0 16 1 = [0x3F80] ∧
    elems (exec (.vsplit false 0 8 false none) (bVec 1 1 [(8, 0x3F800008)])) 1 16 1 = [0x0008] ∧
    elems (exec (.vjoin false 16 0 false none) (bVec 1 1 [(0, 0x3F80), (1, 8)])) 16 32 1 = [0x3F800008] := by decide +kernel
/-- R158's example: the later of two sources wins, and an index at `vl` or above is ignored. -/
theorem test_vpush_order : elems (exec (.vpush false 10 6 2 false false none)
    (bVec 9 4 [(2, pack 32 [10, 20, 30, 40]), (6, pack 32 [2, 0, 2, 7]), (10, pack 32 [1, 1, 1, 1])])) 10 32 4 = [20, 1, 30, 1] := by decide +kernel
/-- 2^1 = 2, 2^-1 = 0.5 and 1 / sqrt 4 = 0.5 are exact. -/
theorem test_special_functions : elems (exec (.vfexp false 1 2 false none) (bVec 0 2 [(2, pack 32 [0x3F800000, 0xBF800000])])) 1 32 2 = [0x40000000, 0x3F000000] ∧
    elems (exec (.vfrsq false 1 2 false none) (bVec 0 1 [(2, 0x40800000)])) 1 32 1 = [0x3F000000] := by decide +kernel
/-- `vupd.sgdm`'s example: two steps take the weight 1.0 to 0x3F7FFFF0 and 0x3F7FFFD8 in its planes. -/
theorem test_sgdm :
    let s (h l m : Nat) : State :=
      let t := bVec 1 1 [(0, h), (1, l), (4, m), (8, 0x3C800000)]
      { t with me := { t.me with lscale := 8, x := { t.me.x with regs := ((t.me.x.regs.set 16 0x3C800000).set 17 0x3F000000).set 20 0 } } }
    let r (h l m : Nat) : List Nat := elems (exec (.vupdSgdm false 0 4 8 false false none) (s h l m)) 0 16 1 ++
      elems (exec (.vupdSgdm false 0 4 8 false false none) (s h l m)) 1 16 1 ++ elems (exec (.vupdSgdm false 0 4 8 false false none) (s h l m)) 4 16 1
    r 0x3F80 0 0 = [0x3F7F, 0xFFF0, 0x3880] ∧ r 0x3F7F 0xFFF0 0x3880 = [0x3F7F, 0xFFD8, 0x38C0] := by decide +kernel

/-! ### Tiles, engines, the machine -/

/-- The chapter on tiles: step 2 of its example leaves 36, 16, 18 and 8. -/
def cells (o : Out) : List Nat :=
  match o with
  | .next t => [0, 1, 128, 129].map (fun k => ((t.tile (t.me.tileNo 0)).cells.extractLsb' (32 * k) 32).toNat)
  | _ => []
def bCross (lscale header : Nat) (cs : List (Nat × Nat)) : State :=
  let one := [0x3F80, 0x3F80, 0x3F80, 0x3F80, 0x3F80, 0x3F80, 0x3F80, 0x3F80]
  let s := bVec 1 16 [(2, pack 16 (one ++ one.map (fun _ => 0x3F00))),
    (3, pack 16 ([0x3F80, 0x4000, 0x4040, 0x4080, 0x40A0, 0x40C0, 0x40E0, 0x4100] ++ one.map (fun _ => 0x4000)))]
  { s with me := { s.me with tcols := 2, lscale := BitVec.ofNat 64 lscale }, vu := { s.vu with masks := s.vu.masks.set 1 1 },
           tiles := assocSet s.tiles 0 { holder := some (1, 0), header := BitVec.ofNat 32 header,
                                         cells := BitVec.ofNat 524288 (cs.foldl (fun n p => n + p.2 * 2 ^ (32 * p.1)) 0) } }
theorem test_tcross : cells (exec (.tcross false 0 2 3 0 false false none) (bCross 0 0 [])) = [0x42100000, 0x41800000, 0x41900000, 0x41000000] := by
  decide +kernel
/-- R80's example: by 2^2, 1.5 * 2^127 becomes the largest finite number with overflow, and 3.0 becomes 12.0. -/
theorem test_rescale : (rescaleCell false 2 0x7F400000).1 = 0x7F7FFFFF ∧ (rescaleCell false 2 0x40400000) = (0x41400000, ⟨0, false⟩) ∧
    (rescaleCell false 3 0x42100000).1 = 0x43900000 := by decide +kernel
/-- R212's example: chunks of planes 0 and 1 have code 1 and no data, the rest of plane 2 code 2 and one byte, its first chunk
code 0 and its 64 bytes. -/
theorem test_chunk_codes : chunkEnc (List.replicate 64 0) = (1, []) ∧ chunkEnc (List.replicate 64 0x80) = (2, [0x80]) ∧
    chunkEnc (0x80 :: 0x00 :: List.replicate 62 0x80) = (0, 0x80 :: 0x00 :: List.replicate 62 0x80) := by decide +kernel
/-- The grace window of chapter 19: budget 20 from `gts` 1,000 is used up at 21,000, with `ydl` 23,000. -/
theorem test_grace_window :
    let s := { bA with gts := 1000, me := { bA.me with budget := 20 } }
    (match exec (.gtsSlewing 21000) s with | .next t => (t.me.budget, t.me.ydl) | _ => (1, 0)) = (0, 23000) := by decide +kernel
/-- R122's example: D0 at offset 0x1000, row pitch 64, four granules a row, tile pitch 0x400, two rows, rotation 1. -/
theorem test_stream_order : [0, 3, 4, 5, 6, 7, 8, 11].map (fun n => granuleAddr #v[0x1000, 2 ^ 32 * 4 + 64, 2 ^ 32 * 2 + 0x400, 1] n) =
    [0x1000, 0x1030, 0x1050, 0x1060, 0x1070, 0x1040, 0x1400, 0x1430] := by decide +kernel

end Sys2Proof.Tests
end

section
/-!
PROOFS. The immediate and upper words (R115) and the trapping words of the SYS major (R128).
-/

namespace Sys2Proof.Machine

/-! ## The checks of R110 for integer words and for the trapping words -/

/-- A word of majors 0x01 to 0x09 is for both threads, needs no privilege and no unit, and writes rd (R107): what it must pass is
the check of its destination. -/
theorem checks_integerMajor {w : IWord} {s : State} (lo : 0x01 ≤ wMaj w) (hi : wMaj w ≤ 0x09)
    (hd : s.mayWrite (wRd w) = true) : checks w s = none := by
  have hcol : column w = .both := by unfold column; interval_cases wMaj w <;> rfl
  have hdest : xdest w = some (wRd w) := by unfold xdest; interval_cases wMaj w <;> rfl
  have hpriv : needsS w = false := by unfold needsS; interval_cases wMaj w <;> rfl
  have hvec : needsVec w = false := by unfold needsVec; interval_cases wMaj w <;> simp
  have hdir : dirOk w s.thr = true := by
    have hqop : (wMaj w != 0x17) = true := by simp; omega
    unfold dirOk
    rw [hdest, hqop]
    exact hd
  exact checks_scalar (by omega) (by rw [hcol]; rfl) hdir (.inl hpriv) (.inl hvec)

/-- A word of the SYS major whose function is below 5 is for both threads, needs no privilege and no unit, and writes no scalar
register (R107): it passes every check. -/
theorem checks_sysMajor {w : IWord} {s : State} (hm : wMaj w = 0x1A) (hf : wFn6 w < 5) : checks w s = none := by
  have hcol : column w = .both := by
    simp only [column, hm]
    rw [if_neg (by omega), if_neg (by simp; omega)]
  have hdest : xdest w = none := by simp only [xdest, hm]
  have hpriv : needsS w = false := by simp only [needsS, hm]; simp; omega
  have hvec : needsVec w = false := by simp [needsVec, hm]
  have hdir : dirOk w s.thr = true := by simp [dirOk, hm, hdest]
  exact checks_scalar (by omega) (by rw [hcol]; rfl) hdir (.inl hpriv) (.inl hvec)

/-! ## The immediate and upper forms (R115) -/

/-- The checks of an SI word of an integer major are that of its destination. -/
theorem checks_packSI {s : State} {m : BitVec 6} {d a : RegNo} {k : BitVec 16} (lo : 0x01 ≤ m.toNat) (hi : m.toNat ≤ 0x09)
    (hd : s.mayWrite d = true) : checks (packSI m d a k) s = none := by
  apply checks_integerMajor <;> simpa [wMaj, wRd]

/-- The checks of an SU word of an integer major are that of its destination. -/
theorem checks_packSU {s : State} {m : BitVec 6} {d : RegNo} {k : BitVec 21} (lo : 0x01 ≤ m.toNat) (hi : m.toNat ≤ 0x09)
    (hd : s.mayWrite d = true) : checks (packSU m d k) s = none := by
  apply checks_integerMajor <;> simpa [wMaj, wRd]

/-- An immediate word writes its function of the source value and the sign-extended immediate, and retires. -/
theorem immOp_completes {s : State} {m : BitVec 6} {d a : RegNo} (k : BitVec 16) (f : Word → Word → Word)
    (hw : s.mayWrite d = true) (hg : s.atHand [a] (some d) = true) (lo : 0x01 ≤ m.toNat) (hi : m.toNat ≤ 0x09) :
    immOp m d a k s f = .next ((s.after1 a).wrote1 d (f (s.val1 a) (k.signExtend 64))) :=
  regOp_one (checks_packSI lo hi hw) hg _

/-- `immh` writes its immediate, sign-extended and shifted left by 16, and retires. -/
theorem execImmh_completes {s : State} {d : RegNo} (k : BitVec 21) (hw : s.mayWrite d = true)
    (hg : s.atHand [] (some d) = true) : execImmh d k s = .next (s.endConvoy.wrote1 d (k.signExtend 64 <<< 16)) :=
  regOp_none (checks_packSU (m := 0x08#6) (by decide) (by decide) hw) hg (fun _ _ => k.signExtend 64 <<< 16)

/-- `apc` adds that value to the PC. -/
theorem execApc_completes {s : State} {d : RegNo} (k : BitVec 21) (hw : s.mayWrite d = true)
    (hg : s.atHand [] (some d) = true) :
    execApc d k s = .next (s.endConvoy.wrote1 d (s.pc + k.signExtend 64 <<< 16)) :=
  regOp_none (checks_packSU (m := 0x09#6) (by decide) (by decide) hw) hg (fun _ _ => s.pc + k.signExtend 64 <<< 16)

/-! ## What reading a source keeps -/

@[simp] theorem State.tokenEffect_resuming (s : State) (q : Nat) (t : Option Nat) :
    (s.tokenEffect q t).me.resuming = s.me.resuming := by
  unfold State.tokenEffect; split
  · rfl
  · split <;> rfl

@[simp] theorem State.tokenEffect_cur (s : State) (q : Nat) (t : Option Nat) : (s.tokenEffect q t).cur = s.cur := by
  unfold State.tokenEffect; split
  · rfl
  · split <;> rfl

@[simp] theorem State.setQueue_cur (s : State) (q : Nat) (k : Queue) : (s.setQueue q k).cur = s.cur := rfl

@[simp] theorem State.pop_resuming (s : State) (q : Nat) : (s.pop q).2.me.resuming = s.me.resuming := by
  unfold State.pop; split <;> simp

@[simp] theorem State.pop_cur (s : State) (q : Nat) : (s.pop q).2.cur = s.cur := by
  unfold State.pop; split <;> simp

@[simp] theorem State.take_resuming (s : State) (r : RegNo) : (s.take r).2.me.resuming = s.me.resuming := by
  unfold State.take; split <;> simp

@[simp] theorem State.take_cur (s : State) (r : RegNo) : (s.take r).2.cur = s.cur := by
  unfold State.take; split <;> simp

@[simp] theorem State.endConvoy_cur (s : State) : s.endConvoy.cur = s.cur := by
  simp [State.cur]

/-! ## The word at hand after it has read and retired -/

/-- Which entry of the flight table runs again rests on the thread, the resuming flag and the vector unit alone. -/
theorem State.held_congr {s t : State} (hthr : t.thr = s.thr) (hres : t.me.resuming = s.me.resuming) (hvu : t.vu = s.vu) :
    t.held = s.held := by
  unfold State.held; rw [hthr, hres, hvu]

/-- Outside a run of held entries the instruction at hand stands at the program counter. -/
theorem State.insPc_of_held_none {s : State} (h : s.held = none) : s.insPc = s.pc := by
  unfold State.insPc; rw [h]; rfl

@[simp] theorem State.held_endConvoy (s : State) : s.endConvoy.held = s.held := State.held_congr (by simp) (by simp) (by simp)

@[simp] theorem State.held_after1 (s : State) (a : RegNo) : (s.after1 a).held = s.held :=
  State.held_congr (by simp [State.after1]) (by simp [State.after1]) (by simp [State.after1])

@[simp] theorem State.held_retire (s : State) : s.retire.held = s.held :=
  State.held_congr (by simp [State.retire_eq]) (by simp [State.retire_eq]) (by simp [State.retire_eq])

@[simp] theorem State.pc_retire (s : State) : s.retire.pc = s.pc + 4 := by simp [State.pc, State.retire_eq]

@[simp] theorem State.pc_after1 (s : State) (a : RegNo) : (s.after1 a).pc = s.pc := by simp [State.pc, State.after1]

@[simp] theorem State.pc_endConvoy (s : State) : s.endConvoy.pc = s.pc := by simp [State.pc]

/-! ## The trapping words (R128) -/

/-- A word of the SYS form with a function below 5 passes every check. -/
theorem checks_packS3_sys {s : State} (a : RegNo) {f : BitVec 6} (hf : f.toNat < 5) :
    checks (packS3 0x1a#6 0#5 a 0#5 f 0#5) s = none := by
  apply checks_sysMajor <;> simp [wMaj, wFn6, hf]

/-- A word that retires and then traps records the address after its own. -/
theorem trapForm_completes {w : IWord} {s : State} {a : RegNo} (cause : Nat) (hc : checks w s = none) (hh : s.held = none)
    (hg : s.atHand [a] none = true) :
    trapForm w a cause s = .next ((s.after1 a).retire.takeTrap
      { cause := cause, sub := 0, tval := s.val1 a, tepc := s.pc + 4, pages := [], more := false, resume := false }) := by
  have hpc : (s.after1 a).retire.insPc = s.pc + 4 := by
    rw [State.insPc_of_held_none (by simp [hh])]; simp
  unfold trapForm
  rw [scalarOp_one hc hg]
  simp only [Res.state, State.trapAt, hpc]

/-- `dbrk` does not retire, and records its own address. -/
theorem execDbrk_completes {s : State} (hh : s.held = none) (hg : s.atHand [] none = true) :
    execDbrk s = .next (s.endConvoy.takeTrap
      { cause := 0x0D, sub := 0, tval := 0, tepc := s.pc, pages := [], more := false, resume := false }) := by
  have hpc : s.endConvoy.insPc = s.pc := by
    rw [State.insPc_of_held_none (by simp [hh])]; simp
  unfold execDbrk
  rw [scalarOp_none (checks_packS3_sys 0#5 (f := 4#6) (by decide)) hg]
  simp only [Res.state, State.trapAt, hpc]

end Sys2Proof.Machine

namespace Sys2Proof

open Machine

/-- Settles O11: each word is the immediate or the upper form with its own function, which completes once its destination may be
written and its operands are at hand; the layouts are those that `encode` writes out. -/
theorem immediateWords : Obligations.ImmediateWords := by
  unfold Obligations.ImmediateWords
  refine ⟨fun s d a k hw hg => ?_, fun s d k hw hg => ?_, fun d a k h => ?_⟩
  · have completes (m : BitVec 6) (f : Word → Word → Word) := immOp_completes (m := m) k f hw hg
    refine ⟨?_, ?_, ?_, ?_, ?_, ?_⟩
    · exact completes 0x02#6 (· + ·) (by decide) (by decide)
    · exact completes 0x03#6 (· &&& ·) (by decide) (by decide)
    · exact completes 0x04#6 (· ||| ·) (by decide) (by decide)
    · exact completes 0x05#6 (· ^^^ ·) (by decide) (by decide)
    · exact completes 0x06#6 (fun x i => flag (x.slt i)) (by decide) (by decide)
    · exact completes 0x07#6 (fun x i => flag (x.ult i)) (by decide) (by decide)
  · exact ⟨execImmh_completes k hw hg, execApc_completes k hw hg⟩
  · exact ⟨rfl, rfl, rfl, rfl, rfl, rfl, rfl, rfl⟩

/-- Settles O27: `trap` and `svc` are the form that retires before it traps, `dbrk` traps where it stands; the fields of their words
are those of the layout S3. -/
theorem systemTraps : Obligations.SystemTraps := by
  unfold Obligations.SystemTraps
  intro s a raised
  refine ⟨fun hh hg => ⟨?trap, ?svc⟩, fun hh hg => execDbrk_completes hh hg, fun i hi => ?fields⟩
  case trap => exact trapForm_completes 0x0B (checks_packS3_sys a (by decide)) hh hg
  case svc => exact trapForm_completes 0x0C (checks_packS3_sys a (by decide)) hh hg
  case fields =>
    simp only [List.mem_cons, List.not_mem_nil, or_false] at hi
    rcases hi with rfl | rfl | rfl <;> exact ⟨packS3_0_5 .., packS3_26_6 ..⟩

end Sys2Proof
end

section
/-!
PROOFS. The frame query of the CHAIN major (R239).
-/

namespace Sys2Proof.Machine

/-- A field that starts at bit 0 is a remainder. -/
theorem bits_low (v hi : Nat) : bits v hi 0 = v % 2 ^ (hi + 1) := by
  unfold bits; rw [Nat.pow_zero, Nat.div_one, Nat.sub_zero]

/-- The CHAIN word of function 2 is for both threads, needs no privilege and no unit, and writes ad (R107, R239): what it must pass
is the check of its destination. -/
theorem checks_frameQuery {w : IWord} {s : State} (hm : wMaj w = 0x1D) (hf : wFn6 w = 2)
    (hd : s.mayWrite (wRd w) = true) : checks w s = none := by
  have hcol : column w = .both := by simp [column, hm]
  have hdest : xdest w = some (wRd w) := by simp [xdest, hm, hf]
  have hpriv : needsS w = false := by simp [needsS, hm]
  have hvec : needsVec w = false := by simp [needsVec, hm]
  have hdir : dirOk w s.thr = true := by
    have hqop : (wMaj w != 0x17) = true := by simp [hm]
    unfold dirOk
    rw [hdest, hqop]
    exact hd
  exact checks_scalar (by omega) (by rw [hcol]; rfl) hdir (.inl hpriv) (.inl hvec)

/-- The checks of the word of `rvq` are that of its destination. -/
theorem checks_packE_rvq {s : State} {d : RegNo} (hd : s.mayWrite d = true) :
    checks (packE 0x1d#6 d 0#5 0#5 2#6 0#2 0#3) s = none := by
  apply checks_frameQuery <;> simp [wMaj, wFn6, wRd, hd]

/-- `rvq` writes the counters of the top frame, or 0 where there is none, and retires. -/
theorem execRvq_completes {s : State} {d : RegNo} (hw : s.mayWrite d = true) (hg : s.atHand [] (some d) = true) :
    execRvq d s = .next (s.endConvoy.wrote1 d (if s.me.cfd = 0 then 0 else
      BitVec.ofNat 64 ((s.me.cfr 10).toNat % 2 ^ 32 + 2 ^ 32 * actOf (s.me.cfr 5) +
        2 ^ 35 * (if callOf (s.me.cfr 5) = true then 1 else 0) + 2 ^ 36 * s.me.cfd))) := by
  unfold execRvq
  rw [regOp_none (checks_packE_rvq hw) hg, bits_low]

end Sys2Proof.Machine

namespace Sys2Proof

open Machine

/-- Settles O48: `rvq` is a word without sources that writes the counters of the top frame; `encode` writes its layout out. -/
theorem frameQueryWord : Obligations.FrameQueryWord := by
  unfold Obligations.FrameQueryWord
  exact fun s d => ⟨execRvq_completes, rfl⟩

end Sys2Proof
end
